-- ==== Sys2Proof/Word.lean ====
section
/-!
DEFINITION. The plain types that commands and state share: words, unit numbers (R28 of 01_folio) and the payloads that
commands carry from outside the package.
-/
namespace Sys2Proof

abbrev Byte := BitVec 8
abbrev W16 := BitVec 16
abbrev W32 := BitVec 32
abbrev W64 := BitVec 64
abbrev Bytes := List Byte

/-- Die, and the keeper on it: 0 W0, 1 W1, 2 E0, 3 E1, 4 PW, 5 PE (R28). -/
abbrev DieId := Fin 6
/-- Compute die 0-3 (R28). -/
abbrev CDieId := Fin 4
abbrev ClusterId := Fin 128
abbrev CoreId := Fin 1024
abbrev StackId := Fin 12
abbrev PortId := Fin 56
abbrev HartId := Fin 144
abbrev PcieId := Fin 8
abbrev SegId := Fin 32
abbrev CheckId := Fin 72
abbrev LineId := Fin 32
abbrev BasinId := Fin 8
abbrev RingId := Fin 16
/-- Stitch link, in the row order of R24 (R398): W0-E0, W1-E1, W0-W1, E0-E1, PW-W0, PW-W1, PE-E1, PE-E0, PW-PE. -/
abbrev LinkId := Fin 9
/-- Dalpa complex, in the order of R57: PW CX0, PW CX1, PE CX0, PE CX1. -/
abbrev ComplexId := Fin 4
abbrev FlowId := W16

/-- The four engine queues of a core (R14): 1 press, 2 vector, 3 barge, 4 sync. -/
inductive Engine where
  | press | vector | barge | sync
  deriving DecidableEq, Repr

/-- Who executes a barge: a core's barge queue, or a work ring on a cluster's engine (R253, R269). -/
inductive BargeSrc where
  | core (c : CoreId)
  | ring (b : BasinId) (r : RingId) (k : ClusterId)
  deriving DecidableEq, Repr

/-- RISC-V privilege of a hart that accesses a Xafoide CSR (R409). -/
inductive Priv where
  | m | s | vs | u | vu
  deriving DecidableEq, Repr

/-- The access paths to control registers, each with its own latch (R491). -/
inductive AccessPath where
  | page (b : BasinId) | keeper (d : DieId) | mgmt
  deriving DecidableEq, Repr

/-- JTAG instructions as R99 and R102 class them. -/
inductive JtagIr where
  | bypass | sample | preload | extest
  | boundaryOptional
  | debug
  deriving DecidableEq, Repr

/-- An administrator channel of the trust sheet's mask (R81): a basin's mailbox, or the management bus. -/
inductive Channel where
  | basin (b : BasinId) | mgmt
  deriving DecidableEq, Repr

/-- An error to be logged and given a scope (R15, R451, R453). `basin` 0xFF and `unit` 0xFFFF stand for none. -/
structure ErrEvent where
  code : W16
  die : DieId
  basin : Byte
  unit : W16
  data : W32
  addr : W64
  deriving DecidableEq, Repr

/-- What the outside of the package shows at the start (R86, R93, R518): straps, references, flash. -/
structure StartEnv where
  testEn : Bool
  mgAddr : BitVec 2
  ref0 : Bool
  ref1 : Bool
  sfdp : Bool
  octal : Bool
  deriving DecidableEq, Repr

/-- What the governor measures in one lock cycle (R436, R445): package energy of the cycle in µJ (1 W over 1 µs is 1 µJ),
and the least slack of each compute die in mV. -/
structure LockMeas where
  watts : Nat
  slack : List Nat
  deriving DecidableEq, Repr

/-- A towpath frame of R361: header fields and payload (the padding is not carried). -/
structure TowFrame where
  kind : Byte
  cls : BitVec 2
  slow : Bool
  seq : W16
  flow : FlowId
  alive : W16
  epoch : Byte
  payload : Bytes
  deriving DecidableEq, Repr

/-- The order in which a port's lanes arrive (R357). -/
inductive LaneOrder where
  | straight | reversed | other
  deriving DecidableEq, Repr

/-- What a training attempt finds (R355-R358, R370). Masks have bit i for lane i. -/
structure TrainOutcome where
  locked : Byte
  trained : Byte
  idGood : Byte
  peerGood : Byte
  inverted : Byte
  order : LaneOrder
  inTime : Bool
  peerSerial : W64
  peerMode : Byte
  peerStratum : Byte
  peerReturning : Bool
  deriving DecidableEq, Repr

/-- A sluice message assembled from its pieces (R325): the header fields and the encoded form. -/
structure SluiceMsg where
  bucket : W32
  step : W32
  member : W16
  slice : W16
  encoding : Byte
  slow : Bool
  epoch : Byte
  crc : W32
  data : Bytes
  deriving DecidableEq, Repr

/-- A piece of sluice traffic (R325): its header and the bytes it carries. -/
structure SlcPiece where
  bucket : W32
  step : W32
  member : W16
  slice : W16
  kind : Nat
  encoding : Nat
  last : Bool
  offset : Nat
  length : Nat
  crc : W32
  data : Bytes
  deriving DecidableEq, Repr

/-- The header of a Stitch message (R385), without its type. -/
structure StitchHdr where
  cls : BitVec 2
  coherent : Bool
  poisoned : Bool
  part : Bool
  tag : BitVec 12
  src : DieId
  dst : DieId
  basin : BasinId
  pieces : Fin 4
  epoch : Byte
  status : Byte
  addr : BitVec 52
  deriving DecidableEq, Repr

/-- Snoop kinds of R386. -/
inductive SnoopKind where
  | invalidate | downgrade | recall
  deriving DecidableEq, Repr

/-- Why a stitch module is treated as having a permanent lane fault (R390). -/
inductive LaneFaultCause where
  | retryThreshold | stuck
  deriving DecidableEq, Repr

/-- What the patrol scrub finds in one 64-byte piece (R282-R284). -/
inductive ScrubFinding where
  | clean | corrected | uncorrectable
  deriving DecidableEq, Repr

/-- A PCIe configuration request to an endpoint function (R405). -/
inductive CfgReq where
  | readId
  | setBar0 (v : W64)
  | setBar2 (v : W64)
  | resizeBar2 (log2 : Nat)
  | msixEnable (on : Bool)
  deriving DecidableEq, Repr

/-- The PLDM sensors of R447 and R481. -/
inductive PldmSensor where
  | power | energy | temperature (d : DieId) | capUnattainable | overTemperature
  | freeboard (d : CDieId) | packageScale | historyCount | checkMismatches (d : DieId)
  | portState (p : PortId) | linkState (l : LinkId)
  deriving DecidableEq, Repr

/-- A slice of a bucket of one step at its owner die, the key of sluice state (R315). -/
structure SliceKey where
  basin : BasinId
  die : CDieId
  bucket : W32
  step : W32
  slice : W16
  deriving DecidableEq, Repr

end Sys2Proof
end

