-- ==== Sys2Proof/Syntax.lean ====
section
/-!
DEFINITION. The commands and events of the XTN4120, one constructor per row of spec/opcode_table.json, in the table's
order (those without operands stand last). A row's operands are the unit it names and what comes to the package from outside; whatever the package itself
holds (an instruction word, a ring entry, a mailbox request, a queue head) is read from the state.
-/
namespace Sys2Proof

/-- The commands of the block. -/
inductive Instr where
  -- 04_start_reset_lifecycle, 02_clocks
  | powerOnStart (env : StartEnv)
  | pwrGoodFall (d : DieId)
  | keeperFirmwareLoaded (failed : BitVec 6)
  | stitchStartTrained (failed : BitVec 6) (timebase : W64)
  | hbmTrainingComplete (failed : BitVec 12)
  | clusterSelfTest (failed : List (BitVec 36)) (shorted : List Byte)
  | ddrTrainingComplete (failed : BitVec 16) (dimmGib : List Nat)
  | pkgReady (cxlGib : List Nat)
  | pcieConfigBeforeReady (g : SegId)
  | referenceQualified (d : DieId) (ref : Fin 2)
  | referenceDisqualified (d : DieId) (ref : Fin 2)
  | pllRelock (d : DieId)
  | revertToPrimary (d : DieId)
  | referenceRetry (ref0 ref1 : Bool)
  | rootPllLossOfLock (d : DieId)
  | mgmtStartCondition (swapped : Bool)
  | vfreqWrite (h : HartId) (p : Priv) (v : W64)
  | stepChangeComplete (x : ComplexId)
  | loReadLatch (path : AccessPath) (addr : BitVec 52)
  | timeRequestTimer (d : CDieId)
  | timeRequest (p : PortId) (raw : Bytes)
  | timeResponse (p : PortId) (head crc payload : Bytes)
  -- 03_quire
  | stageBegin (b : BasinId)
  | stageData (b : BasinId)
  | stageEnd (b : BasinId)
  | validate (b : BasinId)
  | turn (b : BasinId)
  | turnAtReset (b : BasinId)
  | quireQuery (b : BasinId)
  | turnPrepare (d : DieId)
  | turnVote (d : DieId)
  | turnDecision (d : DieId)
  | turnAck (d : DieId)
  | turnDecisionQueryTimeout (d : DieId)
  | pldmFirmwareData (offset : W32) (data : Bytes) (last : Bool)
  | pldmActivateFirmware (selfContained : Bool)
  -- keepers
  | keeperLockstepMismatch (d : DieId)
  | keeperWatchdogExpiry (d : DieId)
  | processorKeeperSilence (d : CDieId)
  | lifeCycle (b : BasinId)
  | jtagInstruction (ir : JtagIr)
  | ddrBlockZeroed (block : Nat)
  | cxlZeroFillComplete (range : Fin 64)
  -- 05_core_sequencer
  | contextStart (b : BasinId) (r : RingId)
  | contextLoaded (c : CoreId)
  | nop (c : CoreId)
  | add (c : CoreId)
  | sub (c : CoreId)
  | and (c : CoreId)
  | or (c : CoreId)
  | xor (c : CoreId)
  | sll (c : CoreId)
  | srl (c : CoreId)
  | sra (c : CoreId)
  | mul (c : CoreId)
  | mulhu (c : CoreId)
  | slt (c : CoreId)
  | sltu (c : CoreId)
  | minu (c : CoreId)
  | maxu (c : CoreId)
  | addi (c : CoreId)
  | andi (c : CoreId)
  | ori (c : CoreId)
  | xori (c : CoreId)
  | slli (c : CoreId)
  | srli (c : CoreId)
  | srai (c : CoreId)
  | li (c : CoreId)
  | lih (c : CoreId)
  | ld (c : CoreId)
  | st (c : CoreId)
  | rdsr (c : CoreId)
  | jmp (c : CoreId)
  | beq (c : CoreId)
  | bne (c : CoreId)
  | blt (c : CoreId)
  | bge (c : CoreId)
  | bltu (c : CoreId)
  | bgeu (c : CoreId)
  | jmpr (c : CoreId)
  | loop (c : CoreId)
  | loopi (c : CoreId)
  | brk (c : CoreId)
  | qbar (c : CoreId)
  | phase (c : CoreId)
  | rtry (c : CoreId)
  | draw (c : CoreId)
  | halt (c : CoreId)
  | engineIssue (c : CoreId) (e : Engine)
  | instructionComplete (c : CoreId) (e : Engine)
  | phaseMarkTaken (c : CoreId)
  | regionOverflow (c : CoreId)
  | retryRestart (c : CoreId)
  | contextDrained (c : CoreId)
  | contextFault (c : CoreId)
  -- 07_press
  | mma (c : CoreId)
  | tout (c : CoreId)
  | tin (c : CoreId)
  | tzero (c : CoreId)
  | pwin (c : CoreId)
  -- 08_vector
  | vop (c : CoreId)
  | vld (c : CoreId)
  | vst (c : CoreId)
  | vget (c : CoreId)
  | vput (c : CoreId)
  | tcvt (c : CoreId)
  | tred (c : CoreId)
  | rmrg (c : CoreId)
  | scvt (c : CoreId)
  | radd (c : CoreId)
  | smax (c : CoreId)
  | fly (c : CoreId)
  -- 09_barges_memory
  | brg (c : CoreId)
  | blin (c : CoreId)
  | bargeComplete (src : BargeSrc)
  | bargeFail (src : BargeSrc)
  | poisonLoadTrap (h : HartId) (va : W64) (ba : BitVec 48)
  | patrolScrub (piece : Nat) (found : ScrubFinding)
  -- 10_sync
  | swait (c : CoreId)
  | swaitSatisfied (c : CoreId)
  | ssig (c : CoreId)
  | sset (c : CoreId)
  | srsig (c : CoreId)
  | remoteSignalArrival (sender : CoreId)
  | srsigAck (sender : CoreId)
  | kbar (c : CoreId)
  | kwait (c : CoreId)
  | kjoin (c : CoreId)
  | kleave (c : CoreId)
  | kettleRelease (k : LineId)
  | kettleUpdate (d src : DieId) (seq : Byte) (word : W32)
  | kettleUpdateResend (d : DieId)
  | deadlockWindowExpiry (c : CoreId)
  -- 11_sluice
  | sluiceStep (b : BasinId) (r : RingId)
  | bucketReady (b : BasinId) (d : CDieId) (step : W32) (entry : Nat)
  | contributionReceived (b : BasinId) (d : CDieId) (m : SluiceMsg)
  | quarantineMarker (b : BasinId) (d : CDieId) (m : SluiceMsg)
  | admissionComplete (k : SliceKey)
  | gateDeadline (k : SliceKey)
  | collationRoom (b : BasinId) (d : CDieId)
  | normPartial (b : BasinId) (step : W32) (member : W16) (q : W64)
  | normTotal (b : BasinId) (step : W32) (q : W64)
  | normWaitExpiry (k : SliceKey)
  | updateComplete (k : SliceKey)
  | parametersReceived (b : BasinId) (d : CDieId) (m : SluiceMsg)
  | momentMirror (b : BasinId) (d : CDieId) (m : SluiceMsg)
  | mirrorAck (k : SliceKey)
  | broadcastWaitExpiry (b : BasinId) (d : CDieId) (step : W32) (entry : Nat)
  | refetchRequest (b : BasinId) (d : CDieId) (m : SluiceMsg)
  | refetchData (b : BasinId) (d : CDieId) (m : SluiceMsg)
  -- 13_towpath
  | trainingAttempt (p : PortId) (shorted : Byte)
  | portTrained (p : PortId) (o : TrainOutcome)
  | portLoss (p : PortId) (lost : Byte)
  | fastRetrainComplete (p : PortId) (good : Byte) (ok : Bool)
  | probationPassed (p : PortId)
  | probationTimeout (p : PortId)
  | dataFrame (p : PortId) (raw : Bytes)
  | ackCreditFrame (p : PortId) (header payload : Bytes)
  | nakFrame (p : PortId) (raw : Bytes)
  | uncorrectableFrame (p : PortId)
  | nakResendTimer (p : PortId)
  | creditReturnTimer (p : PortId)
  | resumeQuery (p : PortId) (head crc payload : Bytes)
  | resumeAnswer (p : PortId) (head crc payload : Bytes)
  | towpathSend (b : BasinId) (r : RingId)
  | ethernetDatagram (p : PortId) (raw : Bytes)
  | arpRequest (p : PortId) (target : Bytes)
  | neighborSolicitation (p : PortId) (target : Bytes)
  | pauseFrame (p : PortId) (priorities : Byte)
  | flowAckTimer (p : PortId) (flow : FlowId)
  | flowNakRepeat (p : PortId) (flow : FlowId)
  | flowGapTimeout (p : PortId) (flow : FlowId)
  | slowWaterHoldEnd (b : BasinId)
  | portQuiesce (b : BasinId)
  -- 14_stitch
  | capabilityRecord (l : LinkId) (fromSecond : Bool) (record : Bytes)
  | widthEcho (l : LinkId) (first second : BitVec 16)
  | stitchRead (d : DieId) (h : StitchHdr)
  | stitchWrite (d : DieId) (h : StitchHdr) (enables : W64) (data : Bytes)
  | stitchCompletion (d : DieId) (h : StitchHdr) (data : Bytes)
  | snoopRequest (d home : DieId) (line : BitVec 52) (kind : SnoopKind)
  | snoopResponse (home : DieId) (line : BitVec 52) (dirty : Bool) (data : Bytes)
  | isolationNotice (d lost : DieId) (reason : Fin 3)
  | flitLossTimeout (l : LinkId) (lostSecond : Bool)
  | laneFault (l : LinkId) (module : Fin 16) (cause : LaneFaultCause)
  | stitchRetrainDone (l : LinkId) (repaired : Bool) (first second : BitVec 16)
  | routeDrainComplete (a t : DieId)
  -- 15_basins_hosts
  | topologyQuery (b : BasinId)
  | setStep (b : BasinId)
  | translationRoot (b : BasinId)
  | translationFlush (b : BasinId)
  | semaphoreSignal (b : BasinId)
  | abort (b : BasinId)
  | ringSetup (b : BasinId)
  | flowRing (b : BasinId)
  | resetContext (b : BasinId)
  | resetEngine (b : BasinId)
  | resetBasin (b : BasinId)
  | unknownCommand (b : BasinId)
  | mboxOverrun (b : BasinId)
  | ringDoorbell (b : BasinId) (r : RingId) (prod : W32)
  | ringNoop (b : BasinId) (r : RingId)
  | ringBarge (b : BasinId) (r : RingId)
  | ringEntryMalformed (b : BasinId) (r : RingId)
  | registerWrite (path : AccessPath) (addr : BitVec 52) (width : Nat) (v : W64)
  | bsnIrqFwd (b : BasinId) (v : W32)
  | deviceIrqFwd (g : SegId) (v : W32)
  | chkPop (path : AccessPath) (u : CheckId)
  | bsnChkPop (b : BasinId) (v : W32)
  | mctpControlAccess (write : Bool) (addr : BitVec 52) (v : W32)
  | hostRead (b : BasinId) (addr : W64) (len : Nat)
  | hostWrite (b : BasinId) (addr : W64) (data : Bytes)
  | deviceMemoryRequest (g : SegId) (write : Bool) (addr : W64) (len : Nat) (data : Bytes)
  | endpointLinkDown (g : SegId)
  | perstNAssert (g : SegId)
  -- 16_current_power
  | lockCycleBoundary (m : LockMeas)
  | governorEvaluation (temps : List (Option Nat))
  | thermalTrip (d : DieId)
  | powerMonitorFail (rail : Fin 39)
  | pldmSetCap (watts : Nat)
  | pldmSensorRead (q : PldmSensor)
  -- 17_faults_recovery, 18_watching
  | hangSample (d : DieId)
  | recoveryDecision (e : ErrEvent)
  | endpaperStored (n : Nat)
  | resetComplete (n : Nat)
  | resetTimeout (n : Nat)
  | readmission (n : Nat)
  | endpaperFlashCopyDone (ok : Bool)
  | stepSummaryClose (b : BasinId)
  | checkIntervalEnd (u : CheckId)
  | checkIntervalReport (u : CheckId) (interval : W16) (crc : W64)
  | checkPartnerMissing (u : CheckId)
  -- rows added at the end of the table
  | undefinedOpcode (c : CoreId)
  | basinOpenComplete (b : BasinId)
  | perstNRelease (g : SegId)
  | segmentLinkUp (g : SegId)
  | errHwaddrWrite (h : HartId) (p : Priv) (v : W64)
  | pcieConfigRequest (g : SegId) (q : CfgReq)
  | stitchReservedType (l : LinkId) (type : Byte)
  | reservedFrameKind (p : PortId) (raw : Bytes)
  -- Commands without operands, wherever the table has them: Lean compiles a constructor with operands only among the first 245.
  | resetNLow
  | mgmtLinesShorted
  | turnVoteDeadline
  | turnSwap
  | selectorWriteComplete
  | turnRetry
  | pldmRequestUpdate
  | heartbeatSend
  | heartbeatLoss
  | hourlyTrim
  | packageResetRequest
  | endpaperSetErase
  | powerCycleRequest
  | mgmtLinesCleared
  deriving DecidableEq, Repr

end Sys2Proof
end

