-- ==== Sys2Proof/Decode.lean ====
section
/-!
DEFINITION. The words of commands. spec/opcode_table.json gives no row any bits: commands reach the block as commands, and
the words of core instructions are read from an instruction store by the machine itself.
-/
namespace Sys2Proof

/-- The command a word spells: none, for the table gives no row bits. -/
def decodeTableWord (_nbits _w : Nat) : Option Instr := none

end Sys2Proof
end

