-- ==== Sys2Proof/Config.lean ====
section
/-!
DEFINITION. The values the spec leaves open, as constants without a body: nothing can be proved of the value they have.
-/
namespace Sys2Proof

/-- A fresh open value: how far a beat-wise move had come when it was cut off (R214, R286), the value of a byte the spec
calls unspecified (R237, R270), the order of an arbitration the spec leaves open. Read through a counter of the state.
Log entry 10. -/
opaque Config.freeNat : Nat → Nat

/-- The FP32 result of a transcendental function, by its function code of R220 and the FP32 operand: within 2 ulp of the
exact value, the bits not stated (R223, R240). Log entry 10. -/
opaque Config.transcendental : Nat → BitVec 32 → BitVec 32

/-- What PEAK takes for a largest magnitude m * 2^e that no finite FP32 value holds (R170, R171): the spec states none.
Log entry 91. -/
opaque Config.peakBeyond : Nat → Int → BitVec 32

/-- Whether an access uses a cached translation where one is held (R262): the value of freeCount, the caching unit, the 64 KiB
page. Log entry 13. -/
opaque Config.cacheUse : Nat → Nat → Nat → Bool

/-- The DRAM row that a 64-byte piece of HBM or DDR lies in (R282): the spec places no rows. Log entry 82. -/
opaque Config.rowOf : Nat → Nat

/-- Codewords that the FEC of a port has corrected since it last trained, at a time (R365): the environment's. Log entry 47. -/
opaque Config.fecCorrected : Nat → Nat → Nat

/-- SHA-384 of a byte string (R69), an external standard. Log entry 10. -/
opaque Config.sha384 : List (BitVec 8) → List (BitVec 8)

/-- ECDSA P-384 verification of FIPS 186-5 (R69): public key, message, signature. Log entry 10. -/
opaque Config.ecdsaP384 : List (BitVec 8) → List (BitVec 8) → List (BitVec 8) → Bool

/-- The MAC address of each towpath port (R371, R372). Log entry 10. -/
opaque Config.portMac : Nat → BitVec 48

/-- Whether a port sends its datagrams with the 802.1Q tag, which R371 makes an option. Log entry 102. -/
opaque Config.vlanTag : Nat → Bool

/-- The IPv4 identification of the n-th datagram of a port, which R371 does not give. Log entry 102. -/
opaque Config.ipIdent : Nat → Nat → Nat

/-- The address a keeper's frames on an Ethernet port go to, which no sheet gives (R370). Log entry 103. -/
opaque Config.keeperPeer : Nat → List (BitVec 8)

/-- The bytes of a keeper's test frame, by its place in the payload (R370). Log entry 103. -/
opaque Config.testByte : Nat → BitVec 8

/-- The receive buffer that a die's capability record names for a class of stitch traffic, in units of 256 bytes (R380). Log
entry 106. Log entry 106. -/
opaque Config.stitchBuffer : Nat → Nat → Nat

/-- The outstanding requests per source die that a die's capability record accepts (R380), less one. Log entry 106. -/
opaque Config.stitchTags : Nat → Nat

/-- The hash of the factory key held in keeper ROM (R69). Log entry 10. -/
opaque Config.factoryKeyHash : List (BitVec 8)

end Sys2Proof
end

