-- ==== Sys2Proof/Machine/State.lean ====
section
/-!
DEFINITION. The state of the package as plain data: every register, queue, buffer, log and pin the spec names, and the
queue of commands that wait. Tables with many entries are sparse maps: a list of key and value pairs, keys rising, no
entry equal to the value an unlisted key reads as.
-/
namespace Sys2Proof.Machine

/-- A sparse table in canonical form: what an unlisted key reads as is given by the operation that reads it. -/
abbrev NMap (α : Type) := List (Nat × α)

/-- One value for each of the four engine queues (R14). -/
structure Q4 (α : Type) where
  press : α
  vector : α
  barge : α
  sync : α
  deriving DecidableEq, Repr

/-! ### The core (05_core_sequencer) -/

/-- The state of a context (R115), with the code of SEQ_STATUS. -/
inductive CtxState where
  | idle | loading | running | draining | faulted
  deriving DecidableEq, Repr

/-- One hardware loop level (R105, R130). -/
structure LoopLevel where
  start : Nat
  stop : Nat
  remaining : Nat
  iter : Nat
  deriving DecidableEq, Repr

/-- The convolution window recorded by PWIN (R203). -/
structure Window where
  rg : W64
  rp : W64
  base : W64
  deriving DecidableEq, Repr

/-- An engine instruction as the sequencer dispatched it: its word, the register values captured at dispatch (R117) in
the order of the word's register fields, its index, the rung of the enclosing region (R134), its place in the order of
its queue (R127), and the window recorded at dispatch (R203). -/
structure QInstr where
  word : W64
  regs : List W64
  index : Nat
  rung : Option Nat
  number : Nat
  window : Option Window
  deriving DecidableEq, Repr

/-- A barge descriptor of R268, its fields as read at issue. -/
structure Desc where
  version : Nat
  shape : Nat
  spaces : Byte
  control : Byte
  rsv05 : Byte
  semaphore : Byte
  signal : Byte
  source : W64
  dest : W64
  l0 : Nat
  rsv1c : W32
  n1 : Nat
  n2 : Nat
  n3 : Nat
  width : Nat
  s1 : W64
  s2 : W64
  s3 : W64
  d1 : W64
  d2 : W64
  d3 : W64
  expected : W64
  alive : W16
  unit : Byte
  algorithm : Byte
  flow : W16
  rsv6e : Nat
  deriving DecidableEq, Repr

/-- Equal units of work still to be charged: how many, the sixteenths of a credit each, the CCLK cycles each keeps its engine,
and whether a unit is a beat under the tier 2 test (R210, R246, R272, R280). -/
structure Charge where
  units : Nat
  each : Nat
  cycles : Nat
  tier2 : Bool
  deriving DecidableEq, Repr

/-- An instruction an engine has issued and not completed: what it read at issue (R162, R169, R416), the charges it has
still to pay in order and how many units it has paid (R211, R247, R281), the time since which it waits for credits, for a
barge its descriptor, for a flight its descriptor's bytes (R241), and its stage: for a barge the detail of its descriptor
check, for the sync queue how far the instruction has come: 0 issued, 1 its arrival recorded, 2 its condition met. -/
structure InFlight where
  q : QInstr
  step : W64
  seed : W64
  scale : Int
  gaugeEmpty : Bool
  charges : List Charge
  paid : Nat
  waitSince : Option Nat
  desc : Option Desc
  stage : Nat
  data : Bytes
  deriving DecidableEq, Repr

/-- A pending queue barrier (R127): the wait mask, the recorded count of each waited queue, the hold mask (bit 0 the
sequencer), and how many instructions each queue had received when the barrier was dispatched. -/
structure Barrier where
  wait : BitVec 4
  counts : Q4 Nat
  hold : BitVec 5
  position : Q4 Nat
  deriving DecidableEq, Repr

/-- What the first overflow of a retry attempt reported (R173). -/
structure Overflow where
  gauge : Nat
  m : W32
  index : Nat
  deriving DecidableEq, Repr

/-- The open retry region (R134-R138). -/
structure Region where
  rtry : Nat
  target : Nat
  rung : Nat
  loopDepth : Nat
  first : Q4 Nat
  finished : Bool
  stopped : Bool
  overflow : Option Overflow
  raised : List (Nat × W32)
  deriving DecidableEq, Repr

/-- A phase mark that waits for its wait set, and the timebase and STALLS once they are taken (R144). -/
structure Mark where
  id : W16
  wait : BitVec 4
  counts : Q4 Nat
  step : W64
  taken : Option (W64 × Nat)
  deriving DecidableEq, Repr

/-- Why the sequencer stands still: it is free, it stops at a QBAR that holds it (R127), or it waits at a DRAW (R141). -/
inductive SeqWait where
  | free
  | barrier
  | draw (request : Nat) (since : Nat)
  deriving DecidableEq, Repr

/-- The work-ring entry that started a context or barge, kept for its completion record (R419). -/
structure RingRef where
  basin : Nat
  ring : Nat
  index : W32
  tag : W32
  type : Byte
  flags : Byte
  deriving DecidableEq, Repr

/-- A context's standing on one kettle line (R301-R305). -/
structure KMember where
  member : Bool
  joinPending : Bool
  leavePending : Bool
  arrived : Bool
  held : Bool
  deriving DecidableEq, Repr

/-- A core and its context (R105, R108-R150). `priorTag` is the tag before a start that is still LOADING, `vectorFrom` the
moment from which the vector engine may begin another unit of work, `faultedAt` the cycle of its fault and `faultTime` the
timebase then. -/
structure Core where
  store : NMap W64
  storeValid : Bool
  storeLen : Nat
  tiles : NMap W32
  vregs : NMap (BitVec 1024)
  aregs : NMap W64
  loops : List LoopLevel
  ctx : CtxState
  basin : Nat
  tag : W16
  priorTag : W16
  len : Nat
  pc : Nat
  firstBank : Nat
  bankCount : Nat
  semCount : Nat
  semMap : List Nat
  argBase : W64
  argCount : Nat
  imageBase : W64
  loadImage : Bool
  loadCharges : List Charge
  loadSince : Option Nat
  haltStatus : W16
  firstIssue : Nat
  started : Option RingRef
  tallyRne : Bool
  headroom : Nat
  decay : Nat
  flightMode : Bool
  region : Option Region
  rungLast : Nat
  queue : Q4 (List QInstr)
  flight : Q4 (List InFlight)
  vectorFrom : Nat
  stallFrom : Option Nat
  expressSince : Option Nat
  dispatched : Q4 Nat
  completed : Q4 Nat
  retiredSeq : Nat
  retired : Q4 Nat
  barriers : List Barrier
  seqWait : SeqWait
  reservation : Nat
  reservedAt : Nat
  drawClamp : Nat
  marks : List Mark
  stalls : Nat
  pressNan : Nat
  pressInf : Nat
  pressSat : Nat
  emptyRows : Nat
  window : Option Window
  kettle : NMap KMember
  fault : Option W16
  faultIndex : Nat
  faultedAt : Nat
  faultTime : W64
  deadlockGraph : List W64
  sampleSeq : Nat × Nat
  sample : Q4 (Nat × Nat)
  deriving DecidableEq, Repr

/-- A core as the start leaves it: registers zeroed (R87), no context (R115). Log entry 4. -/
def Core.reset : Core :=
  { store := [], storeValid := false, storeLen := 0, tiles := [], vregs := [], aregs := [], loops := [],
    ctx := .idle, basin := 0, tag := 0, priorTag := 0, len := 0, pc := 0, firstBank := 0, bankCount := 0, semCount := 0, semMap := [],
    argBase := 0, argCount := 0, imageBase := 0, loadImage := false, loadCharges := [], loadSince := none, haltStatus := 0,
    firstIssue := 0, started := none,
    tallyRne := false, headroom := 0, decay := 0, flightMode := false, region := none, rungLast := 0,
    queue := ⟨[], [], [], []⟩, flight := ⟨[], [], [], []⟩,
    vectorFrom := 0, stallFrom := none, expressSince := none, dispatched := ⟨0, 0, 0, 0⟩, completed := ⟨0, 0, 0, 0⟩,
    retiredSeq := 0, retired := ⟨0, 0, 0, 0⟩, barriers := [], seqWait := .free, reservation := 0, reservedAt := 0,
    drawClamp := 0, marks := [], stalls := 0, pressNan := 0, pressInf := 0, pressSat := 0, emptyRows := 0,
    window := none, kettle := [], fault := none, faultIndex := 0, faultedAt := 0, faultTime := 0, deadlockGraph := [],
    sampleSeq := (0, 0), sample := ⟨(0, 0), (0, 0), (0, 0), (0, 0)⟩ }

/-! ### The cluster (09, 10, 16) -/

/-- A logical cluster's shared state: the sync block's physical semaphores and who holds each (R290), its credits, ramp
and scale in force and from the next boundary (R433-R438), its fence, its express bucket (R421), and whose turn at its barge
engine is next: 0-7 a core's port, 8 the rings, 9 the starts (R279). -/
structure Cluster where
  sems : NMap W16
  semOwner : NMap Nat
  unreserved : Nat
  ramp : Nat
  quiet : Nat
  waited : Bool
  charged : Nat
  scale : Nat
  next : Nat
  granted : Bool
  stall : Nat
  deadlocks : Nat
  fenced : Bool
  express : Nat
  turn : Nat
  deriving DecidableEq, Repr

/-- A cluster before it holds an allotment: ramp level 1 (R435), scale 256. Log entry 4. -/
def Cluster.reset : Cluster :=
  { sems := [], semOwner := [], unreserved := 0, ramp := 1, quiet := 0, waited := false, charged := 0, scale := 256,
    next := 256, granted := false, stall := 0, deadlocks := 0, fenced := false, express := 0, turn := 0 }

/-! ### Logs and endpapers (17) -/

/-- A log entry of R453. The scope and the state are the codes of its table. -/
structure LogEntry where
  code : W16
  scope : Nat
  state : Nat
  die : Nat
  basin : Nat
  unit : W16
  timebase : W64
  endpaper : W32
  data : W32
  addr : W64
  deriving DecidableEq, Repr

/-- A slot of a log that holds no entry. -/
def LogEntry.blank : LogEntry := ⟨0, 0, 0, 0, 0, 0, 0, 0, 0, 0⟩

/-- A core record of an endpaper (R463). `head4k` is empty in a short record. -/
structure CoreRec where
  core : Nat
  ctx : Nat
  code : W16
  tag : W16
  index : Nat
  heads : Q4 Nat
  rung : Nat
  levels : List LoopLevel
  semCount : Nat
  firstBank : Nat
  bankCount : Nat
  retiredSeq : Nat
  retired : Q4 Nat
  waitGraph : List W64
  sems : List W16
  head4k : Bytes
  deriving DecidableEq, Repr

/-- An endpaper of R462: its header fields, its logs and its core records. -/
structure Endpaper where
  scope : Nat
  die : Nat
  seq : W32
  code : W16
  basin : Nat
  epoch : Byte
  unit : W16
  timebase : W64
  step : W64
  ownerTag : W64
  serial : W64
  quireSeq : W64
  merged : Nat
  preempted : W32
  setSeq : W32
  log : List LogEntry
  full : List CoreRec
  short : List CoreRec
  deriving DecidableEq, Repr

/-! ### The die (01, 02, 16, 17) -/

/-- A die: clocks and timebase (R45-R56), keeper and sheets (R71, R82), clusters' placement and fuses (R30-R33),
freeboard and temperature (R442-R445), error log (R453), memory error counters (R282, R283), kettle carriage (R389) and
time synchronisation (R369). -/
structure Die where
  timebase : W64
  running : Bool
  slew : Int
  sinceSlew : Nat
  refQual0 : Bool
  refQual1 : Bool
  refInUse : Nat
  holdover : Bool
  pllLock : Bool
  keeperUp : Bool
  active : NMap Bytes
  shadow : NMap Bytes
  shadowSeq : W64
  inService : Bool
  isolated : Bool
  stopped : Bool
  fuses : Nat
  testFailed : Nat
  image : Bytes
  map : List Nat
  skipped : List Nat
  substituting : List Nat
  permAbsent : List Nat
  freeboard : Nat
  leastSlack : Option Nat
  hourSlack : List Nat
  sinceFall : Nat
  trimCount : Nat
  temp : Option Nat
  thermal : Nat
  log : List LogEntry
  localRing : List Endpaper
  procRegion : List Endpaper
  spineRegion : List Endpaper
  memCe : NMap Nat
  memUe : NMap (W64 × Nat)
  rowErrors : List (Nat × Nat)
  rowRepairs : List Nat
  snoopRecall : NMap Nat
  kettleWords : NMap W32
  kettleSeqs : NMap (Option Byte)
  kettleMask : List Nat
  kettleOwnSeq : Byte
  stratum : Nat
  timePort : Option Nat
  timeSent : W64
  synced : Bool
  monitorFailed : List Nat
  deriving DecidableEq, Repr

/-- A die with no power yet: nothing qualified, no sheet, the default map (R30), fuses unblown. Log entries 4, 5 and 8. -/
def Die.reset : Die :=
  { timebase := 0, running := false, slew := 0, sinceSlew := 0, refQual0 := false, refQual1 := false, refInUse := 0,
    holdover := false, pllLock := false, keeperUp := false, active := [], shadow := [], shadowSeq := 0,
    inService := false, isolated := false, stopped := false, fuses := 0, testFailed := 0, image := [],
    map := (List.range 32).map (fun l => (l / 8) * 9 + l % 8),
    skipped := [], substituting := [], permAbsent := [], freeboard := 75, leastSlack := none, hourSlack := [],
    sinceFall := 0, trimCount := 0, temp := none, thermal := 256, log := [], localRing := [],
    procRegion := [], spineRegion := [], memCe := [], memUe := [], rowErrors := [], rowRepairs := [], snoopRecall := [], kettleWords := [],
    kettleSeqs := [], kettleMask := [], kettleOwnSeq := 0, stratum := 15, timePort := none, timeSent := 0,
    synced := false, monitorFailed := [] }

/-! ### Dalpa complexes and harts (02, 15) -/

/-- A Dalpa complex: the step in force, the step whose voltage it has (R52, R439), the standing requests (R51, R59, R409), and
whether its harts run. -/
structure Complex where
  step : Nat
  volt : Nat
  changing : Option Nat
  queued : Option Nat
  request : Nat
  ceiling : Nat
  running : Bool
  deriving DecidableEq, Repr

/-- Log entry 4. -/
def Complex.reset : Complex :=
  { step := 0, volt := 0, changing := none, queued := none, request := 0, ceiling := 0, running := false }

/-- A hart's ERR_HWADDR (R409), the last exception it took here (cause and xtval, R409, R410), and where its latest release
let it begin, with a0 and a1 (R412). -/
structure Hart where
  hwValid : Bool
  hwAddr : BitVec 48
  sPending : List Nat
  cause : Option Nat
  xtval : W64
  entry : W64
  a0 : W64
  a1 : W64
  deriving DecidableEq, Repr

/-- Log entry 4. -/
def Hart.reset : Hart := { hwValid := false, hwAddr := 0, sPending := [], cause := none, xtval := 0, entry := 0, a0 := 0, a1 := 0 }

/-! ### Basins (15, 18, 19) -/

/-- The state of a basin (R425), with the code of BSN_STATUS. -/
inductive BasinState where
  | closed | opening | open | resetting | unavailable
  deriving DecidableEq, Repr

/-- A work ring and its completion ring (R417). -/
structure Ring where
  count : Nat
  work : W64
  completion : W64
  prod : W32
  cons : W32
  cplProd : W32
  cplCons : W32
  stopped : Bool
  taken : List RingRef
  deriving DecidableEq, Repr

def Ring.reset : Ring :=
  { count := 0, work := 0, completion := 0, prod := 0, cons := 0, cplProd := 0, cplCons := 0, stopped := false, taken := [] }

/-- One phase identifier's line of a step summary (R477). -/
structure PhaseAgg where
  id : W16
  count : Nat
  first : W64
  last : W64
  lastCore : Nat
  deriving DecidableEq, Repr

/-- An open step summary (R477). -/
structure Summary where
  step : W64
  opened : W64
  ids : List PhaseAgg
  overflow : Bool
  late : Bool
  lostMarks : Nat
  gates : Nat
  quarantined : Nat
  carried : Nat
  dropped : Nat
  lateSlow : Nat
  retries : Nat
  bubbles0 : Nat
  deriving DecidableEq, Repr

/-- The three run logs' indices (R475): producer, consumer and lost count. -/
structure RunLog where
  head : W32
  tail : W32
  lost : Nat
  deriving DecidableEq, Repr

def RunLog.reset : RunLog := { head := 0, tail := 0, lost := 0 }

/-- The receive ring of a flow (R366). -/
structure RecvRing where
  size : Nat
  base : W64
  control : W64
  producer : Nat
  deriving DecidableEq, Repr

/-- The collation ring of a basin on one die (R339): producer and consumer, in bytes. -/
structure CollRing where
  head : W32
  tail : W32
  deriving DecidableEq, Repr

/-- A mailbox command whose reply stands out (R413): its code and sequence number. -/
structure MboxCmd where
  code : W16
  seq : W16
  unit : Nat
  deriving DecidableEq, Repr

/-- A basin: its step (R16, R162), state and epoch (R425, R470), translation root (R260), mailbox (R413), rings (R417),
status words (R504), logs (R475), selects (R506, R507) and governor scale (R437). `slcQuiet`: sluice frames for the basin are
dropped until its next descriptor (R345). -/
structure Basin where
  st : BasinState
  epoch : Byte
  step : W64
  seed : W64
  root : Option W64
  mboxReq : NMap Byte
  mboxRsp : NMap Byte
  mboxCmd : Option MboxCmd
  mboxDone : Bool
  mboxOverrun : Bool
  err : W32
  irqTarget : Nat
  rings : NMap Ring
  recv : NMap RecvRing
  phaseLog : RunLog
  numLog : RunLog
  sumLog : RunLog
  summaries : List Summary
  closedSteps : List W64
  coll : NMap CollRing
  expressHold : Nat
  expressDemoted : Nat
  viewSelect : W32
  admSelect : W32
  epSelect : W32
  epPage : W32
  baseline : NMap Nat
  scale : Nat
  slow : Bool
  lostDie : Bool
  slcQuiet : Bool
  deriving DecidableEq, Repr

/-- A basin before any sheet defines it: CLOSED, every index and register at its reset value of R503-R507. Log entry 4. -/
def Basin.reset : Basin :=
  { st := .closed, epoch := 0, step := 0, seed := 0, root := none, mboxReq := [], mboxRsp := [], mboxCmd := none,
    mboxDone := false, mboxOverrun := false, err := 0, irqTarget := 0, rings := [], recv := [],
    phaseLog := .reset, numLog := .reset, sumLog := .reset, summaries := [], closedSteps := [], coll := [],
    expressHold := 0, expressDemoted := 0, viewSelect := 0, admSelect := 0, epSelect := 0, epPage := 0, baseline := [],
    scale := 256, slow := false, lostDie := false, slcQuiet := false }

/-- A PCIe segment (R405, R423, R424, R522): link, an endpoint's reset input, whether the keeper has released a root port's
reset output, and the endpoint function's configuration. -/
structure Segment where
  linkUp : Bool
  perst : Bool
  released : Bool
  bar0 : W64
  bar2 : W64
  bar2Log2 : Nat
  msix : Bool
  deriving DecidableEq, Repr

/-- Log entry 4. -/
def Segment.reset : Segment := { linkUp := false, perst := false, released := false, bar0 := 0, bar2 := 0, bar2Log2 := 30, msix := false }

/-- A CXL port's device (R423, R424): its capacity in GiB, and whether its ranges are reachable. -/
structure CxlPort where
  gib : Nat
  present : Bool
  deriving DecidableEq, Repr

/-! ### The sluice (11) -/

/-- One entry of a bucket table (R318). -/
structure BucketEntry where
  id : W32
  n : Nat
  fmt : Byte
  grad : W64
  params : W64
  moments : W64
  memory : W64
  ward : W64
  deriving DecidableEq, Repr

/-- An active step descriptor (R316, R317) with its bucket table. -/
structure StepDesc where
  basin : Nat
  ring : RingRef
  opt : Nat
  normGate : Bool
  replay : Bool
  refetch : Bool
  step : W64
  table : List BucketEntry
  signals : List W64
  lr : W32
  beta1 : W32
  beta2 : W32
  eps : W32
  wd : W32
  gscale : W32
  bc1 : W32
  bc2 : W32
  maxNorm : W32
  refetchMask : Nat
  replayTable : W64
  deriving DecidableEq, Repr

/-- A bucket on one die (R319, R338): whether its ready word stands while a turn holds its opening, whether its
contributions have been sent, the slices whose parameters have been written, and whether its done word stands. `stale` marks
moments installed from an older copy (R342). -/
structure Bucket where
  basin : Nat
  die : Nat
  step : W64
  entry : Nat
  ready : Bool
  sent : Bool
  written : List Nat
  moments : Bool
  stale : Bool
  status : Nat
  done : Bool
  deriving DecidableEq, Repr

/-- The states of an owner's slice (R326), with the index of SLC_STATUS. -/
inductive SliceState where
  | empty | gathering | closed | norming | updating | broadcasting | done
  deriving DecidableEq, Repr

/-- A contribution or a marker in staging: sending member, slow-water flag, and its encoded form (R327-R329). The carry
buffer is admitted as a form of member 0xFFFF. -/
structure Staged where
  member : Nat
  slow : Bool
  marker : Bool
  encoding : Nat
  form : Bytes
  deriving DecidableEq, Repr

/-- An owner's slice of one bucket and step (R326-R340), with its step number, its length and whether the step is a replay.
`seen` are the members received for the step (R328), `mirrored` says that the buddy has acknowledged, or that none is to
(R341).
`events` are the collation events in reception order that no record
holds yet, `recAt` is where the record of its close stands, `plan` what is left of a replayed record. -/
structure Slice where
  key : SliceKey
  st : SliceState
  step : W64
  len : Nat
  replay : Bool
  staging : List Staged
  admitting : Option Staged
  seen : List Nat
  admitted : List Nat
  carryIn : Bool
  acc : List W32
  events : List W32
  byDeadline : Bool
  q : W64
  total : Option W64
  skipped : Bool
  failed : Bool
  recorded : Bool
  recAt : Option Nat
  plan : List W32
  mirrored : Bool
  deriving DecidableEq, Repr

/-- The norm tree of one basin and step (R333): q of each own slice by 65,536 × die + entry, the children's partials by
member, and the total. -/
structure NormTree where
  basin : Nat
  step : W32
  sums : NMap W64
  children : NMap W64
  sent : Bool
  total : Option W64
  deriving DecidableEq, Repr

/-- A buddy's copy of a ward's moments (R341): the bucket it belongs to and the step number kept with it. -/
structure WardCopy where
  basin : Nat
  die : Nat
  entry : BucketEntry
  step : W32
  deriving DecidableEq, Repr

/-- What a sluice does once a charge is paid (R343): admits or updates a slice, encodes a slice of a bucket, sends a message
to a member, takes one that has arrived, or adds a late form to a carry buffer. -/
inductive SluiceAct where
  | admission (k : SliceKey)
  | update (k : SliceKey)
  | encode (step : W64) (entry slice : Nat)
  | send (kind target : Nat) (m : SluiceMsg)
  | take (kind : Nat) (m : SluiceMsg)
  | carry (bucket step : W32) (len encoding : Nat) (form : Bytes)
  deriving DecidableEq, Repr

/-- A piece of work of a sluice, with what is left of its charge. -/
structure SluiceJob where
  basin : Nat
  left : List Charge
  act : SluiceAct
  deriving DecidableEq, Repr

/-- A message of a basin that a sluice holds: arrived and not yet to be placed, or a norm message that express shaping holds
back (R421), with the member it goes to. -/
structure HeldMsg where
  basin : Nat
  kind : Nat
  target : Nat
  msg : SluiceMsg
  deriving DecidableEq, Repr

/-- The pieces of a message that have arrived at a die's sluice (R325, R327). -/
structure Assembly where
  basin : Nat
  die : Nat
  slow : Bool
  epoch : Byte
  parts : List SlcPiece
  deriving DecidableEq, Repr

/-- A die's sluice: counters (R338, R330, R331, R327), its credits and ramp (R433-R435), and the charges of its work that it
has still to pay before it (R343), messages in staging that cannot be placed yet, supplementary records that wait for ring
room (R339), and the bytes of norm messages sent in this lock cycle by basin, with those that wait (R421). -/
structure Sluice where
  closed : Nat
  late : Nat
  quarantined : Nat
  corrupt : Nat
  dropped : Nat
  flowGap : Nat
  flowDup : Nat
  unreserved : Nat
  ramp : Nat
  quiet : Nat
  waited : Bool
  charged : Nat
  scale : Nat
  next : Nat
  granted : Bool
  work : List SluiceJob
  parked : List HeldMsg
  records : List (Nat × Bytes)
  normSent : NMap Nat
  normWait : List HeldMsg
  sample : Nat × Nat
  deriving DecidableEq, Repr

/-- Log entry 4. -/
def Sluice.reset : Sluice :=
  { closed := 0, late := 0, quarantined := 0, corrupt := 0, dropped := 0, flowGap := 0, flowDup := 0, unreserved := 0,
    ramp := 1, quiet := 0, waited := false, charged := 0, scale := 256, next := 256, granted := false, work := [],
    parked := [], records := [], normSent := [], normWait := [], sample := (0, 0) }

/-! ### The towpath (13) -/

/-- How far the classes that wait together stand from their shares (R271, R364): what class 1 has had beyond three times class 2,
and what the others have had while class 3 waited. -/
structure Shares where
  lead : Int
  lead3 : Nat
  deriving DecidableEq, Repr

/-- A frame on its way out of a port, and the record of the flow it belongs to: the number of a basin flow, the key of a sluice
flow, or 0xFF00 + port for the keepers' test frames (R370). -/
structure Sent where
  key : Nat
  frame : TowFrame
  deriving DecidableEq, Repr

/-- The state of a port (R359), with the code of TWP_PORT_STATUS. -/
inductive PortState where
  | off | down | probation | up | fastRetrain
  deriving DecidableEq, Repr

/-- A towpath port (R355-R370, R377, R502). Lists of four are by class. -/
structure Port where
  st : PortState
  training : Bool
  dcDisabled : Byte
  good : Byte
  width : Nat
  firstLane : Nat
  polFixed : Bool
  reversed : Bool
  lastFail : Nat
  peerSerial : W64
  peerStratum : Nat
  everUp : Bool
  fromUp : Bool
  quiesced : Bool
  probCount : Nat
  credits : List Nat
  returned : List W32
  peerReturned : List W32
  sendSeq : W16
  expSeq : W16
  nakOut : Bool
  naksInRow : Nat
  replay : List Sent
  waiting : List Sent
  held : List TowFrame
  sinceAck : Nat
  shares : Shares
  pauseOut : Byte
  txFrames : Nat
  fecCorr : Nat
  fecUncorr : Nat
  naks : Nat
  rxDrop : Nat
  slowRx : Nat
  paused : Byte
  sample : Nat × Nat
  deriving DecidableEq, Repr

/-- A port before the start: OFF, no lane disabled, full credits of R363 in units of 256 bytes. Log entry 4. -/
def Port.reset : Port :=
  { st := .off, training := false, dcDisabled := 0, good := 0, width := 0, firstLane := 0, polFixed := false,
    reversed := false, lastFail := 0, peerSerial := 0, peerStratum := 15, everUp := false, fromUp := false,
    quiesced := false, probCount := 0, credits := [128, 1024, 768, 128], returned := [0, 0, 0, 0],
    peerReturned := [0, 0, 0, 0], sendSeq := 0, expSeq := 0, nakOut := false, naksInRow := 0, replay := [],
    waiting := [], held := [], sinceAck := 0, shares := ⟨0, 0⟩, pauseOut := 0,
    txFrames := 0, fecCorr := 0, fecUncorr := 0, naks := 0, rxDrop := 0, slowRx := 0, paused := 0,
    sample := (0, 0) }

/-- A message being sent on a flow (R366): the ring entry it came from and how many of its frames are unacknowledged. -/
structure SendMsg where
  ring : RingRef
  bytes : Nat
  frames : Nat
  acked : Nat
  deriving DecidableEq, Repr

/-- A flow's two ends here (R366, R367, R373): the port it sends on, its counters, frames and messages; what it expects. -/
structure Flow where
  port : Option Nat
  resuming : Bool
  told : Bool
  next : W16
  pendingTx : List TowFrame
  unacked : List TowFrame
  msgs : List SendMsg
  expected : W16
  epoch : Byte
  known : Bool
  last : W16
  nakOut : Bool
  deliverGap : Bool
  gaps : Nat
  dups : Nat
  stale : Nat
  first : Bool
  deriving DecidableEq, Repr

/-- Log entry 4. -/
def Flow.reset : Flow :=
  { port := none, resuming := false, told := false, next := 0, pendingTx := [], unacked := [], msgs := [], expected := 0, epoch := 0,
    known := false, last := 0, nakOut := false, deliverGap := false, gaps := 0, dups := 0, stale := 0, first := true }

/-! ### Stitch links (14) -/

/-- The state of a stitch link, with the code of STC_LINK_STATUS (R502). -/
inductive LinkState where
  | down | training | active | narrow | severed
  deriving DecidableEq, Repr

/-- A Stitch message (R385): its type, header, byte enables where it is partial, and payload. -/
structure StitchMsg where
  type : Byte
  hdr : StitchHdr
  enables : W64
  data : Bytes
  deriving DecidableEq, Repr

/-- What one end of a link sends (R379, R388): the units its stream has sent, its credits by class in units of 16 bytes, and the
messages that wait. -/
structure LinkEnd where
  unit : Nat
  credits : List Nat
  waiting : List StitchMsg
  shares : Shares
  deriving DecidableEq, Repr

def LinkEnd.reset : LinkEnd := ⟨0, [0, 0, 0, 0], [], ⟨0, 0⟩⟩

/-- A stitch link (R379-R394): its ends' capability records, width agreement, and what is held on it. -/
structure Link where
  st : LinkState
  width : Nat
  firstModule : Nat
  rate16 : Bool
  attempts : Nat
  kettle : Bool
  goodMask : BitVec 16
  bad : List Nat
  record0 : Option Bytes
  record1 : Option Bytes
  detail : Nat
  held : Bool
  retraining : List Nat
  class3Only : Bool
  rxDrop : Nat
  retries : NMap Nat
  first : LinkEnd
  second : LinkEnd
  deriving DecidableEq, Repr

/-- Log entry 4. -/
def Link.reset : Link :=
  { st := .down, width := 0, firstModule := 0, rate16 := false, attempts := 0, kettle := false, goodMask := 0, bad := [],
    record0 := none, record1 := none, detail := 0, held := false, retraining := [], class3Only := false, rxDrop := 0,
    retries := [], first := .reset, second := .reset }

/-- A stitch request that awaits its one completion (R386). -/
structure StitchReq where
  die : Nat
  dst : Nat
  tag : BitVec 12
  write : Bool
  coherent : Bool
  addr : BitVec 52
  deriving DecidableEq, Repr

/-! ### The quire and turns (03) -/

/-- The shadow set's state (R72), with the code of SHADOW. -/
inductive ShadowState where
  | empty | staging | staged | valid | invalid | turning
  deriving DecidableEq, Repr

/-- A keeper's vote (R77): YES, or NO with a code of R76 and the sheet type it names. -/
structure Vote where
  yes : Bool
  code : Nat
  sheet : Nat
  deriving DecidableEq, Repr

/-- A live turn (R77-R79). `decision` is what the head recorded, `standby` what the standby holds of it. -/
structure Turn where
  caller : Channel
  requested : Nat
  waitMs : Nat
  started : Nat
  boundary : Nat
  seq : W64
  changed : List Nat
  votes : NMap (Option Vote)
  received : NMap (Option Vote)
  decision : Option Bool
  standby : Option Bool
  told : List Nat
  holds : List Nat
  swapped : Bool
  acks : List Nat
  settled : Bool
  writing : Bool
  code : Nat
  die : Nat
  sheet : Nat
  deriving DecidableEq, Repr

/-! ### Recoveries (17) -/

/-- Where a recovery stands in the order of R459. -/
inductive RecPhase where
  | queued | fenced | stored | resetDone
  deriving DecidableEq, Repr

/-- A running or queued recovery (R457-R460). `scope` is its code of R453, `unit` the core, cluster, basin or die of its
scope; `final` marks a die whose resets have reached the limit and that stays isolated (R458). -/
structure Recovery where
  id : Nat
  time : W64
  scope : Nat
  unit : Nat
  event : ErrEvent
  phase : RecPhase
  seq : W32
  merged : Nat
  preempted : W32
  final : Bool
  deriving DecidableEq, Repr

/-- One counted re-fault (R458): 0 hang, 1 engine reset, 2 die reset, 3 package reset; its unit; its time in lock cycles. -/
structure Refault where
  kind : Nat
  unit : Nat
  time : Nat
  deriving DecidableEq, Repr

/-! ### Check units (18) -/

/-- A check record of R488. -/
structure CheckRec where
  kind : Nat
  mode : Nat
  unit : Nat
  target : W16
  received : W16
  expected : W16
  basin : Nat
  algorithm : Nat
  bucket : W32
  computed : W64
  expectedCrc : W64
  timebase : W64
  deriving DecidableEq, Repr

/-- What a check unit has still to complete under an entry that a turn has replaced (R73, R490): the 16 bytes of the entry, its
expected counters, the bytes of its open message, its interval, the results not yet compared, and the basins and descriptors of
the barges in flight. `running` says that its interval has not ended. -/
structure FormerCheck where
  entry : Bytes
  expected : NMap W16
  region : Bytes
  interval : Nat
  results : List (Nat × W64)
  barges : List (Nat × Desc)
  running : Bool
  deriving DecidableEq, Repr

/-- A check unit (R482-R488): unread records, the eight CHK_COUNT counters, expected counters, in stitch modes the
interval, the bytes of the interval and the results not yet compared, and what former entries left open. -/
structure CheckUnit where
  records : List CheckRec
  counts : List Nat
  expected : NMap W16
  region : Bytes
  interval : Nat
  results : List (Nat × W64)
  open_ : Bool
  formers : List FormerCheck
  deriving DecidableEq, Repr

/-- Log entry 4. -/
def CheckUnit.reset : CheckUnit :=
  { records := [], counts := [0, 0, 0, 0, 0, 0, 0, 0], expected := [], region := [], interval := 0, results := [],
    open_ := false, formers := [] }

/-! ### Ring barges and messages between cores -/

/-- A ring barge in flight on a cluster's engine (R269, R276): the detail of its descriptor check, what it has still to pay
and has paid, since when it waits for credits or for shaping, and whether its express bucket has covered it (R421). -/
structure RingBarge where
  basin : Nat
  ring : Nat
  cluster : Nat
  ref : RingRef
  desc : Desc
  detail : Nat
  charges : List Charge
  paid : Nat
  waitSince : Option Nat
  shaped : Bool
  deriving DecidableEq, Repr

/-- A remote signal on its way, or its answer on the way back (R298, R299); it has no number once its sender's context
has ended. -/
structure RemoteSignal where
  sender : Nat
  basin : Nat
  number : Option Nat
  target : Nat
  ident : Nat
  inc : Nat
  answered : Bool
  refused : Bool
  acked : Bool
  deriving DecidableEq, Repr

/-! ### Messages the package sends -/

/-- What leaves the package or crosses between its units as a message (the model keeps them in order in `State.out`). -/
inductive Out where
  | mctpStatus (code : Nat) (sheet die : Nat)
  | rrs (g : Nat)
  | cfgData (g : Nat) (v : W64)
  | readData (b : Nat) (data : Bytes)
  | readPoisoned (b : Nat) (data : Bytes)
  | unsupportedRequest (b : Nat)
  | deviceAccess (b : Nat) (addr : W64) (write : Bool) (data : Bytes)
  | deviceData (g : Nat) (data : Bytes)
  | devicePoisoned (g : Nat) (data : Bytes)
  | deviceUr (g : Nat)
  | vector (b : Nat) (v : Nat)
  | msi (hart : Nat) (identity : Nat)
  | frame (p : Nat) (bytes : Bytes)
  | arpReply (p : Nat)
  | neighborAdvert (p : Nat)
  | pause (p : Nat) (priorities : Byte)
  | units (l : Nat) (fromSecond : Bool) (units : List (Nat × Bytes))
  | checkIrq (u : Nat)
  | stitchDone (d : Nat) (tag : BitVec 12) (status : Nat) (data : Bytes)
  | capability (l : Nat) (fromSecond : Bool) (record : Bytes)
  | widthEcho (l : Nat) (fromSecond : Bool) (width : Nat) (mask : Nat) (attempt : Nat)
  | isolation (d : Nat) (reason : Nat)
  | vcore (d : Nat) (mv : Nat)
  | heartbeat (path : Nat)
  | interval (u : Nat) (number : Nat) (crc : W64)
  | pldmEvent (code : W16)
  | pldmCheck (u : Nat)
  | pldmValue (v : Nat)
  | pldmResult (code : Nat)
  | regData (v : W32)
  | noReference
  | pldmTransfer
  | pldmApply
  | mctpError
  deriving DecidableEq, Repr

/-! ### The package -/

/-- The rows of the start sequence (R87): where the start stands. -/
inductive StartPhase where
  | off | held | noReference | noSlot | quire | firmware | stitched | hbm | selfTested | ddr | ready | scrapped | boundaryScan
  deriving DecidableEq, Repr

/-- The life-cycle states of R99, in their order. -/
inductive LifeCycle where
  | blank | provisioned | deployed | returned | scrapped
  deriving DecidableEq, Repr

/-- The package-wide state: pins (R86, R517), start (R87), fuses (R69, R99), keepers' roles (R83), the JTAG instruction in
force (R102), the quire (R72), the
governor (R436-R447), recovery (R457-R467) and logs (R453, R480). -/
structure Pkg where
  phase : StartPhase
  pwrGood : List Bool
  resetN : Bool
  pkgReady : Bool
  alertBits : List Bool
  cycleReq : Bool
  thermTrip : Bool
  tripDie : Nat
  tripTemp : Nat
  testEn : Bool
  mgAddr : BitVec 2
  mgStartSeen : Bool
  mgSwapped : Bool
  life : LifeCycle
  serial : W64
  keyHash : NMap Bytes
  head : Nat
  standby : Option Nat
  jtagIr : JtagIr
  shadow : ShadowState
  stager : Option Channel
  lastCode : Nat
  lastSheet : Nat
  lastDie : Nat
  volatileQuire : Bool
  volatileImage : NMap Byte
  flashDegraded : Bool
  flashReadable : Bool
  activeSlot : Nat
  quireSeq : W64
  selectorSeq : Nat
  pendingSlot : Bool
  selectorCopy : Nat
  pldmUpdate : Bool
  turn : Option Turn
  domains : List Bool
  trayCap : Nat
  f : Nat
  w : Nat
  c : Nat
  wattSum : Nat
  wattCount : Nat
  floorOver : Nat
  floorUnder : Nat
  capUnattainable : Bool
  overTemp : Bool
  energy : Nat
  holdRises : Bool
  raised : List (ErrEvent × W64)
  recoveries : List Recovery
  nextRec : Nat
  resetRec : Option Recovery
  refaults : List Refault
  endpaperSeq : W32
  log : List LogEntry
  history : List LogEntry
  histCount : Nat
  histLost : Nat
  histSelect : Nat
  epSelect : W32
  epPage : W32
  setA : List Endpaper
  setB : List Endpaper
  kept : List Endpaper
  copying : Bool
  cycleHeld : Bool
  deriving DecidableEq, Repr

/-- The package before power: every input low, no quire, the factory life-cycle state; outputs inactive (R87).
Log entries 4, 5 and 8. -/
def Pkg.reset : Pkg :=
  { phase := .off, pwrGood := [false, false, false, false, false, false], resetN := false, pkgReady := false,
    alertBits := [false, false, false, false, false, false], cycleReq := false, thermTrip := false, tripDie := 0,
    tripTemp := 0, testEn := false, mgAddr := 0, mgStartSeen := false, mgSwapped := false, life := .blank, serial := 0,
    keyHash := [], head := 4, standby := some 5, jtagIr := .bypass, shadow := .empty, stager := none, lastCode := 0,
    lastSheet := 0, lastDie := 0, volatileQuire := false, volatileImage := [], flashDegraded := false,
    flashReadable := false, activeSlot := 0, quireSeq := 0, selectorSeq := 0, pendingSlot := false, selectorCopy := 0,
    pldmUpdate := false, turn := none, domains := List.replicate 38 false, trayCap := 3600, f := 256, w := 0,
    c := 3600, wattSum := 0, wattCount := 0, floorOver := 0, floorUnder := 0, capUnattainable := false,
    overTemp := false, energy := 0, holdRises := false, raised := [], recoveries := [], nextRec := 0, resetRec := none, refaults := [],
    endpaperSeq := 1, log := [], history := [], histCount := 0, histLost := 0, histSelect := 0,
    epSelect := 0, epPage := 0, setA := [], setB := [], kept := [], copying := false, cycleHeld := false }

/-- A cached translation (R262): the unit that holds it (a cluster's barge engine 0-127, or 128 + the segment of an endpoint),
the basin, the page number, the log2 of the page size, and the leaf entry as it was read. Log entry 13. -/
structure CachedLeaf where
  unit : Nat
  basin : Nat
  page : Nat
  size : Nat
  leaf : Nat
  deriving DecidableEq, Repr

/-- A line of 64 bytes that the Dalpa caches of a processor die hold: its L2 caches and L3 slices, which the spec does not tell
apart in what they return (R19, R263). `dirty` says that harts have stored into it. Log entry 63. -/
structure CacheLine where
  line : Nat
  die : Nat
  dirty : Bool
  data : Bytes
  deriving DecidableEq, Repr

/-- The machine: the package, its dies and units as sparse tables, its memories, and the queue of waiting commands. -/
structure State where
  pending : List Instr
  lockCycle : Nat
  cyc : Nat
  freeCount : Nat
  pkg : Pkg
  dies : NMap Die
  cores : NMap Core
  clusters : NMap Cluster
  complexes : NMap Complex
  harts : NMap Hart
  basins : NMap Basin
  segments : NMap Segment
  cxl : NMap CxlPort
  steps : List StepDesc
  buckets : List Bucket
  slices : List Slice
  norms : List NormTree
  wards : List WardCopy
  retired : List StepDesc
  pieces : List Assembly
  sluices : NMap Sluice
  ports : NMap Port
  flows : NMap Flow
  links : NMap Link
  requests : List StitchReq
  alternates : List (Nat × Nat)
  draining : List (Nat × Nat)
  drainWait : List StitchMsg
  kettleGen : NMap W32
  kettleShort : NMap Bool
  kettleDepartures : NMap Nat
  kettleGhosts : NMap (Nat × Nat)
  ringBarges : List RingBarge
  signals : List RemoteSignal
  checks : NMap CheckUnit
  latches : NMap W32
  tlb : List CachedLeaf
  mem : List Host.Cell
  flash : List Host.Cell
  poison : List Nat
  snoopLines : List (Nat × Nat)
  caches : List CacheLine
  ddrMarks : List (Nat × Nat)
  cxlFilling : List Nat
  cxlFresh : List (Nat × Nat)
  dimms : List Nat
  ddrFailed : Nat
  hbmAbsent : List Nat
  out : List Out
  deriving DecidableEq, Repr

/-- Why a command ends the run. The spec gives every command of the table an effect, so nothing raises one: a condition
the spec reports (an absent address, a refused command, a context fault) is an effect on the state. -/
inductive Fault where
  /-- Raised by no command. Safe: it could only stop a run. -/
  | none
  deriving DecidableEq, Repr

/-- Why a command has no meaning here. -/
inductive Refusal where
  /-- A command of the table that the model has no meaning for yet. Safe: the run stops. -/
  | notModelled (mnemonic : String)
  deriving DecidableEq, Repr

/-- The package with no power applied: no command waiting, every table at its unlisted value. Log entries 3, 4 and 9. -/
def State.reset : State :=
  { pending := [], lockCycle := 0, cyc := 0, freeCount := 0, pkg := .reset, dies := [], cores := [], clusters := [],
    complexes := [], harts := [], basins := [], segments := [], cxl := [], steps := [], buckets := [], slices := [],
    norms := [], wards := [], retired := [], pieces := [], sluices := [], ports := [], flows := [], links := [], requests := [], alternates := [],
    draining := [], drainWait := [], kettleGen := [], kettleShort := [], kettleDepartures := [], kettleGhosts := [],
    ringBarges := [], signals := [],
    checks := [], latches := [], tlb := [], mem := [], flash := [], poison := [], snoopLines := [], caches := [],
    ddrMarks := [], cxlFilling := [], cxlFresh := [], dimms := [], ddrFailed := 0, hbmAbsent := [], out := [] }

end Sys2Proof.Machine
end

