-- ==== Sys2Proof/Machine/Bits.lean ====
section
/-!
DEFINITION. Bit fields, byte order (R9), sign extension, the two CRCs of the manual (R68, R483), and the sparse tables.
-/
namespace Sys2Proof.Machine

/-- Bits [hi:lo] of a number (R9). -/
def bitsOf (v hi lo : Nat) : Nat := (v >>> lo) % 2 ^ (hi + 1 - lo)

/-- Bit i of a number. -/
def bitOf (v i : Nat) : Bool := (v >>> i) % 2 == 1

/-- The number with bit i set. -/
def setBit (v i : Nat) : Nat := v ||| (1 <<< i)

/-- A truth value as a bit. -/
def boolBit (b : Bool) : Nat := if b then 1 else 0

/-- The signed value of the low n bits of v. -/
def signedOf (n v : Nat) : Int :=
  if bitOf v (n - 1) then Int.ofNat (v % 2 ^ n) - Int.ofNat (2 ^ n) else Int.ofNat (v % 2 ^ n)

/-- The low n bits of v, sign-extended to 64 bits (R118). -/
def sext64 (n v : Nat) : W64 := BitVec.ofInt 64 (signedOf n v)

/-- A counter saturates at 64 bits (R479). -/
def satCount (v : Nat) : Nat := min v (2 ^ 64 - 1)

/-- The little-endian value of bytes (R9). -/
def leValue : Bytes → Nat
  | [] => 0
  | b :: bs => b.toNat + 256 * leValue bs

/-- n bytes of a value, little-endian (R9). -/
def leBytes : Nat → Nat → Bytes
  | 0, _ => []
  | n + 1, v => BitVec.ofNat 8 v :: leBytes n (v / 256)

/-- The big-endian value of bytes, the order of network headers (R371). -/
def beValue (bs : Bytes) : Nat := leValue bs.reverse

/-- n bytes of a value, big-endian. -/
def beBytes (n v : Nat) : Bytes := (leBytes n v).reverse

/-- The bytes at an offset of a byte string; bytes beyond its end are zero. -/
def slice (bs : Bytes) (off n : Nat) : Bytes :=
  let part := (bs.drop off).take n
  part ++ List.replicate (n - part.length) 0

/-- The little-endian field of n bytes at an offset. -/
def field (bs : Bytes) (off n : Nat) : Nat := leValue ((bs.drop off).take n)

/-- Every one of n bytes at an offset is zero: a reserved field. -/
def zeroAt (bs : Bytes) (off n : Nat) : Bool := ((bs.drop off).take n).all (· == 0)

/-- One bit step of the reflected Castagnoli CRC (R68). -/
def crc32cBit (c : Nat) : Nat := if c % 2 = 1 then (c / 2) ^^^ 0x82F63B78 else c / 2

/-- The CRC-32C register after one byte (R68). -/
def crc32cByte (c : Nat) (b : Byte) : Nat :=
  crc32cBit (crc32cBit (crc32cBit (crc32cBit (crc32cBit (crc32cBit (crc32cBit (crc32cBit (c ^^^ b.toNat))))))))

/-- CRC-32C (R68). -/
def crc32c (bs : Bytes) : W32 := BitVec.ofNat 32 ((bs.foldl crc32cByte 0xFFFFFFFF) ^^^ 0xFFFFFFFF)

/-- The CRC-32 of IEEE 802.3, the frame check sequence of a datagram (R371): reflected, as CRC-32C is, under another
polynomial. -/
def crc32Step (c : Nat) : Nat := if c % 2 = 1 then (c / 2) ^^^ 0xEDB88320 else c / 2
def crc32 (bs : Bytes) : W32 :=
  BitVec.ofNat 32 ((bs.foldl (fun c b => (List.range 8).foldl (fun c _ => crc32Step c) (c ^^^ b.toNat)) 0xFFFFFFFF) ^^^ 0xFFFFFFFF)

/-- One bit step of the unreflected ECMA-182 CRC (R483). -/
def crc64Bit (c : Nat) : Nat :=
  if bitOf c 63 then (c * 2) % 2 ^ 64 ^^^ 0x42F0E1EBA9EA3693 else (c * 2) % 2 ^ 64

def crc64Byte (c : Nat) (b : Byte) : Nat :=
  crc64Bit (crc64Bit (crc64Bit (crc64Bit (crc64Bit (crc64Bit (crc64Bit (crc64Bit (c ^^^ (b.toNat <<< 56)))))))))

/-- CRC-64 of ECMA-182 (R483). -/
def crc64 (bs : Bytes) : W64 := BitVec.ofNat 64 (bs.foldl crc64Byte 0)

/-! ### Sparse tables -/

/-- The value at a key; an unlisted key reads as `d key`. -/
def nget {α : Type} (d : Nat → α) : NMap α → Nat → α
  | [], k => d k
  | (k', v) :: m, k => if k' = k then v else nget d m k

/-- Put a value at a key, keys rising. -/
def ninsert {α : Type} : NMap α → Nat → α → NMap α
  | [], k, v => [(k, v)]
  | (k', v') :: m, k, v =>
    if k < k' then (k, v) :: (k', v') :: m
    else if k = k' then (k, v) :: m
    else (k', v') :: ninsert m k v

/-- Take a key out. -/
def nerase {α : Type} : NMap α → Nat → NMap α
  | [], _ => []
  | (k', v') :: m, k => if k' = k then nerase m k else (k', v') :: nerase m k

/-- Set a key. Setting the unlisted value takes the entry out, so that equal tables are equal lists. -/
def nset {α : Type} [DecidableEq α] (d : Nat → α) (m : NMap α) (k : Nat) (v : α) : NMap α :=
  if v = d k then nerase m k else ninsert m k v

/-- The canonical form: keys strictly rise and no entry equals its unlisted value. -/
abbrev NMap.wf {α : Type} (d : Nat → α) (m : NMap α) : Prop :=
  m.Pairwise (fun x y => x.1 < y.1) ∧ ∀ e ∈ m, e.2 ≠ d e.1

/-! ### Classes that share a link (R271, R364) -/

/-- The class whose turn it is, of the costs of those that can go: class 0 first; of classes 1 and 2 the one behind its share of
3 to 1; class 3 when the others have had 63 times what it is to send, or nothing else can go. Log entry 44. -/
def Shares.turn (s : Shares) (cost : Nat → Option Nat) : Option Nat :=
  let shared := match cost 1, cost 2 with
    | some _, some _ => some (if s.lead ≤ 0 then 1 else 2)
    | some _, none => some 1
    | none, some _ => some 2
    | none, none => none
  match cost 0, shared, cost 3 with
  | some _, _, _ => some 0
  | none, some c, some n => some (if 63 * n ≤ s.lead3 then 3 else c)
  | none, some c, none => some c
  | none, none, some _ => some 3
  | none, none, none => none

/-- Account n sent in a class: a share counts only while another class waits with it. -/
def Shares.account (s : Shares) (waits : Nat → Bool) (c n : Nat) : Shares :=
  ⟨if !(waits 1 && waits 2) then 0 else if c = 1 then s.lead + n else if c = 2 then s.lead - 3 * n else s.lead,
    if !waits 3 then 0 else if c = 3 then s.lead3 - 63 * n else s.lead3 + n⟩

end Sys2Proof.Machine
end

