-- ==== Sys2Proof/Machine/Sheets.lean ====
section
/-!
DEFINITION. The sheets of a quire: their field tables as accessors over a sheet's body, the checks of one body (code
0x07) and across bodies (code 0x08), and the validation of a slot (R70).
-/
namespace Sys2Proof.Machine

/-- A set of sheet bodies by sheet type (R71). -/
abbrev Sheets := NMap Bytes

/-- The body of a sheet type; an absent one is empty, and each of its fields reads as zero. -/
def Sheets.body (t : Sheets) (ty : Nat) : Bytes := nget (fun _ => []) t ty

/-! ### Clocks (R57) -/
def clkPrimary (t : Sheets) : Nat := field (t.body 2) 2 1
def clkRevertive (t : Sheets) : Bool := field (t.body 2) 3 1 == 1
def clkSource (t : Sheets) : Bool := field (t.body 2) 4 1 == 1
def clkStart (t : Sheets) (x : Nat) : Nat := field (t.body 2) (8 + x) 1
def clkHigh (t : Sheets) (x : Nat) : Nat := field (t.body 2) (0xC + x) 1
def clkLow (t : Sheets) (x : Nat) : Nat := field (t.body 2) (0x10 + x) 1

/-! ### Power (R449) -/
def powCap (t : Sheets) : Nat := if field (t.body 3) 4 2 = 0 then 3600 else field (t.body 3) 4 2
def powPerDie (t : Sheets) : Bool := field (t.body 3) 6 1 == 1
def powFreeboard (t : Sheets) : Nat := if field (t.body 3) 7 1 = 0 then 75 else field (t.body 3) 7 1
def powIdle (t : Sheets) : Nat := if field (t.body 3) 8 1 = 0 then 8 else field (t.body 3) 8 1
def powSluice (t : Sheets) (d : Nat) : Nat := field (t.body 3) (0x10 + 16 * d) 4
def powReserved (t : Sheets) (d : Nat) : Nat := field (t.body 3) (0x14 + 16 * d) 4
def powTp (t : Sheets) (d : Nat) : Nat := field (t.body 3) (0x18 + 16 * d) 4
def powCluster (t : Sheets) (c : Nat) : Nat := field (t.body 3) (0x50 + 2 * c) 2

/-! ### Topology (R37) -/
def topPolicy (t : Sheets) : Nat := field (t.body 4) 2 1
def topService (t : Sheets) : Nat := field (t.body 4) 4 4
def topMap (t : Sheets) (d l : Nat) : Nat := field (t.body 4) (8 + 32 * d + l) 1
/-- The spare list of a die; with no topology sheet yet, the default list of R30. -/
def topSpares (t : Sheets) (d : Nat) : List Nat :=
  if t.body 4 = [] then [8, 17, 26, 35] else (List.range 4).map (fun i => field (t.body 4) (0x88 + 4 * d + i) 1)

/-! ### Basins (R428) -/
def pcieBif (t : Sheets) (p : Nat) : Nat := field (t.body 5) (0x10 + 8 * p) 1
def pcieRole (t : Sheets) (g : Nat) : Nat := bitsOf (field (t.body 5) (0x12 + 8 * (g / 4)) 1) (2 * (g % 4) + 1) (2 * (g % 4))
def bsnField (t : Sheets) (b off n : Nat) : Nat := field (t.body 5) (0x50 + 64 * b + off) n
def bsnEnabled (t : Sheets) (b : Nat) : Bool := bsnField t b 0 1 == 1
def bsnSelf (t : Sheets) (b : Nat) : Bool := bsnField t b 1 1 == 1
def bsnEndpoint (t : Sheets) (b : Nat) : Nat := bsnField t b 2 1
def bsnComplexMask (t : Sheets) (b : Nat) : Nat := bsnField t b 3 1
def bsnRootMask (t : Sheets) (b : Nat) : Nat := bsnField t b 4 4
def bsnClusterMask (t : Sheets) (b : Nat) : Nat := bsnField t b 8 16
def bsnPortMask (t : Sheets) (b : Nat) : Nat := bsnField t b 0x18 8
def bsnStackMask (t : Sheets) (b : Nat) : Nat := bsnField t b 0x20 2
def bsnChannelMask (t : Sheets) (b : Nat) : Nat := bsnField t b 0x22 2
def bsnLineMask (t : Sheets) (b : Nat) : Nat := bsnField t b 0x24 4
def bsnQuota (t : Sheets) (b : Nat) : Nat := bsnField t b 0x28 4
def bsnRate (t : Sheets) (b : Nat) : Nat := bsnField t b 0x2C 1
def bsnShare (t : Sheets) (b : Nat) : Nat := bsnField t b 0x2D 1
def bsnTag (t : Sheets) (b : Nat) : Nat := bsnField t b 0x30 8

def basinIds : List Nat := [0, 1, 2, 3, 4, 5, 6, 7]

/-- Basin b owns logical cluster c, port p, complex x, kettle line k, or a segment (R400). -/
def bsnHasCluster (t : Sheets) (b c : Nat) : Bool := bsnEnabled t b && bitOf (bsnClusterMask t b) c
def bsnHasPort (t : Sheets) (b p : Nat) : Bool := bsnEnabled t b && bitOf (bsnPortMask t b) p
def bsnHasComplex (t : Sheets) (b x : Nat) : Bool := bsnEnabled t b && bitOf (bsnComplexMask t b) x
def bsnHasLine (t : Sheets) (b k : Nat) : Bool := bsnEnabled t b && bitOf (bsnLineMask t b) k
def bsnHasSegment (t : Sheets) (b g : Nat) : Bool :=
  bsnEnabled t b && ((!bsnSelf t b && bsnEndpoint t b == g) || bitOf (bsnRootMask t b) g)

/-- The basin that owns a unit, if any. -/
def ownerOf (p : Nat → Bool) : Option Nat := basinIds.find? p
def clusterOwner (t : Sheets) (c : Nat) : Option Nat := ownerOf (fun b => bsnHasCluster t b c)
def portOwner (t : Sheets) (p : Nat) : Option Nat := ownerOf (fun b => bsnHasPort t b p)
def complexOwner (t : Sheets) (x : Nat) : Option Nat := ownerOf (fun b => bsnHasComplex t b x)
def lineOwner (t : Sheets) (k : Nat) : Option Nat := ownerOf (fun b => bsnHasLine t b k)
def segmentOwner (t : Sheets) (g : Nat) : Option Nat := ownerOf (fun b => bsnHasSegment t b g)

/-! ### Memory map (R287) -/
def mapWidth (t : Sheets) (pd : Nat) : Nat := 2 ^ field (t.body 6) (4 + pd) 1
/-- A range of the memory map: basin, kind (1 HBM, 2 DDR, 3 CXL), first GiB, count. -/
structure Range where
  basin : Nat
  kind : Nat
  first : Nat
  count : Nat
  deriving DecidableEq, Repr
def mapRange (t : Sheets) (i : Nat) : Range :=
  ⟨field (t.body 6) (0x10 + 16 * i) 1, field (t.body 6) (0x11 + 16 * i) 1, field (t.body 6) (0x14 + 16 * i) 4,
    field (t.body 6) (0x18 + 16 * i) 4⟩
/-- The ranges in entry order, unused entries left out. -/
def mapRanges (t : Sheets) : List Range := ((List.range 64).map (mapRange t)).filter (fun r => r.kind != 0)
def basinRanges (t : Sheets) (b : Nat) : List Range := (mapRanges t).filter (fun r => r.basin == b)
/-- The GiBs of a basin in order (R426). -/
def basinGibs (t : Sheets) (b : Nat) : List Nat :=
  (basinRanges t b).flatMap (fun r => (List.range r.count).map (fun i => r.first + i))
/-- An address lies in one of the basin's ranges (R261). -/
def inBasinRanges (t : Sheets) (b a : Nat) : Bool :=
  (basinRanges t b).any (fun r => decide (r.first * 2 ^ 30 ≤ a) && decide (a < (r.first + r.count) * 2 ^ 30))

/-! ### Towpath (R375) -/
def towUdp (t : Sheets) : Nat := field (t.body 7) 4 2
def towPcp (t : Sheets) (k : Nat) : Nat := field (t.body 7) (8 + k) 1
def towDscp (t : Sheets) (k : Nat) : Nat := field (t.body 7) (0xC + k) 1
/-- The address that a member 0 port of index 0 of a die carries. -/
def towBase (t : Sheets) (d : Nat) : Bytes := slice (t.body 7) (0x10 + 16 * d) 16
def towPort (t : Sheets) (p off n : Nat) : Nat := field (t.body 7) (0x50 + 32 * p + off) n
def towMode (t : Sheets) (p : Nat) : Nat := towPort t p 0 1
def towWidth (t : Sheets) (p : Nat) : Nat := towPort t p 1 1
def towSet (t : Sheets) (p : Nat) : Bool := towPort t p 2 1 == 1
def towProbation (t : Sheets) (p : Nat) : Nat := if towPort t p 4 4 = 0 then 65536 else towPort t p 4 4
def towIp (t : Sheets) (p : Nat) : Bytes := slice (t.body 7) (0x50 + 32 * p + 16) 16
/-- A port's packets are IPv6. -/
def towV6 (t : Sheets) (p : Nat) : Bool := towPort t p 3 1 == 6
def towNextHop (t : Sheets) (p : Nat) : Bytes := slice (t.body 7) (0x50 + 32 * p + 8) 6
def flowField (t : Sheets) (f off n : Nat) : Nat := field (t.body 7) (0x750 + 32 * f + off) n
def flowEnabled (t : Sheets) (f : Nat) : Bool := decide (f < 1024) && flowField t f 0 1 == 1
def flowBasin (t : Sheets) (f : Nat) : Nat := flowField t f 1 1
def flowClasses (t : Sheets) (f : Nat) : Nat := flowField t f 2 1
def flowPorts (t : Sheets) (f : Nat) : List Nat :=
  ((List.range 4).map (fun i => flowField t f (4 + i) 1)).filter (fun p => decide (p < 56))
def flowPeer (t : Sheets) (f : Nat) : Nat := flowField t f 8 8
def flowPeerIp (t : Sheets) (f : Nat) : Bytes := slice (t.body 7) (0x750 + 32 * f + 16) 16
/-- The sluice-set ports of a die, by number (R368). -/
def sluicePorts (t : Sheets) (d : Nat) : List Nat :=
  ((List.range 14).map (fun i => 14 * d + i)).filter (fun p => towSet t p && towMode t p != 0)

/-- The significant bytes of an address: 4 for IPv4, 16 for IPv6. -/
def ipLen (v6 : Bool) : Nat := if v6 then 16 else 4

/-- The address that lies n after another, in the same 16 bytes of the sheet. -/
def ipAfter (v6 : Bool) (base : Bytes) (n : Nat) : Bytes :=
  beBytes (ipLen v6) (beValue (base.take (ipLen v6)) + n) ++ List.replicate (16 - ipLen v6) 0

/-! ### Stitch (R398) -/
def stcWidth (t : Sheets) (l : Nat) : Nat := field (t.body 8) (8 + 8 * l) 1
def stcRate (t : Sheets) (l : Nat) : Nat := field (t.body 8) (9 + 8 * l) 1
def stcThreshold (t : Sheets) (l : Nat) : Nat := if field (t.body 8) (10 + 8 * l) 1 = 0 then 16 else field (t.body 8) (10 + 8 * l) 1

/-! ### Numerics (R182) -/
def numFlight (t : Sheets) (b : Nat) : Bool := field (t.body 9) (4 + b) 1 == 1
def numRne (t : Sheets) (b : Nat) : Bool := field (t.body 9) (0xC + b) 1 == 1
def numHeadroom (t : Sheets) (b : Nat) : Nat := field (t.body 9) (0x14 + b) 1
def numDecay (t : Sheets) (b : Nat) : Nat := field (t.body 9) (0x1C + b) 1

/-! ### Sluice (R346) -/
def slcField (t : Sheets) (b off n : Nat) : Nat := field (t.body 10) (0x10 + 64 * b + off) n
def slcEnabled (t : Sheets) (b : Nat) : Bool := slcField t b 0 1 == 1
def slcThinning (t : Sheets) (b : Nat) : Nat := slcField t b 1 1
def slcShift (t : Sheets) (b : Nat) : Nat := slcField t b 2 1
def slcDrop (t : Sheets) (b : Nat) : Bool := slcField t b 3 1 == 1
def slcPropagate (t : Sheets) (b : Nat) : Bool := slcField t b 4 1 == 1
def slcBuddy (t : Sheets) (b : Nat) : Bool := slcField t b 5 1 == 1
def slcP (t : Sheets) (b : Nat) : Nat := slcField t b 8 2
def slcMember (t : Sheets) (b : Nat) : Nat := slcField t b 0xA 2
def slcQuorum (t : Sheets) (b : Nat) : Nat := if slcField t b 0xC 2 = 0 then slcP t b else slcField t b 0xC 2
def slcOffset (t : Sheets) (b : Nat) : Nat := slcField t b 0xE 2
def slcDeadline (t : Sheets) (b : Nat) : Nat := if slcField t b 0x14 4 = 0 then 2000 else slcField t b 0x14 4
def slcBroadcast (t : Sheets) (b : Nat) : Nat := if slcField t b 0x18 4 = 0 then 50000 else slcField t b 0x18 4
def slcNormWait (t : Sheets) (b : Nat) : Nat := if slcField t b 0x1C 4 = 0 then 10000 else slcField t b 0x1C 4
def slcWorkFirst (t : Sheets) (b d : Nat) : Nat := slcField t b (0x20 + 8 * d) 4
def slcWorkCount (t : Sheets) (b d : Nat) : Nat := slcField t b (0x24 + 8 * d) 2
def slcRing (t : Sheets) (b d : Nat) : Nat := slcField t b (0x26 + 8 * d) 2 * 2 ^ 20

/-! ### Recovery (R473), check units (R490), telemetry (R489), trust (R81), identity (R80), firmware (R103, R412) -/
def recDefault (t : Sheets) (off n dflt : Nat) : Nat := if field (t.body 11) off n = 0 then dflt else field (t.body 11) off n
def recDeadlock (t : Sheets) : Nat := recDefault t 4 4 65536
def recQueue (t : Sheets) : Nat := recDefault t 8 2 100
def recSluice (t : Sheets) : Nat := recDefault t 0xA 2 100
def recPort (t : Sheets) : Nat := recDefault t 0xC 2 100
def recLimit (t : Sheets) : Nat := recDefault t 0xE 1 3
def recWindow (t : Sheets) : Nat := recDefault t 0x10 4 10000
def recNeverBlow (t : Sheets) : Bool := field (t.body 11) 0x14 1 == 1
def recNoCycle (t : Sheets) : Bool := field (t.body 11) 0x15 1 == 1
def chkField (t : Sheets) (u off n : Nat) : Nat := field (t.body 14) (0x10 + 16 * u + off) n
def chkMode (t : Sheets) (u : Nat) : Nat := chkField t u 0 1
def chkBasin (t : Sheets) (u : Nat) : Nat := chkField t u 1 1
def chkAlgorithm (t : Sheets) (u : Nat) : Nat := chkField t u 2 1
def chkClass (t : Sheets) (u : Nat) : Nat := chkField t u 3 1
def chkTarget (t : Sheets) (u : Nat) : Nat := chkField t u 4 2
def telField (t : Sheets) (b off n : Nat) : Nat := field (t.body 15) (0x10 + 32 * b + off) n
def telPhase (t : Sheets) (b : Nat) : Bool := bitOf (telField t b 0 1) 0
def telSummary (t : Sheets) (b : Nat) : Bool := bitOf (telField t b 0 1) 1
def telNumeric (t : Sheets) (b : Nat) : Bool := bitOf (telField t b 0 1) 2
def telDie (t : Sheets) (b : Nat) : Nat := telField t b 1 1
def telFirst (t : Sheets) (b : Nat) : Nat := telField t b 4 4
def telPhaseMib (t : Sheets) (b : Nat) : Nat := telField t b 8 2
def telNumericMib (t : Sheets) (b : Nat) : Nat := telField t b 0xA 2
def telSummaryMib (t : Sheets) (b : Nat) : Nat := telField t b 0xC 2
def trustSigning (t : Sheets) : Nat := field (t.body 16) 2 2
def trustAdmin (t : Sheets) : Nat := field (t.body 16) 4 2
def trustMaxWait (t : Sheets) : Nat := field (t.body 16) 6 2
def idLifeMask (t : Sheets) : Nat := field (t.body 1) 4 4
def idSerial (t : Sheets) : Nat := field (t.body 1) 8 8
def fwVersion (t : Sheets) : Nat := field (t.body 12) 4 4
def bootOffset (t : Sheets) : Nat := field (t.body 13) 8 4
def bootLength (t : Sheets) : Nat := field (t.body 13) 12 4

/-! ### Checks of one body: code 0x07 -/

def noRepeat : List Nat → Bool
  | [] => true
  | x :: xs => !xs.contains x && noRepeat xs

/-- The first two bytes hold the only body version, and the body has its length. -/
def bodyHead (b : Bytes) (len : Nat) : Bool := field b 0 2 == 1 && b.length == len

def okIdentity (b : Bytes) : Bool := bodyHead b 64 && zeroAt b 2 2 && decide (field b 4 4 < 32) && zeroAt b 0x30 16

/-- R57, R58. -/
def okClocks (b : Bytes) : Bool :=
  bodyHead b 32 && decide (field b 2 1 ≤ 1) && decide (field b 3 1 ≤ 1) && decide (field b 4 1 ≤ 1) && zeroAt b 5 3 &&
  zeroAt b 0x14 12 &&
  (List.range 4).all (fun x =>
    decide (field b (8 + x) 1 ≤ 5) && decide (field b (0xC + x) 1 ≤ 5) && decide (field b (0x10 + x) 1 ≤ 5) &&
    decide (field b (0xC + x) 1 ≤ field b (0x10 + x) 1) && decide (field b (0xC + x) 1 ≤ field b (8 + x) 1) &&
    decide (field b (8 + x) 1 ≤ field b (0x10 + x) 1))

/-- R449, R450. -/
def okPower (b : Bytes) : Bool :=
  bodyHead b 352 && zeroAt b 2 2 &&
  (field b 4 2 == 0 || (decide (1200 ≤ field b 4 2) && decide (field b 4 2 ≤ 3600))) && decide (field b 6 1 ≤ 1) &&
  (field b 7 1 == 0 || (decide (35 ≤ field b 7 1) && decide (field b 7 1 ≤ 100) && field b 7 1 % 5 == 0)) &&
  zeroAt b 9 7 && (List.range 4).all (fun d => zeroAt b (0x1C + 16 * d) 4) && zeroAt b 0x150 16

/-- R37, R38. -/
def okTopology (b : Bytes) : Bool :=
  let bytes := fun (off n : Nat) => (List.range n).map (fun i => field b (off + i) 1)
  bodyHead b 160 && decide (field b 2 1 ≤ 2) && zeroAt b 3 1 && decide (field b 4 4 < 64) && zeroAt b 0x98 8 &&
  (List.range 4).all (fun d =>
    let all := bytes (8 + 32 * d) 32 ++ bytes (0x88 + 4 * d) 4
    all.all (fun x => decide (x < 36) || x == 0xFF) && noRepeat (all.filter (fun x => x != 0xFF)))

/-- Whether a segment exists under its port's bifurcation (R428). -/
def segExists (bifurc seg : Nat) : Bool :=
  match bifurc with
  | 0 => seg == 0
  | 1 => seg == 0 || seg == 2
  | _ => true

/-- R428, R429. -/
def okBasins (b : Bytes) : Bool :=
  bodyHead b 592 && zeroAt b 2 14 &&
  (List.range 8).all (fun p =>
    decide (field b (0x10 + 8 * p) 1 ≤ 2) && decide (field b (0x11 + 8 * p) 1 ≤ 2) && zeroAt b (0x13 + 8 * p) 5 &&
    (List.range 4).all (fun g =>
      let role := bitsOf (field b (0x12 + 8 * p) 1) (2 * g + 1) (2 * g)
      role != 3 && (role == 0 || segExists (field b (0x10 + 8 * p) 1) g))) &&
  (List.range 8).all (fun n =>
    let o := 0x50 + 64 * n
    if field b o 1 = 0 then zeroAt b o 64
    else field b o 1 == 1 && decide (field b (o + 1) 1 ≤ 1) &&
      (decide (field b (o + 2) 1 < 32) || field b (o + 2) 1 == 0xFF) && decide (field b (o + 3) 1 < 16) &&
      zeroAt b (o + 0x1F) 1 && decide (field b (o + 0x20) 2 < 4096) && decide (field b (o + 0x28) 4 ≤ 131072) &&
      decide (field b (o + 0x2C) 1 ≤ 64) && decide (1 ≤ field b (o + 0x2D) 1) && zeroAt b (o + 0x2E) 2 &&
      zeroAt b (o + 0x38) 8)

/-- A range of a kind lies inside that kind's region, off the reserved GiB, in one interleave group or CXL window (R288). -/
def rangePlaced (t : Sheets) (r : Range) : Bool :=
  let last := r.first + r.count - 1
  match r.kind with
  | 1 => decide (last < 1024) && r.first / 256 == last / 256 && decide (last % 256 < 191) && decide (r.first % 256 < 191)
  | 2 =>
    decide (0x1000 ≤ r.first) && decide (last < 0x2000) &&
    (let pd := (r.first - 0x1000) / 2048
     let group := 256 * mapWidth t pd
     (last - 0x1000) / 2048 == pd && (r.first - 0x1000) % 2048 / group == (last - 0x1000) % 2048 / group)
  | 3 => decide (0x2000 ≤ r.first) && decide (last < 0x4000) && r.first / 1024 == last / 1024
  | _ => false

def rangesApart : List Range → Bool
  | [] => true
  | r :: rs => rs.all (fun q => decide (r.first + r.count ≤ q.first) || decide (q.first + q.count ≤ r.first)) && rangesApart rs

/-- R287, R288. -/
def okMemory (t : Sheets) : Bool :=
  let b := t.body 6
  bodyHead b 1040 && zeroAt b 2 2 && decide (field b 4 1 ≤ 3) && decide (field b 5 1 ≤ 3) && zeroAt b 6 10 &&
  (List.range 64).all (fun i =>
    let o := 0x10 + 16 * i
    if field b (o + 1) 1 = 0 then zeroAt b o 16
    else decide (field b o 1 ≤ 7) && decide (field b (o + 1) 1 ≤ 3) && zeroAt b (o + 2) 2 && decide (1 ≤ field b (o + 8) 4) &&
      zeroAt b (o + 12) 4 && rangePlaced t (mapRange t i)) &&
  rangesApart (mapRanges t)

/-- The bytes after an IPv4 address are zero. -/
def ipTail (v6 : Bool) (ip : Bytes) : Bool := (ip.drop (ipLen v6)).all (· == 0)

/-- A port entry of the sheet keeps R375. -/
def okTowPort (b : Bytes) (p : Nat) : Bool :=
  let o := 0x50 + 32 * p
  let eth := field b o 1 == 2
  decide (field b o 1 ≤ 2) && decide (field b (o + 1) 1 ≤ 3) && (!eth || field b (o + 1) 1 == 0) &&
  decide (field b (o + 2) 1 ≤ 1) && (if eth then field b (o + 3) 1 == 4 || field b (o + 3) 1 == 6 else zeroAt b (o + 3) 1) &&
  decide (field b (o + 4) 4 ≤ 16777216) && (eth || zeroAt b (o + 8) 6) && zeroAt b (o + 14) 2 &&
  (if eth then ipTail (field b (o + 3) 1 == 6) (slice b (o + 16) 16) else zeroAt b (o + 16) 16)

/-- A flow entry of the sheet keeps R375. -/
def okTowFlow (b : Bytes) (f : Nat) : Bool :=
  let o := 0x750 + 32 * f
  let ports := (List.range 4).map (fun i => field b (o + 4 + i) 1)
  if field b o 1 = 0 then zeroAt b o 32
  else field b o 1 == 1 && decide (field b (o + 1) 1 ≤ 7) && decide (field b (o + 2) 1 < 8) && zeroAt b (o + 3) 1 &&
    ports.all (fun p => decide (p < 56) || p == 0xFF) && (ports.dropWhile (fun p => p != 0xFF)).all (fun p => p == 0xFF) &&
    (match ports.filter (fun p => decide (p < 56) && field b (0x50 + 32 * p) 1 == 2) with
      | [] => zeroAt b (o + 16) 16
      | p :: _ => ipTail (field b (0x50 + 32 * p + 3) 1 == 6) (slice b (o + 16) 16))

/-- The sluice base of a die is an address of the version that its Ethernet set ports carry. -/
def okTowBase (b : Bytes) (d : Nat) : Bool :=
  (List.range 14).all (fun i =>
    let o := 0x50 + 32 * (14 * d + i)
    field b o 1 != 2 || field b (o + 2) 1 != 1 || ipTail (field b (o + 3) 1 == 6) (slice b (0x10 + 16 * d) 16))

/-- The index that a sluice-set port carries: on Ethernet where its address lies after its member's, else its place in the
set. Log entry 100. -/
def setIndex (t : Sheets) (p : Nat) : Nat :=
  let n := ipLen (towV6 t p)
  if towMode t p = 2 then
    beValue ((towIp t p).take n) - beValue ((towBase t (p / 14)).take n) - 16 * slcMember t ((portOwner t p).getD 0)
  else (sluicePorts t (p / 14)).findIdx (· == p)

/-- A sluice-set port carries the address of its die's base, its member and an index of the set. -/
def okSetPort (t : Sheets) (p : Nat) : Bool :=
  towMode t p != 2 || !towSet t p ||
    (decide (setIndex t p < (sluicePorts t (p / 14)).length) &&
     towIp t p == ipAfter (towV6 t p) (towBase t (p / 14)) (16 * slcMember t ((portOwner t p).getD 0) + setIndex t p))

/-- R375, R376. -/
def okTowpath (t : Sheets) : Bool :=
  let b := t.body 7
  bodyHead b 34640 && zeroAt b 2 2 && decide (1024 ≤ field b 4 2) && zeroAt b 6 2 &&
  (List.range 4).all (fun k => decide (field b (8 + k) 1 ≤ 7) && decide (field b (0xC + k) 1 ≤ 63)) &&
  (List.range 4).all (okTowBase b) && (List.range 56).all (fun p => okTowPort b p && okSetPort t p) &&
  (List.range 1024).all (okTowFlow b)

/-- The design width of a link, by its row (R24). -/
def designWidth (l : Nat) : Nat := if l < 4 then 16 else if l < 8 then 4 else 2

/-- R398, R399. -/
def okStitch (b : Bytes) : Bool :=
  bodyHead b 80 && zeroAt b 2 6 &&
  (List.range 9).all (fun l =>
    let o := 8 + 8 * l
    let w := field b o 1
    (w == 0 || ([1, 2, 4, 8, 16].contains w && decide (w ≤ designWidth l))) && decide (field b (o + 1) 1 ≤ 1) &&
    zeroAt b (o + 3) 5)

/-- R182. -/
def okNumerics (b : Bytes) : Bool :=
  bodyHead b 48 && zeroAt b 2 2 && zeroAt b 0x24 12 &&
  (List.range 8).all (fun n =>
    decide (field b (4 + n) 1 ≤ 1) && decide (field b (0xC + n) 1 ≤ 1) && decide (field b (0x14 + n) 1 ≤ 7) &&
    decide (field b (0x1C + n) 1 ≤ 14))

/-- R346, R347. -/
def okSluice (b : Bytes) : Bool :=
  bodyHead b 528 && zeroAt b 2 14 &&
  (List.range 8).all (fun n =>
    let o := 0x10 + 64 * n
    let p := field b (o + 8) 2
    let wait := fun (off : Nat) (lo hi : Nat) =>
      field b (o + off) 4 == 0 || (decide (lo ≤ field b (o + off) 4) && decide (field b (o + off) 4 ≤ hi))
    if field b o 1 = 0 then zeroAt b o 64
    else field b o 1 == 1 && decide (field b (o + 1) 1 ≤ 2) &&
      (if field b (o + 1) 1 = 2 then decide (6 ≤ field b (o + 2) 1) && decide (field b (o + 2) 1 ≤ 10) else zeroAt b (o + 2) 1) &&
      decide (field b (o + 3) 1 ≤ 1) && decide (field b (o + 4) 1 ≤ 1) && decide (field b (o + 5) 1 ≤ 1) &&
      zeroAt b (o + 6) 2 && decide (1 ≤ p) && decide (p ≤ 16384) && decide (field b (o + 0xA) 2 < p) &&
      decide (field b (o + 0xC) 2 ≤ p) &&
      (if field b (o + 5) 1 = 1 then decide (1 ≤ field b (o + 0xE) 2) && decide (field b (o + 0xE) 2 < p)
       else zeroAt b (o + 0xE) 2) &&
      wait 0x14 10 1000000 && wait 0x18 100 10000000 && wait 0x1C 100 10000000 &&
      (List.range 4).all (fun d =>
        decide (1 ≤ field b (o + 0x24 + 8 * d) 2) && decide (field b (o + 0x24 + 8 * d) 2 ≤ 64) &&
        decide (1 ≤ field b (o + 0x26 + 8 * d) 2) && decide (field b (o + 0x26 + 8 * d) 2 ≤ 256)) &&
      (field b (o + 1) 1 != 1 || decide (p ≤ 256)))

/-- R473, R474. -/
def okRecovery (b : Bytes) : Bool :=
  let rng := fun (off n lo hi : Nat) => field b off n == 0 || (decide (lo ≤ field b off n) && decide (field b off n ≤ hi))
  bodyHead b 32 && zeroAt b 2 2 && rng 4 4 4096 16777216 && rng 8 2 1 10000 && rng 0xA 2 10 60000 && rng 0xC 2 1 10000 &&
  rng 0xE 1 2 15 && zeroAt b 0xF 1 && rng 0x10 4 100 3600000 && decide (field b 0x14 1 ≤ 1) && decide (field b 0x15 1 ≤ 1) &&
  zeroAt b 0x16 10

/-- R103, R104. -/
def okKeeperFw (b : Bytes) : Bool :=
  let co := field b 8 4
  let cl := field b 12 4
  let po := field b 16 4
  let pl := field b 20 4
  field b 0 2 == 1 && zeroAt b 2 2 && zeroAt b 0x18 40 && co % 64 == 0 && decide (0x40 ≤ co) && po % 64 == 0 &&
  decide (0x40 ≤ po) && decide (1 ≤ cl) && decide (cl ≤ 0x100000) && decide (1 ≤ pl) && decide (pl ≤ 0x100000) &&
  decide (co + cl ≤ b.length) && decide (po + pl ≤ b.length) && (decide (co + cl ≤ po) || decide (po + pl ≤ co))

/-- R412. -/
def okBootFw (b : Bytes) : Bool :=
  field b 0 2 == 1 && zeroAt b 2 2 && zeroAt b 0x10 48 && field b 8 4 % 64 == 0 && decide (0x40 ≤ field b 8 4) &&
  decide (1 ≤ field b 12 4) && decide (field b 12 4 ≤ 0x1000000) && decide (field b 8 4 + field b 12 4 ≤ b.length)

/-- R490. -/
def okChecks (b : Bytes) : Bool :=
  bodyHead b 1168 && zeroAt b 2 14 &&
  (List.range 72).all (fun u =>
    let o := 0x10 + 16 * u
    let m := field b o 1
    decide (m ≤ 7) &&
    (if m = 0 ∨ m = 3 ∨ m = 4 then field b (o + 1) 1 == 0xFF else decide (field b (o + 1) 1 ≤ 7)) &&
    (if m = 6 ∨ m = 7 then zeroAt b (o + 2) 1 else decide (field b (o + 2) 1 ≤ 1)) &&
    (if m = 3 ∨ m = 4 then decide (field b (o + 3) 1 ≤ 3) else zeroAt b (o + 3) 1) &&
    (if m = 1 ∨ m = 2 then decide (field b (o + 4) 2 ≤ 1023)
     else if m = 3 ∨ m = 4 then decide (field b (o + 4) 2 ≤ 8) else zeroAt b (o + 4) 2) &&
    zeroAt b (o + 6) 10)

/-- R489. -/
def okTelemetry (b : Bytes) : Bool :=
  bodyHead b 272 && zeroAt b 2 14 &&
  (List.range 8).all (fun n =>
    let o := 0x10 + 32 * n
    let size := fun (bit off : Nat) =>
      if bitOf (field b o 1) bit then decide (1 ≤ field b (o + off) 2) && decide (field b (o + off) 2 ≤ 1024)
      else zeroAt b (o + off) 2
    if field b o 1 = 0 then zeroAt b o 32
    else decide (field b o 1 < 8) && decide (field b (o + 1) 1 ≤ 3) && zeroAt b (o + 2) 2 && size 0 8 && size 2 0xA && size 1 0xC &&
      decide (field b (o + 8) 2 + field b (o + 0xA) 2 + field b (o + 0xC) 2 ≤ 1024) &&
      decide (field b (o + 0xE) 2 ≤ 1000) && zeroAt b (o + 16) 16)

/-- R81: the zero signing mask is permitted only when the quire is to be active in BLANK. -/
def okTrust (b : Bytes) (blank : Bool) : Bool :=
  bodyHead b 16 && decide (field b 2 2 < 16) && (blank || field b 2 2 != 0) && decide (field b 4 2 < 512) &&
  field b 4 2 != 0 && decide (field b 6 2 ≤ 1000) && zeroAt b 8 8

/-- The body check of one sheet type. -/
def okBody (t : Sheets) (blank : Bool) (ty : Nat) : Bool :=
  match ty with
  | 1 => okIdentity (t.body 1)
  | 2 => okClocks (t.body 2)
  | 3 => okPower (t.body 3)
  | 4 => okTopology (t.body 4)
  | 5 => okBasins (t.body 5)
  | 6 => okMemory t
  | 7 => okTowpath t
  | 8 => okStitch (t.body 8)
  | 9 => okNumerics (t.body 9)
  | 10 => okSluice (t.body 10)
  | 11 => okRecovery (t.body 11)
  | 12 => okKeeperFw (t.body 12)
  | 13 => okBootFw (t.body 13)
  | 14 => okChecks (t.body 14)
  | 15 => okTelemetry (t.body 15)
  | 16 => okTrust (t.body 16) blank
  | _ => false

/-! ### Checks across bodies: code 0x08 -/

def inService (t : Sheets) (d : Nat) : Bool := bitOf (topService t) d
/-- The die on which a range of memory lies. -/
def rangeDie (r : Range) : Nat :=
  if r.kind = 1 then r.first / 256 else if r.kind = 2 then 4 + (r.first - 0x1000) / 2048 else 4 + (r.first - 0x2000) / 1024 / 4
def complexDie (x : Nat) : Nat := 4 + x / 2
def bitsSet (n : Nat) (mask : Nat) : List Nat := (List.range n).filter (bitOf mask)
/-- The DDR channels of a range's interleave group (R256). -/
def rangeChannels (t : Sheets) (r : Range) : List Nat :=
  let pd := (r.first - 0x1000) / 2048
  let n := mapWidth t pd
  let g := (r.first - 0x1000) % 2048 / (256 * n)
  (List.range n).map (fun i => 8 * pd + g * n + i)

/-- R38's last check, with R430's last on segments. -/
def crossService (t : Sheets) : Bool :=
  basinIds.all (fun b => !bsnEnabled t b ||
    ((bitsSet 128 (bsnClusterMask t b)).all (fun c => inService t (c / 32) && topMap t (c / 32) (c % 32) != 0xFF) &&
     (bitsSet 12 (bsnStackMask t b)).all (fun k => inService t (k / 3)) &&
     (bitsSet 56 (bsnPortMask t b)).all (fun p => inService t (p / 14)) &&
     (bitsSet 16 (bsnChannelMask t b)).all (fun c => inService t (4 + c / 8)) &&
     (bitsSet 4 (bsnComplexMask t b)).all (fun x => inService t (complexDie x)) &&
     (List.range 32).all (fun g => !bsnHasSegment t b g || inService t (4 + g / 16))))

def exclusive (p : Nat → Nat → Bool) (n : Nat) : Bool :=
  (List.range n).all (fun u => decide ((basinIds.filter (fun b => p b u)).length ≤ 1))

/-- R430. -/
def crossBasins (t : Sheets) : Bool :=
  exclusive (bsnHasCluster t) 128 && exclusive (bsnHasPort t) 56 && exclusive (bsnHasComplex t) 4 &&
  exclusive (bsnHasLine t) 32 && exclusive (bsnHasSegment t) 32 &&
  basinIds.all (fun b => !bsnEnabled t b ||
    ((if bsnSelf t b then bsnEndpoint t b == 0xFF && bsnComplexMask t b != 0 && !(basinRanges t b).isEmpty
      else decide (bsnEndpoint t b < 32) && bsnComplexMask t b == 0 && pcieRole t (bsnEndpoint t b) == 1) &&
     (bitsSet 32 (bsnRootMask t b)).all (fun g => pcieRole t g == 2) &&
     (basinRanges t b).all (fun r =>
       if r.kind = 1 then (List.range 3).all (fun i => bitOf (bsnStackMask t b) (rangeDie r * 3 + i))
       else if r.kind = 2 then (rangeChannels t r).all (fun c => bitOf (bsnChannelMask t b) c) else true))) &&
  decide ((basinIds.map (bsnQuota t)).sum ≤ 131072) && decide ((basinIds.map (bsnShare t)).sum ≤ 256) &&
  decide ((basinIds.map (fun b => bsnRate t b * 64 * (bitsSet 128 (bsnClusterMask t b)).length +
    (if slcEnabled t b then 1024 else 0))).sum ≤ 65536)

/-- R288. -/
def crossMemory (t : Sheets) : Bool :=
  (mapRanges t).all (fun r => bsnEnabled t r.basin && inService t (rangeDie r))

/-- R376. -/
def crossTowpath (t : Sheets) : Bool :=
  (List.range 56).all (fun p => towMode t p == 0 || ((portOwner t p).isSome && inService t (p / 14))) &&
  (List.range 1024).all (fun f => !flowEnabled t f ||
    ((flowPorts t f).all (fun p => bsnHasPort t (flowBasin t f) p) &&
     ((flowPorts t f).all (fun p => towMode t p == 1) || (flowPorts t f).all (fun p => towMode t p == 2)))) &&
  (List.range 56).all (fun p => !(towSet t p && towMode t p != 0) ||
    (match portOwner t p with | some b => slcEnabled t b | none => false)) &&
  (List.range 4).all (fun d => noRepeat ((sluicePorts t d).map (setIndex t)))

/-- R347. -/
def crossSluice (t : Sheets) : Bool :=
  basinIds.all (fun b => !slcEnabled t b ||
    (List.range 4).all (fun d => inService t d &&
      (List.range (slcWorkCount t b d)).all (fun i =>
        (basinRanges t b).any (fun r => r.kind == 1 && rangeDie r == d && decide (r.first ≤ slcWorkFirst t b d + i) &&
          decide (slcWorkFirst t b d + i < r.first + r.count))))) &&
  noRepeat ((basinIds.filter (slcEnabled t)).map (fun b => slcField t b 0x10 4))

/-- R450. -/
def crossPower (t : Sheets) : Bool :=
  (List.range 4).all (fun d =>
    decide (((List.range 32).map (fun l => powCluster t (32 * d + l))).sum + powSluice t d + powReserved t d + 48000 ≤ 760000) &&
    decide (powTp t d ≤ 180000) &&
    (powTp t d != 0 || (List.range 14).all (fun i => (portOwner t (14 * d + i)).isNone)) &&
    decide (4000 ≤ powReserved t d) && (decide (2000 ≤ powSluice t d) || basinIds.all (fun b => !slcEnabled t b))) &&
  (List.range 128).all (fun c => (clusterOwner t c).isNone || decide (2000 ≤ powCluster t c))

/-- R474. -/
def crossRecovery (t : Sheets) : Bool :=
  basinIds.all (fun b => !slcEnabled t b || decide (slcDeadline t b + slcBroadcast t b + slcNormWait t b < recSluice t * 1000))

/-- R489. -/
def crossTelemetry (t : Sheets) : Bool :=
  basinIds.all (fun b => telField t b 0 1 == 0 ||
    ((basinRanges t b).any (fun r => r.kind == 1 && rangeDie r == telDie t b && decide (r.first ≤ telFirst t b) &&
      decide (telFirst t b < r.first + r.count)) &&
     basinIds.all (fun q => !slcEnabled t q || (List.range 4).all (fun d =>
       decide (telFirst t b < slcWorkFirst t q d) || decide (slcWorkFirst t q d + slcWorkCount t q d ≤ telFirst t b)))))

/-- The die a check unit is on (R28). -/
def checkDie (u : Nat) : Nat := if u < 64 then u / 16 else 4 + (u - 64) / 4

/-- The two ends of each link, in the row order of R24. -/
def linkEnds (l : Nat) : Nat × Nat :=
  match l with
  | 0 => (0, 2)
  | 1 => (1, 3)
  | 2 => (0, 1)
  | 3 => (2, 3)
  | 4 => (4, 0)
  | 5 => (4, 1)
  | 6 => (5, 3)
  | 7 => (5, 2)
  | _ => (4, 5)

/-- R490. -/
def crossChecks (t : Sheets) : Bool :=
  (List.range 72).all (fun u =>
    let m := chkMode t u
    let die := checkDie u
    let onLink := (linkEnds (chkTarget t u)).1 == die || (linkEnds (chkTarget t u)).2 == die
    (decide (u < 64) || m == 0 || m == 3 || m == 4) &&
    (!(m == 1 || m == 2) || (flowEnabled t (chkTarget t u) && flowBasin t (chkTarget t u) == chkBasin t u &&
      (flowPorts t (chkTarget t u)).all (fun p => p / 14 == die))) &&
    (!(m == 3 || m == 4) || onLink) &&
    (m != 4 || (List.range 72).any (fun v => chkMode t v == 3 && chkTarget t v == chkTarget t u &&
      chkClass t v == chkClass t u && checkDie v != die &&
      ((linkEnds (chkTarget t u)).1 == checkDie v || (linkEnds (chkTarget t u)).2 == checkDie v))) &&
    (m != 5 || (List.range 32).any (fun l => bsnHasCluster t (chkBasin t u) (32 * die + l))) &&
    (!(m == 6 || m == 7) || slcEnabled t (chkBasin t u)))

/-- The cross-sheet checks in the order of their sheets' types: the first sheet that fails. Log entry 95. -/
def crossFailure (t : Sheets) : Option Nat :=
  if !crossPower t then some 3
  else if !(crossService t && crossBasins t) then some 5
  else if !crossMemory t then some 6
  else if !crossTowpath t then some 7
  else if !crossSluice t then some 10
  else if !crossRecovery t then some 11
  else if !crossChecks t then some 14
  else if !crossTelemetry t then some 15
  else none

/-! ### Validation of a slot (R65-R70) -/

/-- What validation takes from the package (R70, R81, R101): the life-cycle state, the fused serial and key hashes, the
signing mask in force (none at package start), and the active sequence when the sequence is checked. -/
structure ValidateIn where
  life : LifeCycle
  serial : W64
  hashes : NMap Bytes
  signing : Option Nat
  ownMask : Bool
  activeSeq : Option Nat
  readable : Bool

/-- The result of validation: its code, the sheet it names, and the sheet bodies read. -/
structure ValidateOut where
  code : Nat
  sheet : Nat
  seq : Nat
  keyIndex : Nat
  sheets : Sheets

def LifeCycle.index : LifeCycle → Nat
  | .blank => 0
  | .provisioned => 1
  | .deployed => 2
  | .returned => 3
  | .scrapped => 4

/-- Check 0x01 (R65). A zero quire sequence fails it, which R70's list does not say. Log entry 95. -/
def okHeader (h : Bytes) : Bool :=
  field h 0 4 == 0x52495551 && field h 4 2 == 1 && field h 6 2 == 0x80 && field h 8 4 == field h 0x2C 4 + 200 &&
  decide (field h 8 4 ≤ 0x4000000) && field h 0xC 2 == 16 && zeroAt h 0xE 2 && field h 0x10 8 != 0 && zeroAt h 0x1B 5 &&
  field h 0x28 4 == 0x80 && field h 0x2C 4 % 64 == 0 && zeroAt h 0x30 76 &&
  field h 0x7C 4 == (crc32c (h.take 0x7C)).toNat

/-- Check 0x02 of the header: part and stepping. -/
def okPart (h : Bytes) : Bool := field h 0x18 2 == 0x4120 && field h 0x1A 1 == 0xA1

def dirType (dir : Bytes) (i : Nat) : Nat := field dir (16 * i) 2
def dirOffset (dir : Bytes) (i : Nat) : Nat := field dir (16 * i + 4) 4
def dirLength (dir : Bytes) (i : Nat) : Nat := field dir (16 * i + 8) 4

/-- Check 0x03 (R66). A sheet too short for its header fails it. Log entry 95. -/
def okDirectory (dir : Bytes) (sig : Nat) : Bool :=
  (List.range 16).all (fun i => dirType dir i == i + 1 && zeroAt dir (16 * i + 2) 2 && zeroAt dir (16 * i + 12) 4 &&
    dirOffset dir i % 64 == 0 && decide (0x180 ≤ dirOffset dir i) && decide (16 ≤ dirLength dir i) &&
    decide (dirOffset dir i + dirLength dir i ≤ sig)) &&
  (List.range 16).all (fun i => (List.range i).all (fun j =>
    decide (dirOffset dir i + dirLength dir i ≤ dirOffset dir j) || decide (dirOffset dir j + dirLength dir j ≤ dirOffset dir i)))

/-- Check 0x04 of one sheet (R67). -/
def okSheet (hdr body : Bytes) (ty : Nat) : Bool :=
  field hdr 0 2 == ty && zeroAt hdr 2 2 && field hdr 4 4 == body.length && field hdr 8 4 == (crc32c body).toNat && zeroAt hdr 12 4

/-- Check 0x05 (R69). A non-zero reserved field of the block fails it. In the check of R101 a zero mask is left to check 0x07.
Log entry 95. -/
def okSignature (v : ValidateIn) (own : Nat) (sig msg : Bytes) : Bool :=
  let key := field sig 2 2
  let hash := Config.sha384 (slice sig 8 96)
  let mask := if v.ownMask then (if own = 0 then none else some own) else v.signing
  field sig 0 2 == 1 && zeroAt sig 4 4 &&
  (if key = 0xFF then v.life == .blank && hash == Config.factoryKeyHash
   else decide (key < 4) && nget (fun _ => []) v.hashes key != [] && hash == nget (fun _ => []) v.hashes key &&
     (match mask with | some m => bitOf m key | none => true)) &&
  Config.ecdsaP384 (slice sig 8 96) msg (slice sig 0x68 96)

/-- Validation of a slot, read by `rd offset length`, in the order of R70. Log entry 95. -/
def validateSlot (v : ValidateIn) (rd : Nat → Nat → Bytes) : ValidateOut :=
  let h := rd 0 0x80
  let sig := field h 0x2C 4
  let dir := rd 0x80 0x100
  let hdr := fun i => rd (dirOffset dir i) 16
  let body := fun i => rd (dirOffset dir i + 16) (dirLength dir i - 16)
  let key := field (rd sig 200) 2 2
  let fail := fun code sheet => (⟨code, sheet, field h 0x10 8, key, []⟩ : ValidateOut)
  if !v.readable then fail 0x0A 0
  else if !okHeader h then fail 0x01 0
  else if !okPart h then fail 0x02 0
  else if !okDirectory dir sig then fail 0x03 0
  else
    match (List.range 16).find? (fun i => !okSheet (hdr i) (body i) (i + 1)) with
    | some i => fail 0x04 (i + 1)
    | none =>
      let t : Sheets := (List.range 16).map (fun i => (i + 1, body i))
      if idSerial t ≠ 0 ∧ idSerial t ≠ v.serial.toNat then fail 0x02 1
      else if !okSignature v (trustSigning t) (rd sig 200) (rd 0 sig) then fail 0x05 0
      else if (match v.activeSeq with | some a => decide (field h 0x10 8 ≤ a) | none => false) then fail 0x06 0
      else
        match (List.range 16).find? (fun i => !okBody t (v.life == .blank) (i + 1)) with
        | some i => fail 0x07 (i + 1)
        | none =>
          match crossFailure t with
          | some ty => fail 0x08 ty
          | none =>
            if !bitOf (idLifeMask t) v.life.index then fail 0x09 1
            else ⟨0, 0, field h 0x10 8, key, t⟩

end Sys2Proof.Machine
end

