-- ==== Sys2Proof/Machine/Ops.lean ====
section
/-!
DEFINITION. The named operations over the state: the tables of units, memory and its wiping, poison, flash, time,
messages, interrupts to a basin's host, raised errors, free values, and a context's entry into FAULTED.
-/
namespace Sys2Proof.Machine

/-! ### Units -/

def State.die (s : State) (d : Nat) : Die := nget (fun _ => .reset) s.dies d
def State.setDie (s : State) (d : Nat) (v : Die) : State := { s with dies := nset (fun _ => .reset) s.dies d v }
def State.core (s : State) (c : Nat) : Core := nget (fun _ => .reset) s.cores c
def State.setCore (s : State) (c : Nat) (v : Core) : State := { s with cores := nset (fun _ => .reset) s.cores c v }
def State.cluster (s : State) (k : Nat) : Cluster := nget (fun _ => .reset) s.clusters k
def State.setCluster (s : State) (k : Nat) (v : Cluster) : State :=
  { s with clusters := nset (fun _ => .reset) s.clusters k v }
def State.complex (s : State) (x : Nat) : Complex := nget (fun _ => .reset) s.complexes x
def State.setComplex (s : State) (x : Nat) (v : Complex) : State :=
  { s with complexes := nset (fun _ => .reset) s.complexes x v }
def State.hart (s : State) (h : Nat) : Hart := nget (fun _ => .reset) s.harts h
def State.setHart (s : State) (h : Nat) (v : Hart) : State := { s with harts := nset (fun _ => .reset) s.harts h v }
def State.basin (s : State) (b : Nat) : Basin := nget (fun _ => .reset) s.basins b
def State.setBasin (s : State) (b : Nat) (v : Basin) : State := { s with basins := nset (fun _ => .reset) s.basins b v }
def State.segment (s : State) (g : Nat) : Segment := nget (fun _ => .reset) s.segments g
def State.setSegment (s : State) (g : Nat) (v : Segment) : State :=
  { s with segments := nset (fun _ => .reset) s.segments g v }
def State.cxlPort (s : State) (p : Nat) : CxlPort := nget (fun _ => ⟨0, false⟩) s.cxl p
def State.setCxlPort (s : State) (p : Nat) (v : CxlPort) : State :=
  { s with cxl := nset (fun _ => ⟨0, false⟩) s.cxl p v }
def State.sluice (s : State) (d : Nat) : Sluice := nget (fun _ => .reset) s.sluices d
def State.setSluice (s : State) (d : Nat) (v : Sluice) : State :=
  { s with sluices := nset (fun _ => .reset) s.sluices d v }
def State.port (s : State) (p : Nat) : Port := nget (fun _ => .reset) s.ports p
def State.setPort (s : State) (p : Nat) (v : Port) : State := { s with ports := nset (fun _ => .reset) s.ports p v }
def State.flow (s : State) (f : Nat) : Flow := nget (fun _ => .reset) s.flows f
def State.setFlow (s : State) (f : Nat) (v : Flow) : State := { s with flows := nset (fun _ => .reset) s.flows f v }
def State.link (s : State) (l : Nat) : Link := nget (fun _ => .reset) s.links l
def State.setLink (s : State) (l : Nat) (v : Link) : State := { s with links := nset (fun _ => .reset) s.links l v }
def State.check (s : State) (u : Nat) : CheckUnit := nget (fun _ => .reset) s.checks u
def State.setCheck (s : State) (u : Nat) (v : CheckUnit) : State :=
  { s with checks := nset (fun _ => .reset) s.checks u v }
def State.setPkg (s : State) (v : Pkg) : State := { s with pkg := v }

/-- The ring r of basin b. -/
def State.ring (s : State) (b r : Nat) : Ring := nget (fun _ => .reset) (s.basin b).rings r
def State.setRing (s : State) (b r : Nat) (v : Ring) : State :=
  s.setBasin b { s.basin b with rings := nset (fun _ => .reset) (s.basin b).rings r v }

/-- Apply a change to each of a list of keys, in order. -/
def State.forEach {α : Type} (s : State) (l : List α) (f : State → α → State) : State := l.foldl f s

/-! ### The four queues of a core -/

def Q4.get {α : Type} (q : Q4 α) : Engine → α
  | .press => q.press
  | .vector => q.vector
  | .barge => q.barge
  | .sync => q.sync

def Q4.set {α : Type} (q : Q4 α) (e : Engine) (v : α) : Q4 α :=
  match e with
  | .press => { q with press := v }
  | .vector => { q with vector := v }
  | .barge => { q with barge := v }
  | .sync => { q with sync := v }

/-- The engines in the bit order of the QBAR masks (R116). -/
def engines : List Engine := [.press, .vector, .barge, .sync]

/-- The bit of an engine in a wait mask (R116): press 0 to sync 3. -/
def engineBit : Engine → Nat
  | .press => 0
  | .vector => 1
  | .barge => 2
  | .sync => 3

/-- Address register n; a0 reads as zero (R106). -/
def Core.areg (k : Core) (n : Nat) : W64 := if n = 0 then 0 else nget (fun _ => 0) k.aregs n

/-- Write address register n; a write to a0 is discarded (R106). -/
def Core.setAreg (k : Core) (n : Nat) (v : W64) : Core :=
  if n = 0 then k else { k with aregs := nset (fun _ => 0) k.aregs n v }

/-- Element e of tile register t (R105, R184). -/
def Core.tile (k : Core) (t e : Nat) : W32 := nget (fun _ => 0) k.tiles (t * 1024 + e)
def Core.setTile (k : Core) (t e : Nat) (v : W32) : Core :=
  { k with tiles := nset (fun _ => 0) k.tiles (t * 1024 + e) v }
/-- Vector register v. -/
def Core.vreg (k : Core) (v : Nat) : BitVec 1024 := nget (fun _ => 0) k.vregs v
def Core.setVreg (k : Core) (v : Nat) (x : BitVec 1024) : Core := { k with vregs := nset (fun _ => 0) k.vregs v x }

/-! ### Memory -/

/-- Window space of the physical map begins here (R254). -/
def windowBase : Nat := 0x100000000000

/-- What a byte that no write has listed reads as: zero after the wipes of R87 and R96; in a gauge entry, bits [23:16]
hold DECAY and HEADROOM at their reset value 15 (R167). Log entry 7. -/
def unlistedByte (a : Nat) : Byte :=
  if windowBase ≤ a ∧ a < windowBase + 0x80000000 ∧ 0xC00000 ≤ (a - windowBase) % 0x1000000 ∧
      (a - windowBase) % 0x1000000 < 0xC01000 ∧ a % 16 = 2 then 0xFF else 0

/-- The canonical form of a memory: addresses strictly rise, and no entry equals what its address reads as unlisted.
Log entry 7. -/
abbrev Memory.wf (m : List Host.Cell) : Prop := NMap.wf unlistedByte m

/-- One byte of physical memory. Log entry 7. -/
def State.byte (s : State) (a : Nat) : Byte := nget unlistedByte s.mem a

/-- Write one byte. -/
def State.setByte (s : State) (a : Nat) (v : Byte) : State := { s with mem := nset unlistedByte s.mem a v }

/-- n bytes from an address on. -/
def State.readBytes (s : State) (a : Nat) : Nat → Bytes
  | 0 => []
  | n + 1 => s.byte a :: State.readBytes s (a + 1) n

/-- Write bytes from an address on. -/
def State.writeBytes (s : State) (a : Nat) : Bytes → State
  | [] => s
  | b :: bs => State.writeBytes (s.setByte a b) (a + 1) bs

/-- The little-endian value of n bytes. -/
def State.readLe (s : State) (a n : Nat) : Nat := leValue (s.readBytes a n)
def State.writeLe (s : State) (a n v : Nat) : State := s.writeBytes a (leBytes n v)

/-- The poisoned 64-byte piece that holds an address (R283). -/
def State.poisoned (s : State) (a : Nat) : Bool := s.poison.contains (a / 64)

/-- Poison a piece (R283). Log entry 90. -/
def State.addPoison (s : State) (piece : Nat) : State :=
  if s.poison.contains piece then s else { s with poison := piece :: s.poison }

/-- A write of a whole piece clears its poison (R283). -/
def State.clearPoison (s : State) (piece : Nat) : State := { s with poison := s.poison.filter (· != piece) }

/-- Wipe a range: every byte reads as at reset, and nothing in it is poisoned (R96). -/
def State.wipe (s : State) (lo n : Nat) : State :=
  { s with mem := s.mem.filter (fun e => !(decide (lo ≤ e.1) && decide (e.1 < lo + n)))
           poison := s.poison.filter (fun p => !(decide (lo ≤ p * 64) && decide (p * 64 < lo + n))) }

/-- The canonical form of the flash. Log entry 6. -/
abbrev Flash.wf (m : List Host.Cell) : Prop := NMap.wf (fun _ => (0xFF : Byte)) m

/-- A byte of the flash; erased NOR flash reads as ones. Log entry 6. -/
def State.flashByte (s : State) (a : Nat) : Byte := nget (fun _ => 0xFF) s.flash a
/-- Log entry 6. -/
def State.setFlashByte (s : State) (a : Nat) (v : Byte) : State := { s with flash := nset (fun _ => 0xFF) s.flash a v }
def State.flashRead (s : State) (a : Nat) : Nat → Bytes
  | 0 => []
  | n + 1 => s.flashByte a :: State.flashRead s (a + 1) n
/-- Log entry 96. -/
def State.flashWrite (s : State) (a : Nat) : Bytes → State
  | [] => s
  | b :: bs => State.flashWrite (s.setFlashByte a b) (a + 1) bs
/-- Erase a range of the flash. Log entry 6. -/
def State.flashErase (s : State) (lo n : Nat) : State :=
  { s with flash := s.flash.filter (fun e => !(decide (lo ≤ e.1) && decide (e.1 < lo + n))) }

/-! ### Time -/

/-- CCLK cycles since the machine began: one lock cycle is 2,200 of them (R48). Log entry 2. -/
def State.now (s : State) : Nat := s.lockCycle * 2200 + s.cyc

/-- Advance a timebase by n ticks (n at most 1,000), with at most one corrected tick in every 1,000 (R53, R55). -/
def Die.advance (d : Die) (n : Nat) : Die :=
  if !d.running then d
  else if d.slew ≠ 0 ∧ 1000 ≤ d.sinceSlew + n then
    { d with timebase := d.timebase + BitVec.ofNat 64 (if 0 < d.slew then n + 1 else n - 1)
             slew := if 0 < d.slew then d.slew - 1 else d.slew + 1
             sinceSlew := 0 }
  else { d with timebase := d.timebase + BitVec.ofNat 64 n, sinceSlew := d.sinceSlew + n }

/-- Advance every die's timebase. -/
def State.advanceTimebases (s : State) (n : Nat) : State :=
  s.forEach [0, 1, 2, 3, 4, 5] (fun s d => s.setDie d ((s.die d).advance n))

/-- One CCLK cycle with no command: the cycle counts up to the lock cycle's last, and each 22nd cycle is a tick of the
timebase (R48). The next lock cycle begins only with LOCK_CYCLE_BOUNDARY. Log entry 2. -/
def State.tick (s : State) : State :=
  if s.cyc + 1 < 2200 then
    let t := { s with cyc := s.cyc + 1 }
    if t.cyc % 22 = 0 then t.advanceTimebases 1 else t
  else s

/-- The timebase of a die (R53). -/
def State.time (s : State) (d : Nat) : W64 := (s.die d).timebase

/-! ### Messages, interrupts, errors, free values -/

/-- Log entry 9. -/
def State.emit (s : State) (o : Out) : State := { s with out := s.out ++ [o] }

/-- Raise interrupt vector v of a basin: a self-hosted one's becomes an MSI of identity 32 + v, pending in the supervisor
file of the hart that BSN_IRQ_TARGET names (R405, R505). Log entry 83. -/
def State.vector (s : State) (b v : Nat) : State :=
  if bsnSelf (s.die s.pkg.head).active b then
    let h := (s.basin b).irqTarget
    let k := s.hart h
    (s.setHart h { k with sPending := if k.sPending.contains (32 + v) then k.sPending else k.sPending ++ [32 + v] }).emit (.msi h (32 + v))
  else s.emit (.vector b v)

/-- Set bits of BSN_ERR_STATUS; a bit that goes from 0 to 1 raises vector 1 (R504). -/
def State.setErr (s : State) (b : Nat) (mask : W32) : State :=
  let k := s.basin b
  let t := s.setBasin b { k with err := k.err ||| mask }
  if k.err ||| mask = k.err then t else t.vector b 1

def errMisuse : W32 := 0x2
def errHostUr : W32 := 0x4
def errHostWr : W32 := 0x8
def errCheck : W32 := 0x10
def errCheckMisuse : W32 := 0x20
def errError : W32 := 0x40
def errLinkDown : W32 := 0x80
def errUnavailable : W32 := 0x100
def errKettleShort : W32 := 0x200
/-- RING_STOP of ring r (R504). -/
def errRing (r : Nat) : W32 := BitVec.ofNat 32 (1 <<< (16 + r))

/-- Put a basin in a state of R425; a change of STATE raises vector 1 (R504). -/
def State.setBasinState (s : State) (b : Nat) (st : BasinState) : State :=
  let k := s.basin b
  let t := s.setBasin b { k with st := st }
  if k.st = st then t else t.vector b 1

/-- An error that its unit reports and that the keeper has still to give a scope (R459). Log entry 32. -/
def State.raise (s : State) (code die basin unit data addr : Nat) : State :=
  s.setPkg { s.pkg with
    raised := s.pkg.raised ++
      [(⟨BitVec.ofNat 16 code, ⟨die % 6, Nat.mod_lt _ (by decide)⟩, BitVec.ofNat 8 basin, BitVec.ofNat 16 unit,
        BitVec.ofNat 32 data, BitVec.ofNat 64 addr⟩, s.time (die % 6))] }

/-- Register misuse by a basin (R12, R491): the bit of its error status, and the error 0x0E02 of scope none (R452). -/
def State.misuse (s : State) (b : Nat) : State := (s.setErr b errMisuse).raise 0x0E02 s.pkg.head b 0xFFFF 0 0

/-- Take the next free value: a number the spec leaves open, and the state with its counter advanced. Log entry 9. -/
def State.free (s : State) : Nat × State := (Config.freeNat s.freeCount, { s with freeCount := s.freeCount + 1 })

/-! ### Clear-pending marks of DDR (R97) -/

/-- Take a block out of a list of marked ranges. Log entry 80. -/
def unmark (block : Nat) : List (Nat × Nat) → List (Nat × Nat)
  | [] => []
  | (f, n) :: rest =>
    if f ≤ block ∧ block < f + n then
      ([(f, block - f), (block + 1, f + n - (block + 1))].filter (fun r => r.2 != 0)) ++ unmark block rest
    else (f, n) :: unmark block rest

/-- An access to a marked block waits while the controller zeroes the block, and so finds its mark cleared. Log entry 80. -/
def State.touch (s : State) (pa : Nat) : State := { s with ddrMarks := unmark (pa / 0x200000) s.ddrMarks }

/-! ### Dalpa caches and the filters that record them (R263, R264) -/

/-- n open bytes. -/
def State.freeBytes (s : State) : Nat → State × Bytes
  | 0 => (s, [])
  | n + 1 =>
    let r := State.freeBytes s.free.2 n
    (r.1, BitVec.ofNat 8 s.free.1 :: r.2)

/-- The copy of a line in the caches of a processor die. -/
def State.copyOf (s : State) (line die : Nat) : Option CacheLine := s.caches.find? (fun e => e.line == line && e.die == die)

/-- Put a copy into the caches of its die, in place of one of the same line. -/
def State.keepCopy (s : State) (e : CacheLine) : State :=
  { s with caches := e :: s.caches.filter (fun x => !(x.line == e.line && x.die == e.die)) }

/-- A die's caches no longer hold a line. -/
def State.dropCopy (s : State) (line die : Nat) : State :=
  { s with caches := s.caches.filter (fun x => !(x.line == line && x.die == die)) }

/-- Whether harts have stored into a copy their die holds, and then what, is their doing and open. Log entry 63. -/
def State.hartStores (s : State) (e : CacheLine) : State × CacheLine :=
  let f := s.free
  if f.1 % 2 = 0 then (f.2, e)
  else
    let r := f.2.freeBytes 64
    (r.1, { e with dirty := true, data := r.2 })

/-- A dirty line is written back to its memory. -/
def State.writeBack (s : State) (e : CacheLine) : State :=
  if e.dirty then (s.writeBytes (64 * e.line) e.data).clearPoison e.line else s

/-- A die answers a snoop of a line: what it gives back, dirty or not; a downgrade leaves it a clean copy, the others none. -/
def State.surrender (s : State) (line die : Nat) (kind : SnoopKind) : State × Option CacheLine :=
  match s.copyOf line die with
  | none => (s, none)
  | some e =>
    let r := s.hartStores e
    (match kind with
      | .downgrade => r.1.keepCopy { r.2 with dirty := false }
      | _ => r.1.dropCopy line die, some r.2)

/-! ### Waits for credits (R122, R434) -/

/-- An engine of the core waits for credits. -/
def Core.engineWaits (k : Core) : Bool := engines.any (fun e => (k.flight.get e).any (fun f => f.waitSince.isSome))

/-- A core waits for credits or at a DRAW in this cycle (R122, R141). -/
def Core.waiting (k : Core) : Bool := k.engineWaits || (match k.seqWait with | .draw _ _ => true | _ => false)

/-- Begin or end the count of STALLS: a cycle counts once however many engines wait (R122). -/
def State.noteStall (s : State) (c : Nat) : State :=
  let k := s.core c
  match k.stallFrom with
  | none => if k.waiting then s.setCore c { k with stallFrom := some s.now } else s
  | some t => if k.waiting then s else s.setCore c { k with stallFrom := none, stalls := satCount (k.stalls + (s.now - t)) }

/-- End an engine's wait: its cycles are bubbles of the cluster (R434). -/
def State.endWait (s : State) (k : Nat) (since : Option Nat) : State :=
  match since with
  | some t => s.setCluster k { s.cluster k with stall := satCount ((s.cluster k).stall + (s.now - t)) }
  | none => s

/-- End every wait of a core: nothing of it is charged any more. -/
def State.endWaits (s : State) (c : Nat) : State :=
  let k := s.core c
  let s := (s.forEach (engines.flatMap k.flight.get) (fun s f => s.endWait (c / 8) f.waitSince)).endWait (c / 8) k.loadSince
  let still := fun (l : List InFlight) => l.map (fun f => { f with waitSince := none })
  (s.setCore c { k with seqWait := .free, expressSince := none, loadSince := none
                        flight := ⟨still k.flight.press, still k.flight.vector, still k.flight.barge, still k.flight.sync⟩ }).noteStall c

/-! ### Departures from kettle lines (R305) -/

/-- A context's standing on a line it has nothing to do with. -/
def noMember : KMember := ⟨false, false, false, false, false⟩

def Core.onLine (k : Core) (line : Nat) : KMember := nget (fun _ => noMember) k.kettle line
def Core.setLine (k : Core) (line : Nat) (m : KMember) : Core :=
  { k with kettle := nset (fun _ => noMember) k.kettle line m }

/-- The members of a line that have departed in the open generation: by HALT, and otherwise. Log entry 25. -/
def State.ghosts (s : State) (line : Nat) : Nat × Nat := nget (fun _ => (0, 0)) s.kettleGhosts line
def State.setGhosts (s : State) (line : Nat) (g : Nat × Nat) : State :=
  { s with kettleGhosts := nset (fun _ => (0, 0)) s.kettleGhosts line g }

/-- A context departs from its lines: a member counts as arrived for the open generation (R305). Log entry 25. -/
def State.depart (s : State) (c : Nat) (short : Bool) : State :=
  let k := s.core c
  let s := s.forEach k.kettle (fun s e =>
    if e.2.member then
      let g := s.ghosts e.1
      s.setGhosts e.1 (if short then (g.1, g.2 + 1) else (g.1 + 1, g.2))
    else s)
  s.setCore c { k with kettle := [] }

/-! ### A context's fault -/

/-- Put a core's context in FAULTED with an error code (R149): every queue stops issuing and being charged, the error is
reported, and a second fault before the endpaper merges with the first. The draw reservation returns to the cluster (R142),
and the context departs from its kettle lines (R305). Log entry 32. -/
def State.enterFault (s : State) (c : Nat) (code : Nat) (index : Nat) : State :=
  match (s.core c).ctx with
  | .running | .draining | .loading =>
    let s := (s.endWaits c).depart c true
    let k := s.core c
    let cl := s.cluster (c / 8)
    let s := s.setCore c { k with ctx := .faulted, fault := some (BitVec.ofNat 16 code), faultIndex := index,
                                  faultedAt := s.now, faultTime := s.time (c / 256), reservation := 0 }
    let s := s.setCluster (c / 8) { cl with unreserved := cl.unreserved + k.reservation }
    s.raise code (c / 256) k.basin c 0 0
  | .faulted => s.raise code (c / 256) (s.core c).basin c 0 0
  | .idle => s

end Sys2Proof.Machine
end

