-- ==== Sys2Proof/Machine/Routes.lean ====
section
/-!
DEFINITION. Routes between the dies (R25, R26, R390): the primary route of a pair, its alternate or detour, and what is in
force, and what the loss of a die does to the routes through it; the physical map and the die of an address.
-/
namespace Sys2Proof.Machine

/-- The compute die joined by the spine, by the leaf, and the processor die of a compute die's leaf (R24). -/
def spinePartner (d : Nat) : Nat := if d < 2 then d + 2 else d - 2
def leafPartner (d : Nat) : Nat := if d % 2 = 0 then d + 1 else d - 1
def ownProc (d : Nat) : Nat := if d < 2 then 4 else 5

/-- The link between two dies, if they are joined (R24). -/
def linkBetween (a b : Nat) : Option Nat :=
  (List.range 9).find? (fun l => linkEnds l == (a, b) || linkEnds l == (b, a))

/-- The link is in either ACTIVE state. Log entry 61. -/
def LinkState.carries (st : LinkState) : Bool := st == .active || st == .narrow

/-- The dies a primary route visits after its source (R25). -/
def primaryRoute (a b : Nat) : List Nat :=
  if a = b then []
  else if (linkBetween a b).isSome then [b]
  else if a < 4 then [spinePartner a, b]
  else [spinePartner b, b]

/-- The alternate of a two-hop route (R26), or the detour round a severed link (R390). -/
def otherRoute (a b : Nat) : List Nat :=
  if a = b then []
  else if a < 4 ∧ b < 4 then
    if b = spinePartner a then [leafPartner a, leafPartner b, b]
    else if b = leafPartner a then [spinePartner a, spinePartner b, b]
    else [leafPartner a, b]
  else if 4 ≤ a ∧ 4 ≤ b then (if a = 4 then [0, 2, 5] else [2, 0, 4])
  else if 4 ≤ a then (if ownProc b = a then [leafPartner b, b] else [9 - a, b])
  else if ownProc a = b then [leafPartner a, b]
  else [9 - b, b]

/-- Every link of a route, from its source on, is not severed. -/
def State.unsevered (s : State) : Nat → List Nat → Bool
  | _, [] => true
  | a, d :: ds =>
    (match linkBetween a d with | some l => (s.link l).st != .severed | none => false) && State.unsevered s d ds

/-- The route in force from a to b for new transactions; none when it would pass a lost die. -/
def State.route (s : State) (a b : Nat) : Option (List Nat) :=
  let r := if s.alternates.contains (a, b) || !s.unsevered a (primaryRoute a b) then otherRoute a b else primaryRoute a b
  if r.all (fun d => !(s.die d).isolated) && s.unsevered a r then some r else none

/-- The next die from a towards b (R415): a itself when b = a, 0xFF when no route exists. -/
def State.nextDie (s : State) (a b : Nat) : Nat :=
  if a = b then a else match s.route a b with
    | some (d :: _) => d
    | _ => 0xFF

/-- A route passes a die between its ends or ends at it. -/
def State.routeVia (s : State) (a b d : Nat) : Bool :=
  (if s.alternates.contains (a, b) || !s.unsevered a (primaryRoute a b) then otherRoute a b else primaryRoute a b).contains d

/-- Routes between the surviving dies that pass the lost die go by their alternates (R26). -/
def lostRoutes (lost : Nat) : List (Nat × Nat) :=
  ((List.range 6).flatMap (fun a => (List.range 6).map (fun b => (a, b)))).filter
    (fun p => p.2 != lost && (primaryRoute p.1 p.2).contains lost)

/-- A die is isolated, and the routes through it go by their alternates (R26). -/
def State.divert (s : State) (lost : Nat) : State :=
  let s := s.setDie lost { s.die lost with isolated := true }
  { s with alternates := s.alternates ++ (lostRoutes lost).filter (fun p => !s.alternates.contains p) }

/-- Traffic from die a reaches die b: one of its two routes stands (R26). -/
def State.joined (s : State) (a b : Nat) : Bool := (s.route a b).isSome

/-! ### The physical map (R254, R257) -/

/-- The regions of the physical map that hold memory. -/
inductive Place where
  | hbm (d off : Nat)
  | ddr (pd off : Nat)
  | cxl (p off : Nat)
  | pool (c off : Nat)
  | scratch (core off : Nat)
  | gauge (c off : Nat)
  | unmapped
  deriving DecidableEq, Repr

/-- The region of a physical address (R254, R257). -/
def placeOf (pa : Nat) : Place :=
  if pa < 0x10000000000 then
    if pa % 0x4000000000 < 0x3000000000 then .hbm (pa / 0x4000000000) (pa % 0x4000000000) else .unmapped
  else if 0x40000000000 ≤ pa ∧ pa < 0x80000000000 then
    .ddr ((pa - 0x40000000000) / 0x20000000000) ((pa - 0x40000000000) % 0x20000000000)
  else if 0x80000000000 ≤ pa ∧ pa < 0x100000000000 then
    .cxl ((pa - 0x80000000000) / 0x10000000000) ((pa - 0x80000000000) % 0x10000000000)
  else if windowBase ≤ pa ∧ pa < windowBase + 0x80000000 then
    let c := (pa - windowBase) / 0x1000000
    let o := (pa - windowBase) % 0x1000000
    if o < 0x400000 then .pool c o
    else if o < 0xC00000 then
      if (o - 0x400000) % 0x100000 < 0xC0000 then
        .scratch (8 * c + (o - 0x400000) / 0x100000) ((o - 0x400000) % 0x100000)
      else .unmapped
    else if o < 0xC01000 then .gauge c (o - 0xC00000)
    else .unmapped
  else .unmapped

/-- The die an address lies on (R254). -/
def placeDie : Place → Nat
  | .hbm d _ => d
  | .ddr pd _ => 4 + pd
  | .cxl p _ => 4 + p / 4
  | .pool c _ => c / 32
  | .scratch k _ => k / 256
  | .gauge c _ => c / 32
  | .unmapped => 0

end Sys2Proof.Machine
end

