-- ==== Sys2Proof/Machine/Links.lean ====
section
/-!
DEFINITION. What travels on a stitch link: the bytes of messages (R385, R386), their 16-byte units on the active modules (R379),
the credits and the order in which an end sends (R388), and the snoops of the home agents (R263, R264).
-/
namespace Sys2Proof.Machine

/-! ### Messages and units (R379, R385) -/

/-- The 16-byte header of a message. -/
def headerBytes (m : StitchMsg) : Bytes :=
  let h := m.hdr
  leBytes 1 m.type.toNat ++
    leBytes 1 (h.cls.toNat + 4 * boolBit h.coherent + 8 * boolBit h.poisoned + 16 * boolBit h.part) ++
    leBytes 2 h.tag.toNat ++ leBytes 1 (h.src.val + 16 * h.dst.val) ++ leBytes 1 (h.basin.val + 8 * h.pieces.val) ++
    leBytes 1 h.epoch.toNat ++ leBytes 1 h.status.toNat ++ leBytes 8 h.addr.toNat

/-- A message: header, byte enables padded to 16 bytes where it is partial, payload. -/
def messageBytes (m : StitchMsg) : Bytes :=
  headerBytes m ++ (if m.hdr.part then leBytes 8 m.enables.toNat ++ List.replicate 8 0 else []) ++ m.data

/-- The 16-byte units of a message. -/
def messageUnits (m : StitchMsg) : List Bytes :=
  let bs := messageBytes m
  (List.range ((bs.length + 15) / 16)).map (fun i => slice bs (16 * i) 16)

/-- Unit u of a stream on n active modules from `first` on travels on module u mod n of them (R379). -/
def dealUnits (first n : Nat) : Nat → List Bytes → List (Nat × Bytes)
  | _, [] => []
  | u, x :: xs => (first + u % n, x) :: dealUnits first n (u + 1) xs

/-- The receiver takes the units of the stream from the modules in the same turn (R379): `lane m` are the units that module m has
brought, in their order. -/
def restoreUnits (first n : Nat) : Nat → Nat → (Nat → List Bytes) → List Bytes
  | 0, _, _ => []
  | k + 1, u, lane =>
    let m := first + u % n
    match lane m with
    | [] => []
    | x :: xs => x :: restoreUnits first n k (u + 1) (fun i => if i = m then xs else lane i)

/-! ### What a former entry of a check unit left open (R73, R490) -/

/-- A sheet that holds a unit's former entry where the check-units sheet holds it. -/
def formerSheets (u : Nat) (x : FormerCheck) : Sheets := [(14, List.replicate (0x10 + 16 * u) 0 ++ x.entry)]

/-- A former entry has nothing left to complete. -/
def FormerCheck.over (x : FormerCheck) : Bool := x.region == [] && x.results == [] && x.barges == [] && !x.running

/-- Put back what is left of a former entry of a unit. -/
def State.putFormer (s : State) (u : Nat) (old new : FormerCheck) : State :=
  let k := s.check u
  s.setCheck u { k with formers := (k.formers.map (fun x => if x = old then new else x)).filter (fun x => !x.over) }

/-! ### Sending (R388) -/

/-- The end of a link that sends, and putting it back. -/
def Link.side (k : Link) (fromSecond : Bool) : LinkEnd := if fromSecond then k.second else k.first
def Link.setSide (k : Link) (fromSecond : Bool) (e : LinkEnd) : Link := if fromSecond then { k with second := e } else { k with first := e }

/-- Kettle updates, isolation notices and snoop responses use no credits and go ahead of every class. -/
def StitchMsg.ahead (m : StitchMsg) : Bool := m.type == 6 || m.type == 7 || m.type == 8

/-- The class in which a link carries a message: of classes 1 and 2, one that an end does not accept travels in the other
(R381). -/
def Link.carried (k : Link) (c : Nat) : Nat :=
  let accepts := fun (c : Nat) => [k.record0, k.record1].all (fun r => match r with | some b => bitOf (field b 7 1) c | none => true)
  if (c = 1 ∨ c = 2) ∧ !accepts c ∧ accepts (3 - c) then 3 - c else c

def Link.msgClass (k : Link) (m : StitchMsg) : Nat := k.carried m.hdr.cls.toNat

/-- The receive buffer of the far end in units of 16 bytes, from its capability record (R380). Where none was exchanged as a
command, the record of the package's own die holds an open value. Log entry 106. -/
def Link.buffer (k : Link) (l : Nat) (fromSecond : Bool) (c : Nat) : Nat :=
  let e := linkEnds l
  16 * (match (if fromSecond then k.record0 else k.record1) with
    | some r => field r (0xC + c) 1
    | none => 1 + Config.stitchBuffer (if fromSecond then e.1 else e.2) c % 255)

/-- A window entry of a capability record: base and size in units of 16 MiB. -/
def windowEntry (base size : Nat) : Bytes := leBytes 8 (base / 0x1000000 + size / 0x1000000 * 2 ^ 28)

/-- What a die declares: the memory it homes, and its control slice (R380, R254). -/
def ownWindows (d : Nat) : Bytes :=
  (if d < 4 then windowEntry (d * 0x4000000000) 0x3000000000 ++ windowEntry (windowBase + d * 0x20000000) 0x20000000
   else windowEntry (0x40000000000 + (d - 4) * 0x20000000000) 0x20000000000 ++
     windowEntry (0x80000000000 + (d - 4) * 0x40000000000) 0x40000000000) ++
  windowEntry (0xF000000000000 + d * 0x100000000) 0x100000000 ++ windowEntry 0 0

/-- The role of an end of a link (R380). -/
def endRole (l d : Nat) : Nat := if l < 4 then 0 else if 8 ≤ l then 3 else if d < 4 then 1 else 2

/-- The capability record that the end of a link at die d sends (R380); its open values are those of log entry 106. -/
def ownRecord (serial : W64) (l d : Nat) : Bytes :=
  leBytes 2 1 ++ [1, 3, BitVec.ofNat 8 (designWidth l), BitVec.ofNat 8 (endRole l d), BitVec.ofNat 8 d, 0xF, 1, 3] ++
    leBytes 2 (1 + Config.stitchTags d % 4096) ++ (List.range 4).map (fun c => BitVec.ofNat 8 (1 + Config.stitchBuffer d c % 255)) ++
    leBytes 8 serial.toNat ++ List.replicate 8 0 ++ ownWindows d

/-- A link begins to train: each end sends its record on the sideband (R380). -/
def State.trainLink (s : State) (l : Nat) (bad : List Nat) : State :=
  let e := linkEnds l
  ((s.setLink l { Link.reset with st := .training, bad := bad }).emit (.capability l false (ownRecord s.pkg.serial l e.1))).emit
    (.capability l true (ownRecord s.pkg.serial l e.2))

/-- A link begins to run: each end holds the credits of the other's buffer, and its stream begins. -/
def Link.fresh (k : Link) (l : Nat) : Link :=
  let begin_ := fun (second : Bool) => { k.side second with unit := 0, credits := (List.range 4).map (k.buffer l second) }
  { k with first := begin_ false, second := begin_ true }

/-- A link may send a message now: it runs, holds nothing for a retrain, and one to a returning die carries class 3 only
(R391, R394). -/
def Link.open_ (k : Link) (m : StitchMsg) : Bool := k.st.carries && !k.held && (!k.class3Only || k.msgClass m == 3)

/-- The first waiting message of a class, where its credits cover all of it. -/
def Link.head (k : Link) (fromSecond : Bool) (c : Nat) : Option StitchMsg :=
  ((k.side fromSecond).waiting.find? (fun m => !m.ahead && k.msgClass m == c)).filter
    (fun m => k.open_ m && decide ((messageUnits m).length ≤ (k.side fromSecond).credits.getD c 0))

/-- The next message of an end: one that goes ahead, else the class whose turn it is (R271). -/
def Link.next (k : Link) (fromSecond : Bool) : Option StitchMsg :=
  match (k.side fromSecond).waiting.find? (fun m => m.ahead && k.st.carries && !k.held && !k.class3Only) with
  | some m => some m
  | none => ((k.side fromSecond).shares.turn (fun c => (k.head fromSecond c).map (fun m => (messageUnits m).length))).bind
      (k.head fromSecond)

/-- A message of a link counts in the open interval of the units of a mode that watch its class there (R482, R485).
Log entry 89. -/
def State.watchLink (s : State) (mode d l : Nat) (m : StitchMsg) : State :=
  if m.ahead then s
  else s.forEach ((List.range 72).filter (fun u => checkDie u == d)) (fun s u =>
    let k := s.check u
    let watches := fun (t : Sheets) => chkMode t u == mode && chkTarget t u == l && chkClass t u == (s.link l).msgClass m
    match k.formers.find? (fun x => x.running) with
    | some x => if watches (formerSheets u x) then s.putFormer u x { x with region := x.region ++ messageBytes m } else s
    | none => if watches (s.die d).active then s.setCheck u { k with region := k.region ++ messageBytes m } else s)

/-- A message leaves an end: its units go out on the active modules, and its credits are spent. -/
def State.sendUnits (s : State) (l : Nat) (fromSecond : Bool) (m : StitchMsg) : State :=
  let k := s.link l
  let e := k.side fromSecond
  let us := messageUnits m
  let c := k.msgClass m
  let e' := { e with
    unit := e.unit + us.length, waiting := e.waiting.erase m
    credits := if m.ahead then e.credits else e.credits.set c (e.credits.getD c 0 - us.length)
    shares := if m.ahead then e.shares
      else e.shares.account (fun c => e.waiting.any (fun x => !x.ahead && k.msgClass x == c)) c us.length }
  let s := s.watchLink 3 (if fromSecond then (linkEnds l).2 else (linkEnds l).1) l m
  (s.setLink l (k.setSide fromSecond e')).emit (.units l fromSecond (dealUnits k.firstModule (max 1 k.width) e.unit us))

/-- An end sends what it can, up to n messages. -/
def State.linkFuel (l : Nat) (fromSecond : Bool) : Nat → State → State
  | 0, s => s
  | n + 1, s =>
    match (s.link l).next fromSecond with
    | none => s
    | some m => State.linkFuel l fromSecond n (s.sendUnits l fromSecond m)

/-- Both ends of a link send what they can. -/
def State.pumpLink (s : State) (l : Nat) : State :=
  let s := State.linkFuel l false (s.link l).first.waiting.length s
  State.linkFuel l true (s.link l).second.waiting.length s

/-- A die gives a message to the link to a neighbour; a link that is down takes none (R393). -/
def State.sendOver (s : State) (d next : Nat) (m : StitchMsg) : State :=
  match linkBetween d next with
  | none => s
  | some l =>
    let second := (linkEnds l).1 != d
    let e := (s.link l).side second
    if !(s.link l).st.carries then s
    else (s.setLink l ((s.link l).setSide second { e with waiting := e.waiting ++ [m] })).pumpLink l

/-- A message goes from a die towards its destination; none where no route stands. A new transaction of a pair whose alternate
path drains waits for the drain (R394). -/
def State.sendToward (s : State) (d : Nat) (m : StitchMsg) : State :=
  if d = m.hdr.src ∧ m.type ≠ 3 ∧ m.type ≠ 6 ∧ s.draining.contains (m.hdr.src.val, m.hdr.dst.val) then
    { s with drainWait := s.drainWait ++ [m] }
  else
  let n := s.nextDie d m.hdr.dst
  if n = 0xFF ∨ n = d then s else s.sendOver d n m

/-- A message has reached die d and left its receive buffer: the units that watch the link count it, and the end over which
it came has its credits again (R388, R482). -/
def State.received (s : State) (d : Nat) (m : StitchMsg) : State :=
  let path := m.hdr.src.val :: ((s.route m.hdr.src m.hdr.dst).getD [])
  match (path.zip (path.drop 1)).find? (fun p => p.2 == d) with
  | none => s
  | some p => match linkBetween p.1 d with
    | none => s
    | some l =>
      let second := (linkEnds l).1 != p.1
      let k := s.link l
      let c := k.msgClass m
      let e := k.side second
      if m.ahead then s
      else
        let e := { e with credits := e.credits.set c (min (k.buffer l second c) (e.credits.getD c 0 + (messageUnits m).length)) }
        ((s.watchLink 4 d l m).setLink l (k.setSide second e)).pumpLink l

/-- A header without effect, from one die to another. -/
def plainHdr (src dst : Nat) : StitchHdr :=
  { cls := 0, coherent := false, poisoned := false, part := false, tag := 0, src := Fin.ofNat 6 src, dst := Fin.ofNat 6 dst
    basin := 0, pieces := 0, epoch := 0, status := 0, addr := 0 }

/-- The code of a snoop (R386). -/
def snoopCode (k : SnoopKind) : Nat := match k with | .invalidate => 0 | .downgrade => 1 | .recall => 2

/-- The home agent of an HBM line sends a snoop to a processor die; a directory on that die itself needs no message.
Log entry 106. -/
def State.sendSnoop (s : State) (line die : Nat) (kind : SnoopKind) : State :=
  let home := placeDie (placeOf (64 * line))
  if 4 ≤ home then s
  else s.sendToward home ⟨5, { plainHdr home die with status := BitVec.ofNat 8 (snoopCode kind), addr := BitVec.ofNat 52 (64 * line) }, 0, []⟩

/-! ### Snoops (R263, R264) -/

/-- The home agent of a line snoops one holder: the message goes out, a dirty line is written back, the filter follows.
Log entry 63. -/
def State.snoopHolder (s : State) (kind : SnoopKind) (h : Nat × Nat) : State :=
  let s := s.sendSnoop h.1 h.2 kind
  let r := s.surrender h.1 h.2 kind
  let s := match r.2 with
    | some e => r.1.writeBack e
    | none => r.1
  match kind with
  | .downgrade => s
  | _ => { s with snoopLines := s.snoopLines.erase h }

/-- A coherent write leaves no Dalpa copy of a line: the home agent asks its holders to give it up. Log entry 63. -/
def State.invalidateLine (s : State) (line : Nat) : State :=
  let t := s.forEach (s.snoopLines.filter (fun e => e.1 == line)) (fun s h => s.snoopHolder .invalidate h)
  { t with snoopLines := t.snoopLines.filter (fun e => e.1 != line) }

/-- A coherent read sees what the harts have stored: the holders of a line write it back and keep it clean. Log entry 63. -/
def State.downgradeLine (s : State) (line : Nat) : State :=
  s.forEach (s.snoopLines.filter (fun e => e.1 == line)) (fun s h => s.snoopHolder .downgrade h)

/-- A byte as a coherent reader sees it: a dirty copy's, else the memory's. -/
def State.coherentByte (s : State) (a : Nat) : Byte :=
  match s.caches.find? (fun e => e.line == a / 64 && e.dirty) with
  | some e => e.data.getD (a % 64) 0
  | none => s.byte a

/-- n bytes from an address on, read coherently. -/
def State.coherentBytes (s : State) (a n : Nat) : Bytes := (List.range n).map (fun i => s.coherentByte (a + i))

end Sys2Proof.Machine
end

