-- ==== Sys2Proof/Machine/Access.lean ====
section
/-!
DEFINITION. Memory as the units of the package reach it: the physical map (R254-R257), what is unmapped and what absent
(R258), basin addresses and their translation (R259-R261), poison (R283), reads and writes of a basin's memory, the
completion records of work rings (R419) and the three run logs (R475).
-/
namespace Sys2Proof.Machine

/-- The sheets the head keeper holds active; the package-level rules read these. -/
def State.sheets (s : State) : Sheets := (s.die s.pkg.head).active

/-- The sheets that the blocks of a die read: its own keeper's active copies (R71). -/
def State.sheetsOn (s : State) (d : Nat) : Sheets := (s.die d).active

/-! ### What is present -/

/-- A die in service, not isolated, its clocks running (R37, R26, R50). -/
def State.dieIn (s : State) (d : Nat) : Bool := (s.die d).inService && !(s.die d).isolated && !(s.die d).stopped

/-- A power domain is on (R41). -/
def State.domainOn (s : State) (n : Nat) : Bool := s.pkg.domains.getD n false

/-- The physical cluster of a logical cluster in the live map; 0xFF when absent (R31). -/
def State.physCluster (s : State) (c : Nat) : Nat := (s.die (c / 32)).map.getD (c % 32) 0xFF

/-- The window of a logical cluster answers: the cluster is not absent and not held in reset, its die not lost (R258). -/
def State.clusterPresent (s : State) (c : Nat) : Bool :=
  s.dieIn (c / 32) && s.physCluster c != 0xFF && !(s.cluster c).fenced

/-- The HBM of a die answers: the die is not lost, its MEM domain is on, and no fence holds it (R258, R42). Log entry 81. -/
def State.hbmPresent (s : State) (d : Nat) : Bool := s.dieIn d && s.domainOn (6 * d + 5)

/-- The DDR groups of R256: an offset of a processor die's DDR answers when each channel of its group trained and holds
a DIMM, and the offset lies within the group's usable size. Log entry 81. -/
def State.ddrPresent (s : State) (pd off : Nat) : Bool :=
  let n := mapWidth (s.sheetsOn (4 + pd)) pd
  let slot := off / 0x4000000000
  let first := slot / n * n
  let chans := (List.range n).map (fun i => 8 * pd + first + i)
  let caps := chans.map (fun c => s.dimms.getD c 0)
  let small := caps.foldl min 0x100
  s.dieIn (4 + pd) && chans.all (fun c => !bitOf s.ddrFailed c) &&
    decide (off - first * 0x4000000000 < n * small * 0x40000000)

/-- CXL space answers up to the device's capacity while the link is up and no zero-fill holds the range (R258, R424, R97).
Log entry 59. -/
def State.cxlPresent (s : State) (p off : Nat) : Bool :=
  let gib := 0x2000 + 1024 * p + off / 0x40000000
  s.dieIn (4 + p / 4) && (s.cxlPort p).present && decide (off < (s.cxlPort p).gib * 0x40000000) &&
    s.cxlFresh.all (fun e => e.2 != gib) &&
    s.cxlFilling.all (fun i => !(decide ((mapRange s.sheets i).first ≤ gib) &&
      decide (gib < (mapRange s.sheets i).first + (mapRange s.sheets i).count)))

/-- How the package answers an access to a physical address. -/
inductive AccStat where
  | ok | unmapped | absent
  deriving DecidableEq, Repr

/-- Unmapped addresses fail; absent ones complete with the absent status (R258). -/
def State.accStat (s : State) (pa : Nat) : AccStat :=
  let p := fun b => if b then AccStat.ok else AccStat.absent
  match placeOf pa with
  | .hbm d _ => p (s.hbmPresent d)
  | .ddr pd off => p (s.ddrPresent pd off)
  | .cxl q off => p (s.cxlPresent q off)
  | .pool c _ => p (s.clusterPresent c)
  | .scratch k _ => p (s.clusterPresent (k / 8))
  | .gauge c _ => p (s.clusterPresent c)
  | .unmapped => .unmapped

/-- The first physical address of a core's scratchpad, cluster pool and gauge file (R257). -/
def scratchBase (core : Nat) : Nat := windowBase + core / 8 * 0x1000000 + 0x400000 + core % 8 * 0x100000
def poolBase (c : Nat) : Nat := windowBase + c * 0x1000000
def gaugeBase (c : Nat) : Nat := windowBase + c * 0x1000000 + 0xC00000

/-! ### Translation (R259-R261); a failure is its detail of R285 -/

/-- The die of a unit that reaches basin memory: clusters 0-127, endpoint segments from 128 on, the sluices from 160 on. -/
def unitDie (u : Nat) : Nat := if u < 128 then u / 32 else if u < 160 then 4 + (u - 128) / 16 else u - 160

/-- The unit that stands for a die where it caches no translation: its sluice, its root ports. -/
def dieUnit (d : Nat) : Option Nat := some (160 + d)

/-- The die of an address can be reached from a unit (R26); `none` is a unit whose place the spec does not name. -/
def State.reachable (s : State) (u : Option Nat) (pa : Nat) : Bool :=
  match u with
  | none => true
  | some n => s.joined (unitDie n) (placeDie (placeOf pa))

/-- How the package answers a unit's access to a physical address: with no route left the status is absent (R26, R258). -/
def State.statFor (s : State) (u : Option Nat) (pa : Nat) : AccStat :=
  match s.accStat pa with
  | .ok => if s.reachable u pa then .ok else .absent
  | x => x

/-- The sheets a unit reads; those of the head keeper for a unit whose place the spec does not name. -/
def State.sheetsFor (s : State) (u : Option Nat) : Sheets :=
  match u with
  | none => s.sheets
  | some n => s.sheetsOn (unitDie n)

/-- One table entry, read coherently by a unit; the table must lie in the basin's ranges. -/
def State.tableEntryFrom (s : State) (u : Option Nat) (b pa : Nat) : Except Nat Nat :=
  if !inBasinRanges (s.sheetsFor u) b pa then .error 0x08
  else match s.statFor u pa with
    | .unmapped => .error 0x05
    | .absent => .error 0x09
    | .ok => if s.poisoned pa then .error 0x0A else .ok (leValue (s.coherentBytes pa 8))

/-- A leaf that maps a page of 2^k bytes: alignment, permission, and the page inside the basin's ranges. -/
def leafAddress (t : Sheets) (b k e va : Nat) (write : Bool) : Except Nat Nat :=
  let base := bitsOf e 51 12 * 4096
  if base % 2 ^ k ≠ 0 then .error 0x06
  else if !(if write then bitOf e 3 else bitOf e 2) then .error 0x07
  else if !(inBasinRanges t b base && inBasinRanges t b (base + 2 ^ k - 1)) then .error 0x08
  else .ok (base + va % 2 ^ k)

/-- V clear, or a reserved bit set (R260). -/
def entryBad (e : Nat) : Bool := !bitOf e 0 || bitsOf e 63 52 != 0 || bitsOf e 11 4 != 0

/-- The leaf entry that maps a basin address, with the log2 of its page size, as a unit walks to it (R260, R261). -/
def State.leafFrom (s : State) (u : Option Nat) (b : Nat) (va : Nat) : Except Nat (Nat × Nat) :=
  match (s.basin b).root with
  | none => .error 0x06
  | some root =>
    match s.tableEntryFrom u b (root.toNat + 8 * bitsOf va 46 30) with
    | .error d => .error d
    | .ok e1 =>
      if entryBad e1 then .error 0x06
      else if bitOf e1 1 then .ok (30, e1)
      else if bitsOf e1 3 2 ≠ 0 then .error 0x06
      else match s.tableEntryFrom u b (bitsOf e1 51 12 * 4096 + 8 * bitsOf va 29 21) with
        | .error d => .error d
        | .ok e2 =>
          if entryBad e2 then .error 0x06
          else if bitOf e2 1 then .ok (21, e2)
          else if bitsOf e2 3 2 ≠ 0 then .error 0x06
          else match s.tableEntryFrom u b (bitsOf e2 51 12 * 4096 + 8 * bitsOf va 20 16) with
            | .error d => .error d
            | .ok e3 => if entryBad e3 || !bitOf e3 1 then .error 0x06 else .ok (16, e3)

/-- The leaf entry that maps a basin address. -/
def State.leafOf (s : State) (b : Nat) (va : Nat) : Except Nat (Nat × Nat) := s.leafFrom none b va

/-- The walk of a basin's tables by a unit (R260, R261). Log entry 13. -/
def State.walk (s : State) (u : Option Nat) (b : Nat) (write : Bool) (va : Nat) : Except Nat Nat :=
  match s.leafFrom u b va with
  | .error d => .error d
  | .ok l => leafAddress (s.sheetsFor u) b l.1 l.2 va write

/-- The physical address of a basin address for a unit: window space needs the cluster to be owned, the rest is translated
(R259). -/
def State.translateFrom (s : State) (u : Option Nat) (b : Nat) (write : Bool) (va : Nat) : Except Nat Nat :=
  if 2 ^ 48 ≤ va then .error 0x05
  else if 2 ^ 47 ≤ va then
    let o := va - 2 ^ 47
    if 0x80000000 ≤ o ∨ !bsnHasCluster (s.sheetsFor u) b (o / 0x1000000) then .error 0x05 else .ok (windowBase + o)
  else s.walk u b write va

/-- The physical address of a basin address. -/
def State.translate (s : State) (b : Nat) (write : Bool) (va : Nat) : Except Nat Nat := s.translateFrom none b write va

/-- How the place that a translation names answers a unit (R258, R26). -/
def State.answersTo (s : State) (u : Option Nat) (r : Except Nat Nat) : Except Nat Nat :=
  match r with
  | .error d => .error d
  | .ok pa =>
    match s.statFor u pa with
    | .ok => .ok pa
    | .unmapped => .error 0x05
    | .absent => .error 0x09

/-- How the place that a translation names answers (R258). -/
def State.answers (s : State) (r : Except Nat Nat) : Except Nat Nat := s.answersTo none r

/-- Translation by a unit, then the state of the address (R258); a basin in reset is fenced from its memory (R459). -/
def State.accessFrom (s : State) (u : Option Nat) (b : Nat) (write : Bool) (va : Nat) : Except Nat Nat :=
  if (s.basin b).st = .resetting then .error 0x09 else s.answersTo u (s.translateFrom u b write va)

/-- An access whose unit the spec does not place. -/
def State.access (s : State) (b : Nat) (write : Bool) (va : Nat) : Except Nat Nat := s.accessFrom none b write va

/-! ### Translation caches (R262) -/

/-- The cached translation of an address in a unit. -/
def State.cached (s : State) (u b va : Nat) : Option CachedLeaf :=
  s.tlb.find? (fun e => e.unit == u && e.basin == b && e.page == va / 2 ^ e.size)

/-- The cached translation an access uses: a table entry changed without a flush is used in its old or in its new form. -/
def State.cacheHit (s : State) (u b va : Nat) : Option CachedLeaf :=
  match s.cached u b va with
  | some e => if Config.cacheUse s.freeCount u (va / 0x10000) then some e else none
  | none => none

/-- A unit that caches translations: a cluster's barge engine or an endpoint segment. -/
def cachesLeaves (u : Nat) : Bool := decide (u < 160)

/-- An access by a unit that may cache translations; `none` is a unit that does not. Log entry 13. -/
def State.accessVia (s : State) (u : Option Nat) (b : Nat) (write : Bool) (va : Nat) : Except Nat Nat :=
  match u with
  | none => s.access b write va
  | some n =>
    if !cachesLeaves n ∨ (s.basin b).st = .resetting ∨ 2 ^ 47 ≤ va then s.accessFrom u b write va
    else match s.cacheHit n b va with
      | some e => s.answersTo u (leafAddress (s.sheetsFor u) b e.size e.leaf va write)
      | none => s.accessFrom u b write va

/-- A cached translation is dropped. -/
def State.dropLeaf (s : State) (e : CachedLeaf) : State := { s with tlb := s.tlb.erase e }

/-- Put a translation into a unit's cache, which holds at most 2,048. Log entry 13. -/
def State.keepLeaf (s : State) (e : CachedLeaf) : State :=
  let mine := s.tlb.filter (fun x => x.unit == e.unit && !(x.basin == e.basin && x.page == e.page && x.size == e.size))
  { s with tlb := e :: mine.take 2047 ++ s.tlb.filter (fun x => x.unit != e.unit) }

/-- What a unit's cache holds after an access: the translation just read, or the older one it still uses. Log entry 13. -/
def State.learn (s : State) (u : Option Nat) (b va : Nat) : State :=
  match u with
  | none => s
  | some n =>
    if !cachesLeaves n ∨ (s.basin b).st = .resetting ∨ 2 ^ 47 ≤ va then s
    else match s.leafFrom u b va, s.cached n b va with
      | .error _, none => s
      | .error _, some _ => s.free.2
      | .ok l, none => s.keepLeaf ⟨n, b, va / 2 ^ l.1, l.1, l.2⟩
      | .ok l, some e =>
        if e.size = l.1 ∧ e.leaf = l.2 then s
        else if (s.cacheHit n b va).isSome then s.free.2
        else ((s.dropLeaf e).keepLeaf ⟨n, b, va / 2 ^ l.1, l.1, l.2⟩).free.2

/-- What a unit's cache holds after an access to a range. -/
def State.learnRange (s : State) (u : Option Nat) (b va n : Nat) : State :=
  s.forEach (List.range (if n = 0 then 0 else (va % 0x10000 + n - 1) / 0x10000 + 1)) (fun s i => s.learn u b (va + 0x10000 * i))

/-- A unit's cache is empty. -/
def State.emptyCache (s : State) (u : Nat) : State := { s with tlb := s.tlb.filter (fun e => e.unit != u) }

/-- No unit caches a translation of a basin. -/
def State.flushBasin (s : State) (b : Nat) : State := { s with tlb := s.tlb.filter (fun e => e.basin != b) }

/-- Store bytes that lie in one 64-byte piece; a whole piece clears its poison (R283). -/
def State.storePiece (s : State) (pa : Nat) (bs : Bytes) : State :=
  let t := (s.touch pa).writeBytes pa bs
  if pa % 64 = 0 ∧ bs.length = 64 then t.clearPoison (pa / 64) else t

/-- The bytes from here to the next 64-byte boundary, at most n. -/
def pieceLen (a n : Nat) : Nat := min n (64 - a % 64)

/-- Write at most the rest of a piece coherently: no Dalpa copy of the line stays (R264). -/
def State.storeCoherent (s : State) (pa : Nat) (bs : Bytes) : State := (s.invalidateLine (pa / 64)).storePiece pa bs

/-- Write bytes from a physical address on, piece by piece; `fuel` bounds their number. -/
def State.storeRange : Nat → State → Nat → Bytes → State
  | 0, s, _, _ => s
  | f + 1, s, pa, bs =>
    if bs = [] then s
    else
      let n := pieceLen pa bs.length
      State.storeRange f (s.storeCoherent pa (bs.take n)) (pa + n) (bs.drop n)

/-- Before a coherent read of a range the Dalpa caches write its lines back (R264). -/
def State.cohere (s : State) (u : Option Nat) (b va n : Nat) : State :=
  s.forEach (List.range (if n = 0 then 0 else (va % 64 + n - 1) / 64 + 1)) (fun s i =>
    match s.accessVia u b false (va / 64 * 64 + 64 * i) with
    | .ok pa => (s.touch pa).downgradeLine (pa / 64)
    | .error _ => s)

/-- Read a basin's memory, piece by piece; the first failure gives its detail. -/
def State.readFuel (s : State) (u : Option Nat) (b : Nat) : Nat → Nat → Nat → Except Nat Bytes
  | 0, _, _ => .ok []
  | f + 1, va, n =>
    if n = 0 then .ok []
    else match s.accessVia u b false va with
      | .error d => .error d
      | .ok pa =>
        if s.poisoned pa then .error 0x0A
        else match State.readFuel s u b f (va + pieceLen va n) (n - pieceLen va n) with
          | .error d => .error d
          | .ok rest => .ok (s.readBytes pa (pieceLen va n) ++ rest)

/-- A read by a unit that may cache translations. -/
def State.readVia (s : State) (u : Option Nat) (b va n : Nat) : Except Nat Bytes := s.readFuel u b (n / 64 + 2) va n

/-- A read by a unit that caches none. Log entry 13. -/
def State.basinRead (s : State) (b va n : Nat) : Except Nat Bytes := s.readVia none b va n

/-- Write a basin's memory, piece by piece: the state, and the detail of the first failure. Pieces before it stay written. -/
def State.writeFuel (b : Nat) : Nat → State → Nat → Bytes → State × Option Nat
  | 0, s, _, _ => (s, none)
  | f + 1, s, va, bs =>
    if bs = [] then (s, none)
    else match s.access b true va with
      | .error d => (s, some d)
      | .ok pa =>
        State.writeFuel b f (s.storeCoherent pa (bs.take (pieceLen va bs.length))) (va + pieceLen va bs.length)
          (bs.drop (pieceLen va bs.length))

/-- Log entry 13. -/
def State.basinWrite (s : State) (b va : Nat) (bs : Bytes) : State × Option Nat :=
  State.writeFuel b (bs.length / 64 + 2) s va bs

/-! ### Completion records (R417, R419) -/

/-- What a completion record says beside its entry. -/
structure Completion where
  status : Nat
  code : Nat
  ctag : W16
  halt : W16
  extra : Nat
  deriving DecidableEq, Repr

def Completion.done (extra : Nat) : Completion := ⟨0, 0, 0, 0, extra⟩
def Completion.refused (code : Nat) : Completion := ⟨1, code, 0, 0, 0⟩

/-- The 32 bytes of a completion record (R419). -/
def completionBytes (r : RingRef) (c : Completion) (time : W64) : Bytes :=
  leBytes 4 r.tag.toNat ++ leBytes 4 r.index.toNat ++ leBytes 1 r.type.toNat ++ leBytes 1 c.status ++ leBytes 2 c.code ++
    leBytes 2 c.ctag.toNat ++ leBytes 2 c.halt.toNat ++ leBytes 8 time.toNat ++ leBytes 8 c.extra

/-- Write an entry's completion record, then the producer index, then the interrupt (R406, R419). An entry of a ring
that a reset has closed has no record. Log entry 30. -/
def State.complete (s : State) (r : RingRef) (c : Completion) : State :=
  let k := s.ring r.basin r.ring
  if k.count = 0 ∨ !k.taken.contains r then s
  else
    let slot := k.completion.toNat + 32 * (k.cplProd.toNat % k.count)
    let t := (s.basinWrite r.basin slot (completionBytes r c (s.time s.pkg.head))).1
    let k := t.ring r.basin r.ring
    let t := t.setRing r.basin r.ring { k with cplProd := k.cplProd + 1, taken := k.taken.erase r }
    if bitOf r.flags.toNat 1 then t.vector r.basin (2 + r.ring) else t

/-! ### Run logs (R475-R478) -/

/-- The three run logs of a basin. -/
inductive LogKind where
  | phase | numeric | summary
  deriving DecidableEq, Repr

def LogKind.enabled (k : LogKind) (t : Sheets) (b : Nat) : Bool :=
  match k with
  | .phase => telPhase t b
  | .numeric => telNumeric t b
  | .summary => telSummary t b

def LogKind.slot : LogKind → Nat
  | .phase => 32
  | .numeric => 32
  | .summary => 2048

/-- The size of a log in bytes. -/
def LogKind.size (k : LogKind) (t : Sheets) (b : Nat) : Nat :=
  match k with
  | .phase => telPhaseMib t b * 0x100000
  | .numeric => telNumericMib t b * 0x100000
  | .summary => telSummaryMib t b * 0x100000

/-- Where a log begins: phase log, numeric log, summaries, in that order from the start of the area. -/
def LogKind.base (k : LogKind) (t : Sheets) (b : Nat) : Nat :=
  telFirst t b * 0x40000000 +
    match k with
    | .phase => 0
    | .numeric => telPhaseMib t b * 0x100000
    | .summary => (telPhaseMib t b + telNumericMib t b) * 0x100000

def Basin.runLog (k : Basin) : LogKind → RunLog
  | .phase => k.phaseLog
  | .numeric => k.numLog
  | .summary => k.sumLog

def Basin.setRunLog (k : Basin) (l : LogKind) (v : RunLog) : Basin :=
  match l with
  | .phase => { k with phaseLog := v }
  | .numeric => { k with numLog := v }
  | .summary => { k with sumLog := v }

/-- Write an entry into a run log: a disabled log takes nothing, a full or absent one counts the loss (R475). The Bool
says whether the entry was lost. -/
def State.logWrite (s : State) (b : Nat) (k : LogKind) (entry : Bytes) : State × Bool :=
  let t := s.sheets
  let l := (s.basin b).runLog k
  let cap := k.size t b / k.slot
  if !k.enabled t b ∨ cap = 0 then (s, false)
  else
    let slot := k.base t b + k.slot * (l.head.toNat % cap)
    if (l.head - l.tail).toNat = cap ∨ s.accStat slot ≠ .ok then
      (s.setBasin b ((s.basin b).setRunLog k { l with lost := satCount (l.lost + 1) }), true)
    else
      let s' := State.storeRange (entry.length / 64 + 2) s slot entry
      (s'.setBasin b ((s'.basin b).setRunLog k { l with head := l.head + 1 }), false)

/-- A numeric event (R180, R250, R344) as an entry of the numeric log (R478). -/
structure NumEvent where
  kind : Nat
  source : Nat
  unit : Nat
  index : Nat
  flags : Nat
  gauge : Nat
  step : W64
  die : Nat
  payload : Nat
  deriving DecidableEq, Repr

def numEventBytes (e : NumEvent) (time : W64) : Bytes :=
  leBytes 1 e.kind ++ leBytes 1 e.source ++ leBytes 2 e.unit ++ leBytes 2 e.index ++ leBytes 1 e.flags ++
    leBytes 1 e.gauge ++ leBytes 8 e.step.toNat ++ leBytes 8 time.toNat ++ leBytes 8 e.payload

/-- Count an event in the open summary of its step (R477). -/
def Summary.count (m : Summary) (e : NumEvent) : Summary :=
  match e.kind with
  | 0x01 => { m with retries := m.retries + 1 }
  | 0x20 => { m with gates := m.gates + 1 }
  | 0x21 => { m with quarantined := m.quarantined + 1 }
  | 0x22 => { m with carried := m.carried + 1, lateSlow := m.lateSlow + e.flags % 2 }
  | 0x23 => { m with dropped := m.dropped + 1, lateSlow := m.lateSlow + e.flags % 2 }
  | _ => m

/-- Write a numeric event of a basin. -/
def State.numEvent (s : State) (b : Nat) (e : NumEvent) : State :=
  let k := s.basin b
  let s := s.setBasin b { k with summaries := k.summaries.map (fun m => if m.step = e.step then m.count e else m) }
  (s.logWrite b .numeric (numEventBytes e (s.time e.die))).1

end Sys2Proof.Machine
end

