-- ==== Sys2Proof/Machine/Checks.lean ====
section
/-!
DEFINITION. Check units (R482-R488): the comparison of a framed region, the alive counter, and the records it writes.
-/
namespace Sys2Proof.Machine

/-- The CRC of an algorithm code over bytes (R483), a CRC-32C in the low half. -/
def crcOf (algorithm : Nat) (bs : Bytes) : W64 := if algorithm = 0 then (crc32c bs).setWidth 64 else crc64 bs

/-- Add one to a counter of CHK_COUNT: 0 regions checked, 1 CRC mismatches, 2 duplicates, 3 gaps, 4 unframed, 5 partner
missing, 6 records lost, 7 regions not compared. -/
def CheckUnit.bump (u : CheckUnit) (i : Nat) : CheckUnit :=
  { u with counts := u.counts.set i (satCount (u.counts.getD i 0 + 1)) }

/-- Write a record: the queue holds eight unread ones, a further one is lost; the keeper is interrupted, the owner of the
unit hears of it (R488), and the tray controller of a stitch-mode mismatch (R481). Log entry 65. -/
def State.checkRecord (s : State) (u : Nat) (r : CheckRec) : State :=
  let k := (s.check u).bump r.kind
  let k := if 8 ≤ k.records.length then k.bump 6 else { k with records := k.records ++ [r] }
  let s := s.setCheck u k
  let s := s.emit (.checkIrq u)
  let s := if r.mode = 3 ∨ r.mode = 4 then s.emit (.pldmCheck u) else s
  if r.basin < 8 then s.setErr r.basin errCheck else s

/-- What a unit compares: target, received alive counter when the mode has one, bucket, and both CRCs. -/
structure Framed where
  target : Nat
  alive : Option W16
  bucket : W32
  computed : W64
  expected : W64
  deriving DecidableEq, Repr

/-- The record of a kind about a framed region at a unit, by the entry it completes under. -/
def State.frameRecord (s : State) (t : Sheets) (u kind : Nat) (f : Framed) (expectAlive : W16) : CheckRec :=
  let mode := chkMode t u
  { kind := kind, mode := mode, unit := u, target := BitVec.ofNat 16 f.target, received := f.alive.getD 0,
    expected := expectAlive, basin := if mode = 3 ∨ mode = 4 then 0xFF else chkBasin t u,
    algorithm := if mode = 6 ∨ mode = 7 then 0 else chkAlgorithm t u, bucket := f.bucket,
    computed := f.computed, expectedCrc := f.expected, timebase := s.time (checkDie u) }

/-- The alive counter's verdict (R486): 0 correct, else the record's kind; and the next expected value. -/
def aliveVerdict (x c : W16) : Nat × W16 :=
  if c = x then (0, c + 1) else if (c - x).toNat ≤ 32767 then (3, c + 1) else (2, x)

/-- Compare a framed region: counter first, CRC second, one region checked (R486); and the next expected counter. -/
def State.compareAs (s : State) (t : Sheets) (u : Nat) (x : W16) (f : Framed) : State × W16 :=
  let s := s.setCheck u ((s.check u).bump 0)
  let v := match f.alive with | some c => aliveVerdict x c | none => (0, x)
  let x := if f.alive.isSome then x else 0
  let s := if v.1 = 0 then s else s.checkRecord u (s.frameRecord t u v.1 f x)
  (if f.computed = f.expected then s else s.checkRecord u (s.frameRecord t u 1 f x), v.2)

/-- Compare a framed region under the unit's entry. -/
def State.compareFrame (s : State) (u : Nat) (f : Framed) : State :=
  let r := s.compareAs (s.sheetsOn (checkDie u)) u (nget (fun _ => 0) (s.check u).expected f.target) f
  let k := r.1.check u
  r.1.setCheck u { k with expected := nset (fun _ => 0) k.expected f.target r.2 }

/-- An unframed region (R484, R486). -/
def State.unframedAs (s : State) (t : Sheets) (u target : Nat) : State :=
  s.checkRecord u (s.frameRecord t u 4 ⟨target, none, 0, 0, 0⟩ 0)

/-- An unframed region under the unit's entry. -/
def State.unframed (s : State) (u target : Nat) : State := s.unframedAs (s.sheetsOn (checkDie u)) u target

/-- Compare a framed region that completes under a former entry, which then has `next` left. -/
def State.compareFormer (s : State) (u : Nat) (old next : FormerCheck) (f : Framed) : State :=
  let r := s.compareAs (formerSheets u old) u (nget (fun _ => 0) old.expected f.target) f
  r.1.putFormer u old { next with expected := nset (fun _ => 0) next.expected f.target r.2 }

/-! ### Barges (R487) -/

/-- The former entry of a unit under which a barge in flight completes. -/
def State.formerBarge (s : State) (u basin : Nat) (d : Desc) : Option FormerCheck :=
  (s.check u).formers.find? (fun x => x.barges.contains (basin, d))

/-- A completed barge whose check frame names local unit n of its engine's die (R273, R486, R487). -/
def State.checkBarge (s : State) (basin die : Nat) (d : Desc) (data : Bytes) : State :=
  let u := die * 16 + d.unit.toNat
  let f : Framed := ⟨d.flow.toNat, some d.alive, 0, crcOf d.algorithm.toNat data, d.expected⟩
  let former := if 16 ≤ d.unit.toNat then none else s.formerBarge u basin d
  let t := match former with | some x => formerSheets u x | none => s.sheetsOn die
  if 16 ≤ d.unit.toNat ∨ chkMode t u ≠ 5 ∨ chkBasin t u ≠ basin then s.setErr basin errCheckMisuse
  else match former with
    | some x =>
      let next := { x with barges := x.barges.erase (basin, d) }
      if 255 < d.flow.toNat ∨ d.algorithm.toNat ≠ chkAlgorithm t u then (s.unframedAs t u d.flow.toNat).putFormer u x next
      else s.compareFormer u x next f
    | none =>
      if 255 < d.flow.toNat ∨ d.algorithm.toNat ≠ chkAlgorithm t u then s.unframed u d.flow.toNat
      else s.compareFrame u f

/-- A failed barge is not compared (R486). -/
def State.skipBarge (s : State) (basin die : Nat) (d : Desc) : State :=
  let u := die * 16 + d.unit.toNat
  let former := if 16 ≤ d.unit.toNat then none else s.formerBarge u basin d
  let t := match former with | some x => formerSheets u x | none => s.sheetsOn die
  if 16 ≤ d.unit.toNat ∨ chkMode t u ≠ 5 ∨ chkBasin t u ≠ basin then s
  else
    let s := s.setCheck u ((s.check u).bump 7)
    match former with
    | some x => s.putFormer u x { x with barges := x.barges.erase (basin, d) }
    | none => s

/-- A link left ACTIVE: the intervals of its stitch-mode units end, and start at 0 when it returns (R485). Log entry 64. -/
def State.restartChecks (s : State) (l : Nat) : State :=
  s.forEach (List.range 72) (fun s u =>
    let t := s.sheetsOn (checkDie u)
    let on := fun (t : Sheets) => (chkMode t u == 3 || chkMode t u == 4) && chkTarget t u == l
    let k := s.check u
    let k := { k with formers := k.formers.filter (fun x => !on (formerSheets u x)) }
    s.setCheck u (if on t then { k with interval := 0, region := [], results := [], expected := [] } else k))

end Sys2Proof.Machine
end

