-- ==== Sys2Proof/Machine/Credits.lean ====
section
/-!
DEFINITION. Draw credits, in sixteenths of a credit: refills (R433), the payment of charges from a core's reservation and
its cluster's unreserved balance (R211), the tier 2 test (R272), and the counting of waits (R122, R434).
-/
namespace Sys2Proof.Machine

/-- The refill of a metered unit in sixteenths of a credit (R433). -/
def refill16 (allotMa scale ramp : Nat) : Nat := allotMa * 16 * scale * ramp / (256 * 8)

/-- The refill of a logical cluster at its present scale and ramp level; none while it holds no allotment. -/
def State.refill (s : State) (k : Nat) : Nat :=
  if (s.cluster k).granted then refill16 (powCluster (s.sheetsOn (k / 32)) k) (s.cluster k).scale (s.cluster k).ramp else 0

/-- A core's share of a refill, in whole credits (R141). -/
def drawShare (refill : Nat) : Nat := refill / 128

/-- What is left to draw on while charges are paid: the reservation, the unreserved balance, and the sum paid. -/
structure Purse where
  res : Nat
  un : Nat
  paid : Nat
  deriving DecidableEq, Repr

/-- Take a sum that the purse covers, from the reservation first (R211). -/
def Purse.take (p : Purse) (sum : Nat) : Purse :=
  if sum ≤ p.res then { p with res := p.res - sum, paid := p.paid + sum }
  else { res := 0, un := p.un - (sum - p.res), paid := p.paid + sum }

/-- How many of n equal charges the purse covers. At tier 2 a beat needs the unreserved balance above a quarter of the
refill (R272). -/
def Purse.covers (p : Purse) (tier2 : Bool) (refill n charge : Nat) : Nat :=
  if charge = 0 then n
  else
    let all := min n ((p.res + p.un) / charge)
    if tier2 then
      let floor := refill / 4 + 1
      if p.un < floor then 0 else min all ((p.res + p.un - floor) / charge + 1)
    else all

/-- What a payment gave: the charges left, the purse, how many units were paid, and whether a unit due was not covered. -/
structure Payment where
  left : List Charge
  purse : Purse
  paid : Nat
  short : Bool
  deriving DecidableEq, Repr

/-- Pay up to n units of a list of charges in order, each whole or not at all (R211). Log entry 18. -/
def payUnits (refill : Nat) : List Charge → Nat → Purse → Payment
  | [], _, p => ⟨[], p, 0, false⟩
  | ch :: rest, n, p =>
    let due := min n ch.units
    let m := p.covers ch.tier2 refill due ch.each
    let p' := p.take (m * ch.each)
    if m < due ∨ due < ch.units then ⟨{ ch with units := ch.units - m } :: rest, p', m, decide (m < due)⟩
    else
      let r := payUnits refill rest (n - due) p'
      { r with paid := m + r.paid }

/-- The units of a list of charges. -/
def unitsLeft (l : List Charge) : Nat := (l.map (fun ch => ch.units)).sum

/-- Charges of one kind; none for no units. -/
def charge (units each cycles : Nat) (tier2 : Bool) : List Charge :=
  if units = 0 then [] else [⟨units, each, cycles, tier2⟩]

/-- The clocks of a core's die run (R50). -/
def State.clocked (s : State) (c : Nat) : Bool := !(s.die (c / 256)).stopped

/-- The purse of a core. -/
def State.purse (s : State) (c : Nat) : Purse := ⟨(s.core c).reservation, (s.cluster (c / 8)).unreserved, 0⟩

/-- Put a core's purse back. -/
def State.setPurse (s : State) (c : Nat) (p : Purse) : State :=
  let cl := s.cluster (c / 8)
  (s.setCore c { s.core c with reservation := p.res }).setCluster (c / 8)
    { cl with unreserved := p.un, charged := cl.charged + p.paid }

/-- STALLS at this moment. -/
def State.stallsNow (s : State) (c : Nat) : Nat :=
  (s.core c).stalls + match (s.core c).stallFrom with | some t => s.now - t | none => 0

/-- An engine of a cluster waits for credits in this lock cycle (R435). -/
def State.markWaited (s : State) (k : Nat) : State := s.setCluster k { s.cluster k with waited := true }

/-- A context whose queues may act: running or draining. -/
def Core.live (k : Core) : Bool := k.ctx == .running || k.ctx == .draining

/-- Split a list before the first element that meets a condition. -/
def cutAt {α : Type} (p : α → Bool) : List α → List α × List α
  | [] => ([], [])
  | x :: xs => if p x then ([], x :: xs) else (x :: (cutAt p xs).1, (cutAt p xs).2)

/-- One engine pays up to n units of work of the oldest instruction in flight that has any left; a unit that is not covered
waits for a refill (R211, R247, R281). Log entry 18. -/
def State.payEngine (s : State) (c : Nat) (e : Engine) (n : Nat) : State :=
  let k := s.core c
  match cutAt (fun f => f.charges != []) (k.flight.get e) with
  | (_, []) => s
  | (old, f :: rest) =>
    let r := payUnits (s.refill (c / 8)) f.charges n (s.purse c)
    let s := if r.short then s.markWaited (c / 8) else s.endWait (c / 8) f.waitSince
    let s := s.setPurse c r.purse
    let f := { f with charges := r.left, paid := f.paid + r.paid
                      waitSince := if r.short then some (f.waitSince.getD s.now) else none }
    (s.setCore c { s.core c with flight := k.flight.set e (old ++ f :: rest) }).noteStall c

/-- An engine waits for credits. -/
def Core.waitsAt (k : Core) (e : Engine) : Bool := (k.flight.get e).any (fun f => f.waitSince.isSome)

/-- An event that presupposes what the oldest unpaid instruction of an engine has still to be charged: it is paid now, unless
the engine waits for a refill. Log entry 18. -/
def State.catchUp (s : State) (c : Nat) (e : Engine) : State :=
  if (s.core c).waitsAt e then s
  else s.payEngine c e ((((s.core c).flight.get e).map (fun f => unitsLeft f.charges)).foldl (· + ·) 0)

end Sys2Proof.Machine
end

