-- ==== Sys2Proof/Machine/Operands.lean ====
section
/-!
DEFINITION. The fields of an accelerator instruction word: queue and opcode (R14), the sequencer's five formats (R116), and
the check of reserved bits by a mask of the bits an instruction uses.
-/
namespace Sys2Proof.Machine

/-- Bits [63:61]: the queue. -/
def wQueue (w : W64) : Nat := bitsOf w.toNat 63 61
/-- Bits [60:54]: the opcode. -/
def wOp (w : W64) : Nat := bitsOf w.toNat 60 54
/-- Bits [53:49], [48:44], [43:39]: the register fields of formats A to D. -/
def wA (w : W64) : Nat := bitsOf w.toNat 53 49
def wB (w : W64) : Nat := bitsOf w.toNat 48 44
def wC (w : W64) : Nat := bitsOf w.toNat 43 39
/-- imm32 of format B, and the same sign-extended. -/
def wImm32 (w : W64) : Nat := bitsOf w.toNat 43 12
def wSImm32 (w : W64) : W64 := sext64 32 (wImm32 w)
/-- imm48 of format C. -/
def wImm48 (w : W64) : Nat := bitsOf w.toNat 47 0
/-- Target and imm31 of format D. -/
def wTarget (w : W64) : Nat := bitsOf w.toNat 43 31
def wImm31 (w : W64) : Nat := bitsOf w.toNat 30 0
/-- Wait mask, and hold mask (bit 0 the sequencer), of format E. -/
def wWait (w : W64) : Nat := bitsOf w.toNat 53 50
def wHold (w : W64) : Nat := bitsOf w.toNat 49 45

/-- Bits [hi:lo] all set: the place of a field. -/
def fieldMask (hi lo : Nat) : Nat := (2 ^ (hi + 1 - lo) - 1) <<< lo

/-- The queue and opcode bits, used by every instruction. -/
def maskHead : Nat := fieldMask 63 54
/-- The bits format A, B, C, D and E use. -/
def maskA : Nat := fieldMask 63 39
def maskB : Nat := fieldMask 63 12
def maskC : Nat := fieldMask 63 49 ||| fieldMask 47 0
def maskD : Nat := fieldMask 63 0

/-- A bit outside the used ones is set: a non-zero reserved field. -/
def strayBits (w : W64) (used : Nat) : Bool := w.toNat &&& ((2 ^ 64 - 1) ^^^ used) != 0

/-- The signed order of two words. -/
def slt64 (a b : W64) : Bool := decide (a.toInt < b.toInt)

end Sys2Proof.Machine
end

