-- ==== Sys2Proof/Machine/Dispatching.lean ====
section
/-!
DEFINITION. How a sequencer takes its next instruction, goes on after it through loops and retry regions (R121-R138), and
dispatches an instruction to an engine queue (R117, R123); phase marks and step summaries (R144, R476, R477).
-/
namespace Sys2Proof.Machine

/-! ### Fetching -/

/-- What a sequencer finds when it looks for its next instruction. -/
inductive Fetch where
  /-- It issues nothing now: no running context, or it waits (R127, R136, R137, R141). -/
  | held
  /-- The index is at or above the image length (R121). -/
  | past
  /-- The next word. -/
  | word (w : W64)
  deriving DecidableEq, Repr

/-- A retry region holds the sequencer: it is complete as dispatched (R136), or an overflow has been reported (R137). -/
def Core.regionHolds (k : Core) : Bool :=
  match k.region with
  | some r => r.finished || r.stopped || r.overflow.isSome
  | none => false

/-- A word of the instruction store. -/
def Core.storeWord (k : Core) (i : Nat) : W64 := nget (fun _ => 0) k.store i

/-- The sequencer's next instruction. Log entry 14. -/
def State.fetch (s : State) (c : Nat) : Fetch :=
  let k := s.core c
  if k.ctx ≠ .running ∨ k.seqWait ≠ .free ∨ k.regionHolds ∨ !s.clocked c then .held
  else if k.len ≤ k.pc then .past
  else .word (k.storeWord k.pc)

/-- A fault found at decode or dispatch, with a detail of R147. -/
def State.precise (s : State) (c detail : Nat) : State := s.enterFault c (0x100 + detail) (s.core c).pc

/-! ### Going on -/

/-- The loops that end at index i, innermost first, down to the outer `floor` levels: one goes back to its start, or each
has run its last iteration and is freed (R131, R132). -/
def goOn (floor : Nat) : List LoopLevel → Nat → List LoopLevel × Option Nat
  | [], _ => ([], none)
  | l :: ls, i =>
    if ls.length < floor then (l :: ls, none)
    else if l.stop = i then
      if 1 < l.remaining then ({ l with remaining := l.remaining - 1, iter := l.iter + 1 } :: ls, some l.start)
      else goOn floor ls i
    else (l :: ls, none)

/-- A queue of the core has completed everything the region dispatched to it. -/
def Core.regionDone (k : Core) (r : Region) : Bool :=
  engines.all (fun e => k.dispatched.get e == r.first.get e || k.completed.get e == k.dispatched.get e)

/-- Close a region whose instructions have all been dispatched and completed; RUNG tells the rung (R122, R136). -/
def Core.closeRegion (k : Core) : Core :=
  match k.region with
  | some r =>
    if r.finished && !r.stopped && r.overflow.isNone && k.regionDone r then
      let g := goOn 0 k.loops r.target
      { k with region := none, rungLast := 1 + r.rung, loops := g.1, pc := g.2.getD (r.target + 1) }
    else k
  | none => k

/-- Go on after the instruction at index i has issued. -/
def Core.after (k : Core) (i : Nat) : Core :=
  match k.region with
  | some r =>
    if i = r.target then
      let g := goOn r.loopDepth k.loops i
      match g.2 with
      | some p => { k with loops := g.1, pc := p }
      | none => Core.closeRegion { k with loops := g.1, pc := i + 1, region := some { r with finished := true } }
    else
      let g := goOn 0 k.loops i
      { k with loops := g.1, pc := g.2.getD (i + 1) }
  | none =>
    let g := goOn 0 k.loops i
    { k with loops := g.1, pc := g.2.getD (i + 1) }

/-- Count an instruction the sequencer carried out itself (R150). -/
def Core.retire (k : Core) : Core := { k with retiredSeq := satCount (k.retiredSeq + 1) }

/-- The sequencer has carried out the instruction at its index. -/
def Core.issued (k : Core) : Core := k.retire.after k.pc

/-- Run a sequencer instruction of a given opcode: fetch, the reserved check (detail 0x03), then the body. In a state in
which the sequencer of the core has not this instruction next, nothing takes place. Log entries 1 and 14. -/
def State.seqRun (s : State) (c op used : Nat) (bad : W64 → Bool) (body : Core → W64 → State) : State :=
  match s.fetch c with
  | .held => s
  | .past => s.precise c 0x04
  | .word w =>
    if wQueue w ≠ 0 ∨ wOp w ≠ op then s
    else if strayBits w used || bad w then s.precise c 0x03
    else body (s.core c) w

/-! ### Dispatch to an engine -/

/-- The queue number of an engine (R14). -/
def engineQueue : Engine → Nat
  | .press => 1
  | .vector => 2
  | .barge => 3
  | .sync => 4

/-- Dispatch to an engine queue: a full queue holds the sequencer (R123); a failed check faults precisely; else the word and
the captured register values stand at the queue's tail (R117). `window` is the convolution window PWIN records. Log entry 14. -/
def State.engineDispatch (s : State) (c : Nat) (e : Engine) (op : Nat) (check : Core → W64 → Option Nat)
    (regs : W64 → List Nat) (window : Core → W64 → Option Window) : State :=
  match s.fetch c with
  | .held => s
  | .past => s.precise c 0x04
  | .word w =>
    let k := s.core c
    if wQueue w ≠ engineQueue e ∨ wOp w ≠ op then s
    else if 16 ≤ (k.queue.get e).length then s
    else match check k w with
      | some d => s.precise c d
      | none =>
        let q : QInstr := ⟨w, (regs w).map k.areg, k.pc, k.region.map (fun r => r.rung), k.dispatched.get e, window k w⟩
        s.setCore c (Core.after { k with queue := k.queue.set e (k.queue.get e ++ [q])
                                         dispatched := k.dispatched.set e (k.dispatched.get e + 1)
                                         window := window k w } k.pc)

/-- An ordered list of checks: the detail of the first that fails. -/
def firstFailure : List (Bool × Nat) → Option Nat
  | [] => none
  | (bad, d) :: rest => if bad then some d else firstFailure rest

/-! ### The allocation (R113) -/

/-- The size of a context's allocation in bytes. -/
def Core.allocSize (k : Core) : Nat := k.bankCount * 0x8000

/-- The physical address of the first byte of core c's allocation. -/
def State.allocBase (s : State) (c : Nat) : Nat := scratchBase c + (s.core c).firstBank * 0x8000

/-- A range of the allocation: its offset lies in it even when it has no bytes (R113). -/
def Core.inAlloc (k : Core) (off n : Nat) : Bool := decide (off < k.allocSize) && decide (off + n ≤ k.allocSize)

/-- Bytes of a core's allocation. -/
def State.allocRead (s : State) (c off n : Nat) : Bytes := s.readBytes (s.allocBase c + off) n
def State.allocWrite (s : State) (c off : Nat) (bs : Bytes) : State := s.writeBytes (s.allocBase c + off) bs

/-! ### Barriers (R127) -/

/-- The wait set of a barrier or phase mark has completed its recorded instructions. -/
def Core.waitMet (k : Core) (wait : BitVec 4) (counts : Q4 Nat) : Bool :=
  engines.all (fun e => !bitOf wait.toNat (engineBit e) || decide (counts.get e ≤ k.completed.get e))

/-- Release the barriers whose wait set has completed; the sequencer goes on when none that holds it is left. -/
def Core.releaseBarriers (k : Core) : Core :=
  let left := k.barriers.filter (fun b => !k.waitMet b.wait b.counts)
  { k with barriers := left
           seqWait := if k.seqWait = .barrier && left.all (fun b => !bitOf b.hold.toNat 0) then .free else k.seqWait }

/-- An instruction of a queue is held at a barrier dispatched before it. -/
def Core.heldAtBarrier (k : Core) (e : Engine) (number : Nat) : Bool :=
  k.barriers.any (fun b => bitOf b.hold.toNat (engineBit e + 1) && decide (b.position.get e ≤ number) &&
    !k.waitMet b.wait b.counts)

/-! ### Phase marks (R144, R476, R477) -/

/-- The bubbles of a basin's clusters so far (R434). -/
def State.basinBubbles (s : State) (b : Nat) : Nat :=
  (((List.range 128).filter (fun k => bsnHasCluster s.sheets b k)).map (fun k => (s.cluster k).stall)).sum

/-- Put a mark into an open summary (R477). -/
def Summary.mark (m : Summary) (id : W16) (core : Nat) (time : W64) (lost : Bool) : Summary :=
  let m := if lost then { m with lostMarks := m.lostMarks + 1 } else m
  if m.ids.any (fun p => p.id == id) then
    { m with ids := m.ids.map (fun p => if p.id = id then
        { p with count := p.count + 1, first := if time.toNat < p.first.toNat then time else p.first,
                 last := if p.last.toNat ≤ time.toNat then time else p.last,
                 lastCore := if p.last.toNat ≤ time.toNat then core else p.lastCore } else p) }
  else if 64 ≤ m.ids.length then { m with overflow := true }
  else { m with ids := m.ids ++ [⟨id, 1, time, time, core⟩] }

/-- Aggregate a mark: it opens the summary of a new step, enters an open one, or is late (R477). -/
def State.summaryMark (s : State) (b : Nat) (step : W64) (id : W16) (core : Nat) (time : W64) (lost : Bool) : State :=
  let k := s.basin b
  if k.summaries.any (fun m => m.step == step) then
    s.setBasin b { k with summaries := k.summaries.map (fun m => if m.step = step then m.mark id core time lost else m) }
  else if k.closedSteps.contains step then
    s.setBasin b { k with summaries := k.summaries.map (fun m => { m with late := true }) }
  else
    let m : Summary := ⟨step, time, [], false, false, 0, 0, 0, 0, 0, 0, 0, s.basinBubbles b⟩
    s.setBasin b { k with summaries := k.summaries ++ [m.mark id core time lost] }

/-- The 32 bytes of a phase log entry (R476). -/
def phaseBytes (core : Nat) (k : Core) (m : Mark) (time : W64) (stalls : Nat) (synced : Bool) : Bytes :=
  leBytes 2 m.id.toNat ++ leBytes 2 core ++ leBytes 2 k.tag.toNat ++
    leBytes 1 (boolBit (m.wait == 0) + 2 * boolBit (!synced)) ++ leBytes 1 0 ++ leBytes 8 m.step.toNat ++
    leBytes 8 time.toNat ++ leBytes 4 stalls ++ leBytes 4 0

/-- Log the marks at the head of the list that have been taken, in dispatch order (R144). -/
def State.flushMarks (s : State) (c : Nat) : List Mark → State
  | [] => s.setCore c { s.core c with marks := [] }
  | m :: ms =>
    match m.taken with
    | none => s.setCore c { s.core c with marks := m :: ms }
    | some (time, stalls) =>
      let b := (s.core c).basin
      let r := s.logWrite b .phase (phaseBytes c (s.core c) m time stalls (s.die (c / 256)).synced)
      State.flushMarks (r.1.summaryMark b m.step m.id c time r.2) c ms

/-- Take the first mark not yet taken whose wait set has completed: the list, and whether there was one. -/
def takeFirst (k : Core) (time : W64) (stalls : Nat) : List Mark → List Mark × Bool
  | [] => ([], false)
  | m :: ms =>
    if m.taken.isNone && k.waitMet m.wait m.counts then ({ m with taken := some (time, stalls) } :: ms, true)
    else
      let r := takeFirst k time stalls ms
      (m :: r.1, r.2)

/-- Take one mark and log what may now be logged. -/
def State.takeMark (s : State) (c : Nat) : State :=
  let r := takeFirst (s.core c) (s.time (c / 256)) (s.stallsNow c) (s.core c).marks
  if r.2 then s.flushMarks c r.1 else s

/-- Take and log every mark: each queue has completed (R145). -/
def State.takeAllMarks (s : State) (c : Nat) : State :=
  s.flushMarks c ((s.core c).marks.map (fun m => if m.taken.isSome then m else
    { m with taken := some (s.time (c / 256), s.stallsNow c) }))

/-! ### Draws (R141, R142) -/

/-- Release a core's reservation to its cluster. -/
def State.releaseDraw (s : State) (c : Nat) : State :=
  let k := s.core c
  let cl := s.cluster (c / 8)
  (s.setCore c { k with reservation := 0 }).setCluster (c / 8) { cl with unreserved := cl.unreserved + k.reservation }

/-- Clamp a request to the core's share, counting the clamp; the request, and the core. Log entry 16. -/
def Core.clampDraw (k : Core) (request share : Nat) : Nat × Core :=
  if share < request then (share, { k with drawClamp := min 255 (k.drawClamp + 1) }) else (request, k)

/-- Set a request aside for a core out of its cluster's unreserved balance; the sequencer goes on. Log entry 16. -/
def State.grantDraw (s : State) (c request : Nat) : State :=
  let cl := s.cluster (c / 8)
  let k := s.core c
  ((s.setCluster (c / 8) { cl with unreserved := cl.unreserved - request * 16 }).setCore c
    (Core.issued { k with reservation := request * 16, reservedAt := s.lockCycle, seqWait := .free })).noteStall c

end Sys2Proof.Machine
end

