-- ==== Sys2Proof/Machine/Fp.lean ====
section
/-!
DEFINITION. Numbers of every format as exact values (R151-R155), rounding to a grid by nearest-even or stochastically (R160),
the generator of R161-R164, and exact arithmetic.
-/
namespace Sys2Proof.Machine

/-- An exact value: a NaN, an infinity, or (−1)^neg × m × 2^e, zeros signed. -/
inductive Val where
  | nan
  | inf (neg : Bool)
  | fin (neg : Bool) (m : Nat) (e : Int)
  deriving DecidableEq, Repr

/-- A floating-point layout of R152: exponent and mantissa bits, bias, and how its top exponent is used: 0 IEEE infinities and
NaNs, 1 only the all-ones pattern is NaN (E4M3), 2 every pattern is finite. -/
structure Layout where
  ebits : Nat
  mbits : Nat
  bias : Int
  top : Nat
  deriving DecidableEq, Repr

def fp32L : Layout := ⟨8, 23, 127, 0⟩
def bf16L : Layout := ⟨8, 7, 127, 0⟩
def fp16L : Layout := ⟨5, 10, 15, 0⟩
def e4m3L : Layout := ⟨4, 3, 7, 1⟩
def e5m2L : Layout := ⟨5, 2, 15, 0⟩
def e3m2L : Layout := ⟨3, 2, 3, 2⟩
def e2m3L : Layout := ⟨2, 3, 1, 2⟩
def e2m1L : Layout := ⟨2, 1, 1, 2⟩
/-- IEEE binary64, the format of the sluice's sums (R322). -/
def fp64L : Layout := ⟨11, 52, 1023, 0⟩

/-- The exponent of the smallest normal. -/
def Layout.emin (l : Layout) : Int := 1 - l.bias
/-- The exponent of the top binade of finite values. -/
def Layout.emax (l : Layout) : Int := Int.ofNat (2 ^ l.ebits - 1) - l.bias - (if l.top = 0 then 1 else 0)
/-- The largest finite magnitude as m × 2^e: in E4M3 the all-ones mantissa of the top binade is the NaN. -/
def Layout.maxM (l : Layout) : Nat := if l.top = 1 then 2 ^ (l.mbits + 1) - 2 else 2 ^ (l.mbits + 1) - 1
def Layout.maxE (l : Layout) : Int := l.emax - Int.ofNat l.mbits

/-- The value of a bit pattern. -/
def Layout.decode (l : Layout) (w : Nat) : Val :=
  let neg := bitOf w (l.ebits + l.mbits)
  let e := bitsOf w (l.ebits + l.mbits - 1) l.mbits
  let m := w % 2 ^ l.mbits
  if l.top = 0 ∧ e = 2 ^ l.ebits - 1 then (if m = 0 then .inf neg else .nan)
  else if l.top = 1 ∧ e = 2 ^ l.ebits - 1 ∧ m = 2 ^ l.mbits - 1 then .nan
  else if e = 0 then .fin neg m (l.emin - Int.ofNat l.mbits)
  else .fin neg (2 ^ l.mbits + m) (Int.ofNat e - l.bias - Int.ofNat l.mbits)

/-- The canonical NaN of a layout (R154). -/
def Layout.canonNan (l : Layout) : Nat :=
  if l.top = 0 ∧ l.mbits = 2 then 0x7F
  else if l.top = 0 then (2 ^ l.ebits - 1) * 2 ^ l.mbits + 2 ^ (l.mbits - 1)
  else 2 ^ (l.ebits + l.mbits) - 1

/-- An infinity of a layout that has them. -/
def Layout.infBits (l : Layout) (neg : Bool) : Nat :=
  boolBit neg * 2 ^ (l.ebits + l.mbits) + (2 ^ l.ebits - 1) * 2 ^ l.mbits

/-- The largest finite value with a sign. -/
def Layout.maxBits (l : Layout) (neg : Bool) : Nat :=
  boolBit neg * 2 ^ (l.ebits + l.mbits) +
    Int.toNat (l.emax + l.bias) * 2 ^ l.mbits + (l.maxM - 2 ^ l.mbits)

/-- The bit pattern of a finite magnitude n × 2^q that lies on the grid and is not above the largest finite value. -/
def Layout.encode (l : Layout) (neg : Bool) (n : Nat) (q : Int) : Nat :=
  let sign := boolBit neg * 2 ^ (l.ebits + l.mbits)
  if n = 0 then sign
  else
    let lg := Int.ofNat (Nat.log2 n) + q
    if lg < l.emin then sign + n * 2 ^ Int.toNat (q - (l.emin - Int.ofNat l.mbits))
    else
      let frac := if l.mbits ≤ Nat.log2 n then n / 2 ^ (Nat.log2 n - l.mbits) else n * 2 ^ (l.mbits - Nat.log2 n)
      sign + Int.toNat (lg + l.bias) * 2 ^ l.mbits + (frac - 2 ^ l.mbits)

/-- An exact magnitude num ÷ den × 2^e, den not 0. -/
structure Mag where
  num : Nat
  den : Nat
  exp : Int
  deriving DecidableEq, Repr

/-- floor(log2) of a non-zero magnitude. -/
def Mag.log2 (y : Mag) : Int :=
  let a := Int.ofNat (Nat.log2 y.num) - Int.ofNat (Nat.log2 y.den)
  let ge := if 0 ≤ a then decide (y.den * 2 ^ Int.toNat a ≤ y.num) else decide (y.den ≤ y.num * 2 ^ Int.toNat (-a))
  (if ge then a else a - 1) + y.exp

/-- The exponent of the grid spacing at a magnitude, the top binade's spacing kept above the largest finite value (R160). -/
def Layout.spacing (l : Layout) (lg : Int) : Int := min (max lg l.emin) l.emax - Int.ofNat l.mbits

/-- y ÷ 2^q as a fraction. -/
def Mag.scaled (y : Mag) (q : Int) : Nat × Nat :=
  if q ≤ y.exp then (y.num * 2 ^ Int.toNat (y.exp - q), y.den) else (y.num, y.den * 2 ^ Int.toNat (q - y.exp))

/-- How one rounding decides: to nearest even, or stochastically with the 24-bit u of R160. -/
inductive Rnd where
  | rne
  | sr (u : Nat)
  deriving DecidableEq, Repr

/-- Round n ÷ d to an integer (R160). -/
def roundFrac (r : Rnd) (n d : Nat) : Nat :=
  let lo := n / d
  let rem := n % d
  match r with
  | .rne => if 2 * rem < d then lo else if d < 2 * rem then lo + 1 else lo + lo % 2
  | .sr u => if u < rem * 2 ^ 24 / d then lo + 1 else lo

/-- A magnitude rounded to a layout's grid: n × 2^q. -/
def Layout.round (l : Layout) (r : Rnd) (y : Mag) : Nat × Int :=
  if y.num = 0 then (0, l.emin - Int.ofNat l.mbits)
  else
    let q := l.spacing y.log2
    let f := y.scaled q
    (roundFrac r f.1 f.2, q)

/-- a × 2^x compared with b × 2^y. -/
def leDyadic (a : Nat) (x : Int) (b : Nat) (y : Int) : Bool :=
  if x ≤ y then decide (a ≤ b * 2 ^ Int.toNat (y - x)) else decide (a * 2 ^ Int.toNat (x - y) ≤ b)

/-- A rounded magnitude is above the largest finite value. -/
def Layout.overflows (l : Layout) (n : Nat) (q : Int) : Bool := !leDyadic n q l.maxM l.maxE

/-- Round a value into a layout with infinities: a magnitude above the largest finite becomes an infinity. -/
def Layout.fromVal (l : Layout) (r : Rnd) : Val → Nat
  | .nan => l.canonNan
  | .inf neg => l.infBits neg
  | .fin neg m e =>
    let g := l.round r ⟨m, 1, e⟩
    if l.overflows g.1 g.2 then l.infBits neg else l.encode neg g.1 g.2

/-- FP32 of a value, and the value of FP32 bits. -/
def f32 (r : Rnd) (v : Val) : W32 := BitVec.ofNat 32 (fp32L.fromVal r v)
def vF32 (w : W32) : Val := fp32L.decode w.toNat

/-! ### Exact arithmetic -/

def Val.neg : Val → Val
  | .nan => .nan
  | .inf s => .inf !s
  | .fin s m e => .fin (!s) m e

def Val.abs : Val → Val
  | .nan => .nan
  | .inf _ => .inf false
  | .fin _ m e => .fin false m e

def Val.isZero : Val → Bool
  | .fin _ m _ => m == 0
  | _ => false

/-- The signed integer s × m. -/
def signedNat (neg : Bool) (m : Nat) : Int := if neg then -Int.ofNat m else Int.ofNat m

/-- An integer times 2^e as a value; zero is +0. -/
def Val.ofInt (i : Int) (e : Int) : Val := .fin (decide (i < 0)) i.natAbs e

/-- The exact sum. Opposite infinities give NaN; an exact zero sum is +0 unless both are −0. -/
def Val.add : Val → Val → Val
  | .nan, _ => .nan
  | _, .nan => .nan
  | .inf s, .inf t => if s = t then .inf s else .nan
  | .inf s, _ => .inf s
  | _, .inf t => .inf t
  | .fin s m e, .fin t n f =>
    if m = 0 ∧ n = 0 then .fin (s && t) 0 e
    else
      let x := min e f
      Val.ofInt (signedNat s (m * 2 ^ Int.toNat (e - x)) + signedNat t (n * 2 ^ Int.toNat (f - x))) x

/-- The exact product. Zero times infinity gives NaN. -/
def Val.mul : Val → Val → Val
  | .nan, _ => .nan
  | _, .nan => .nan
  | .inf s, .inf t => .inf (s != t)
  | .inf s, .fin t n _ => if n = 0 then .nan else .inf (s != t)
  | .fin s m _, .inf t => if m = 0 then .nan else .inf (s != t)
  | .fin s m e, .fin t n f => .fin (s != t) (m * n) (e + f)

/-- The value times 2^k. -/
def Val.scale (v : Val) (k : Int) : Val :=
  match v with
  | .fin s m e => .fin s m (e + k)
  | v => v

/-- a < b for values that are not NaN; zeros of either sign are equal. -/
def Val.lt : Val → Val → Bool
  | .nan, _ => false
  | _, .nan => false
  | .inf s, .inf t => s && !t
  | .inf s, _ => s
  | _, .inf t => !t
  | .fin s m e, .fin t n f =>
    let x := min e f
    decide (signedNat s (m * 2 ^ Int.toNat (e - x)) < signedNat t (n * 2 ^ Int.toNat (f - x)))

/-- Equal as numbers. -/
def Val.eqv (a b : Val) : Bool :=
  match a, b with
  | .nan, _ => false
  | _, .nan => false
  | a, b => !a.lt b && !b.lt a

def Val.isNan : Val → Bool
  | .nan => true
  | _ => false

def Val.isInf : Val → Bool
  | .inf _ => true
  | _ => false

def Val.sign : Val → Bool
  | .nan => false
  | .inf s => s
  | .fin s _ _ => s

/-- The quotient of two finite values, the divisor not zero, rounded into a layout. -/
def Layout.divide (l : Layout) (r : Rnd) (s t : Bool) (m n : Nat) (e f : Int) : Nat :=
  let g := l.round r ⟨m, n, e - f⟩
  if l.overflows g.1 g.2 then l.infBits (s != t) else l.encode (s != t) g.1 g.2

/-- A quotient rounded into a layout: x ÷ 0 is an infinity, 0 ÷ 0 and infinity ÷ infinity are NaN (IEEE 754). -/
def Layout.div (l : Layout) (r : Rnd) : Val → Val → Nat
  | .nan, _ => l.canonNan
  | _, .nan => l.canonNan
  | .inf _, .inf _ => l.canonNan
  | .inf s, .fin t _ _ => l.infBits (s != t)
  | .fin s _ _, .inf t => l.encode (s != t) 0 0
  | .fin s m e, .fin t n f =>
    if n = 0 then (if m = 0 then l.canonNan else l.infBits (s != t))
    else l.divide r s t m n e f

/-- The integer square root, digit by digit from bit k down. -/
def isqrtFrom : Nat → Nat → Nat → Nat
  | 0, _, root => root
  | k + 1, n, root =>
    let t := root + 2 ^ k
    isqrtFrom k n (if t * t ≤ n then t else root)

def isqrt (n : Nat) : Nat := isqrtFrom (Nat.log2 n / 2 + 1) n 0

/-- The square root of m × 2^e rounded into a layout (R160): the root divided by the grid spacing 2^q is the root of
m × 2^(e − 2q). -/
def Layout.sqrtFin (l : Layout) (r : Rnd) (m : Nat) (e : Int) : Nat :=
  if m = 0 then 0
  else
    let lg := (Int.ofNat (Nat.log2 m) + e) / 2
    let q := l.spacing lg
    let f : Nat × Nat := (⟨m, 1, e⟩ : Mag).scaled (2 * q)
    let lo := isqrt (f.1 / f.2)
    let n :=
      match r with
      | .rne =>
        -- compare the fraction with (lo + 1/2)^2 = lo^2 + lo + 1/4
        let l4 := (4 * lo * lo + 4 * lo + 1) * f.2
        if 4 * f.1 < l4 then lo else if l4 < 4 * f.1 then lo + 1 else lo + lo % 2
      | .sr u => if u < isqrt (f.1 * 2 ^ 48 / f.2) - lo * 2 ^ 24 then lo + 1 else lo
    if l.overflows n q then l.infBits false else l.encode false n q

/-- The square root of a value rounded into a layout; of a negative value NaN, of −0 −0. -/
def Layout.sqrt (l : Layout) (r : Rnd) : Val → Nat
  | .nan => l.canonNan
  | .inf true => l.canonNan
  | .inf false => l.infBits false
  | .fin true m _ => if m = 0 then l.encode true 0 0 else l.canonNan
  | .fin false m e => l.sqrtFin r m e

/-! ### The generator (R161-R164) -/

/-- One round of Philox4x32. -/
def philoxRound (c : Nat × Nat × Nat × Nat) (k0 k1 : Nat) : Nat × Nat × Nat × Nat :=
  let p0 := 0xD2511F53 * c.1
  let p1 := 0xCD9E8D57 * c.2.2.1
  ((p1 / 2 ^ 32) ^^^ c.2.1 ^^^ k0, p1 % 2 ^ 32, (p0 / 2 ^ 32) ^^^ c.2.2.2 ^^^ k1, p0 % 2 ^ 32)

/-- n rounds, the key bumped between rounds. -/
def philoxRounds : Nat → (Nat × Nat × Nat × Nat) → Nat → Nat → Nat × Nat × Nat × Nat
  | 0, c, _, _ => c
  | n + 1, c, k0, k1 => philoxRounds n (philoxRound c k0 k1) ((k0 + 0x9E3779B9) % 2 ^ 32) ((k1 + 0xBB67AE85) % 2 ^ 32)

/-- Philox4x32-10 (R161). -/
def philox (c0 c1 c2 c3 k0 k1 : Nat) : Nat × Nat × Nat × Nat := philoxRounds 10 (c0, c1, c2, c3) k0 k1

/-- What keys the random words of one instruction: the step seed XOR the unit, the step, the tile coordinate and the block
index it starts from (R162, R163). -/
structure SrKey where
  seed : W64
  unit : Nat
  step : W64
  coord : Nat
  block : Nat
  deriving DecidableEq, Repr

/-- The generator word of element e in block b of the instruction (R163, R164). -/
def SrKey.word (k : SrKey) (b e : Nat) : Nat :=
  let o := philox (k.step.toNat % 2 ^ 32) (k.step.toNat / 2 ^ 32) (k.coord % 2 ^ 32)
    ((k.block + b) % 2 ^ 24 * 256 + e / 4 % 256) ((k.seed.toNat % 2 ^ 32) ^^^ k.unit) (k.seed.toNat / 2 ^ 32)
  match e % 4 with
  | 0 => o.1
  | 1 => o.2.1
  | 2 => o.2.2.1
  | _ => o.2.2.2

/-- The rounding of element e in block b: nearest even without a key, else by bits [31:8] of its word (R160). -/
def rndAt (k : Option SrKey) (b e : Nat) : Rnd :=
  match k with
  | none => .rne
  | some k => .sr (k.word b e / 256)

/-! ### Formats (R151-R157) -/

/-- Bits per element of a format code. -/
def fmtBits (code : Nat) : Nat :=
  match code with
  | 0x0 => 32
  | 0x1 => 16
  | 0x2 => 16
  | 0x7 => 6
  | 0x8 => 6
  | 0x9 => 4
  | 0xC => 32
  | _ => 8

/-- The format has a scale plane (R156). -/
def fmtScaled (code : Nat) : Bool := decide (3 ≤ code) && decide (code ≤ 0xA)

/-- The format is one of the MX formats, scaled by block (R151). -/
def fmtMx (code : Nat) : Bool := decide (5 ≤ code) && decide (code ≤ 0xA)

/-- The layout of a floating-point format code. -/
def fmtLayout (code : Nat) : Layout :=
  match code with
  | 0x0 => fp32L
  | 0x1 => bf16L
  | 0x2 => fp16L
  | 0x3 => e4m3L
  | 0x4 => e5m2L
  | 0x5 => e4m3L
  | 0x6 => e5m2L
  | 0x7 => e3m2L
  | 0x8 => e2m3L
  | _ => e2m1L

/-- The value of an element's bits, without its scale (R152, R153). -/
def fmtDecode (code w : Nat) : Val :=
  match code with
  | 0xA => Val.ofInt (signedOf 8 w) (-6)
  | 0xB => Val.ofInt (signedOf 8 w) 0
  | 0xC => Val.ofInt (signedOf 32 w) 0
  | _ => (fmtLayout code).decode w

/-- Apply a scale byte: 0xFF is NaN (R153). -/
def scaleBy (v : Val) (byte : Nat) : Val := if byte = 0xFF then .nan else v.scale (Int.ofNat byte - 127)

/-- Bytes of n elements (R157). -/
def planeBytes (code n : Nat) : Nat := n * fmtBits code / 8

/-- The bits of element i of a plane, its bytes read by `rd` (R157). -/
def elemBits (rd : Nat → Byte) (code i : Nat) : Nat :=
  match fmtBits code with
  | 32 => leValue [rd (4 * i), rd (4 * i + 1), rd (4 * i + 2), rd (4 * i + 3)]
  | 16 => leValue [rd (2 * i), rd (2 * i + 1)]
  | 6 =>
    let g := i / 4 * 3
    bitsOf (leValue [rd g, rd (g + 1), rd (g + 2)]) (6 * (i % 4) + 5) (6 * (i % 4))
  | 4 => if i % 2 = 0 then (rd (i / 2)).toNat % 16 else (rd (i / 2)).toNat / 16
  | _ => (rd i).toNat

/-- Element i of a tensor whose element plane and scale plane `rd` and `scale` read (R156). -/
def tensorElem (rd scale : Nat → Byte) (code i : Nat) : Val :=
  let v := fmtDecode code (elemBits rd code i)
  if fmtScaled code then scaleBy v (scale (i / 32)).toNat else v

/-- The bytes of a list of element bits (R157): FP6 elements in groups of four, FP4 in pairs. -/
def packPlane (code : Nat) (es : List Nat) : Bytes :=
  let bits := fmtBits code
  leBytes (es.length * bits / 8) ((es.foldr (fun e acc => acc * 2 ^ bits + e % 2 ^ bits) 0))

end Sys2Proof.Machine
end

