-- ==== Sys2Proof/Machine/Gauge.lean ====
section
/-!
DEFINITION. Gauges (R166-R171), conversion to narrow formats with its overflow rules (R172-R175), and the numeric events and
gauge updates a converting instruction makes (R173, R174, R180).
-/
namespace Sys2Proof.Machine

/-! ### Gauge entries (R167) -/

/-- The fields of a gauge entry. -/
structure Gauge where
  rsv : Nat
  headroom : Nat
  decay : Nat
  ovf : Nat
  epoch : Nat
  amax : W32
  peak : W32
  deriving DecidableEq, Repr

def State.gauge (s : State) (cl g : Nat) : Gauge :=
  let a := gaugeBase cl + 16 * g
  ⟨s.readLe a 2, s.readLe (a + 2) 1 % 16, s.readLe (a + 2) 1 / 16, s.readLe (a + 3) 1, s.readLe (a + 4) 4,
    BitVec.ofNat 32 (s.readLe (a + 8) 4), BitVec.ofNat 32 (s.readLe (a + 12) 4)⟩

def State.setGauge (s : State) (cl g : Nat) (v : Gauge) : State :=
  s.writeBytes (gaugeBase cl + 16 * g)
    (leBytes 2 v.rsv ++ leBytes 1 (v.headroom + 16 * v.decay) ++ leBytes 1 v.ovf ++ leBytes 4 v.epoch ++
      leBytes 4 v.amax.toNat ++ leBytes 4 v.peak.toNat)

/-- A finite FP32 value with its sign bit clear. -/
def plainMag (w : W32) : Bool := decide (w.toNat < 0x7F800000)

/-- A defective entry (R171). -/
def Gauge.defective (g : Gauge) : Bool :=
  (decide (8 ≤ g.headroom) && decide (g.headroom ≤ 14)) || g.rsv != 0 || !plainMag g.peak || !plainMag g.amax

/-- The larger of two FP32 magnitudes. -/
def maxF32 (a b : W32) : W32 := if (vF32 a).lt (vF32 b) then b else a

/-- The rollover of R168; `dflt` is the basin's default decay, latched by the context. -/
def Gauge.rollover (g : Gauge) (step : W64) (dflt : Nat) : Gauge :=
  if g.epoch = step.toNat % 2 ^ 32 then g
  else
    let d := if g.decay = 15 then dflt else g.decay
    let left := (vF32 g.amax).add ((vF32 g.amax).neg.scale (-Int.ofNat d))
    { g with amax := maxF32 g.peak (f32 .rne left), peak := 0, epoch := step.toNat % 2 ^ 32 }

/-- The largest finite value F of a target: M × 2^E (R172). -/
def fmtMax (code : Nat) : Nat × Int := if code = 0xA then (127, -6) else ((fmtLayout code).maxM, (fmtLayout code).maxE)

/-- The smallest integer x with m × 2^e ≤ F × 2^x, clamped to −127 to 127; m is not 0. -/
def fitExp (code m : Nat) (e : Int) : Int :=
  let f := fmtMax code
  let x := (Int.ofNat (Nat.log2 m) + e) - (Int.ofNat (Nat.log2 f.1) + f.2)
  let x := if leDyadic m e f.1 (f.2 + x) then x else x + 1
  max (-127) (min 127 x)

/-- The scale exponent a gauge gives a format (R169). -/
def Gauge.scaleExp (g : Gauge) (code dflt : Nat) : Int :=
  let h := if g.headroom = 15 then dflt else g.headroom
  match vF32 g.amax with
  | .fin _ m e => if m = 0 then 0 else fitExp code m (e + Int.ofNat h)
  | _ => 0

/-- The atomic maximum of R170. -/
def Gauge.raisePeak (g : Gauge) (m : W32) : Gauge := { g with peak := maxF32 g.peak m }

/-- The raise of R173. -/
def Gauge.raise (g : Gauge) (m : W32) : Gauge :=
  { g with peak := maxF32 g.peak m, amax := maxF32 g.amax m, ovf := min 255 (g.ovf + 1) }

/-! ### Conversion (R172-R175) -/

/-- What a conversion gives: element bits, scale bytes, whether it overflowed, how many inputs were NaN and infinite, and
the largest finite input magnitude as FP32. -/
structure Converted where
  elems : List Nat
  scales : List Nat
  beyond : Bool
  nans : Nat
  infs : Nat
  m : W32
  deriving DecidableEq, Repr

/-- A value rounded to an integer grid of spacing 2^q, saturated: the integer, and whether it was outside. -/
def toInteger (r : Rnd) (q lo hi : Int) : Val → Int × Bool
  | .nan => (0, false)
  | .inf neg => (if neg then lo else hi, false)
  | .fin neg m e =>
    let f : Nat × Nat := (⟨m, 1, e⟩ : Mag).scaled q
    let n := signedNat neg (roundFrac r f.1 f.2)
    if n < lo then (lo, true) else if hi < n then (hi, true) else (n, false)

/-- One element of a floating-point target after scaling: its bits, and whether it overflowed. BF16 and FP16 overflow to an
infinity; the 8-bit and narrower formats saturate (R174); an infinite input to E4M3 gives NaN (R175). -/
def floatElem (code : Nat) (r : Rnd) : Val → Nat × Bool
  | .nan => ((fmtLayout code).canonNan, false)
  | .inf neg =>
    let l := fmtLayout code
    (if l.top = 0 then l.infBits neg else l.canonNan, false)
  | .fin neg m e =>
    let l := fmtLayout code
    let g := l.round r ⟨m, 1, e⟩
    if l.overflows g.1 g.2 then (if fmtScaled code then l.maxBits neg else l.infBits neg, true)
    else (l.encode neg g.1 g.2, false)

/-- One element of any target, s the scale exponent. Log entry 24. -/
def convElem (code : Nat) (s : Int) (r : Rnd) (v : Val) : Nat × Bool :=
  if code = 0xA then
    let g := toInteger r (-6) (-127) 127 (v.scale (-s))
    ((BitVec.ofInt 8 g.1).toNat, g.2)
  else if code = 0xB then
    let g := toInteger r 0 (-128) 127 v
    ((BitVec.ofInt 8 g.1).toNat, g.2)
  else floatElem code r (if fmtScaled code then v.scale (-s) else v)

/-- The largest finite magnitude of a list. -/
def largestVal (vs : List Val) : Val :=
  vs.foldl (fun acc v => match v with | .fin _ m e => if acc.lt (.fin false m e) then .fin false m e else acc | _ => acc)
    (.fin false 0 0)

/-- The same as FP32; a magnitude above the largest finite value gives an open finite one. Log entry 91. -/
def largestMag (vs : List Val) : W32 :=
  match largestVal vs with
  | .fin _ m e =>
    let x := f32 .rne (.fin false m e)
    if plainMag x then x else BitVec.ofNat 32 ((Config.peakBeyond m e).toNat % 0x7F800000)
  | _ => 0

/-- The block exponent of the fit rule; −127 for an all-zero block (R172). -/
def blockExp (code : Nat) (vs : List Val) : Int :=
  match largestVal vs with
  | .fin _ m e => if m = 0 then -127 else fitExp code m e
  | _ => -127

/-- One block of up to 32 elements, its first element numbered i in the instruction. `s` is the gauge's scale exponent, and
`bound` says that an MX block above it overflows: at a ladder rung whose gauge is not empty. -/
def convBlock (code : Nat) (s : Int) (bound : Bool) (rnd : Nat → Rnd) (i : Nat) (vs : List Val) : List Nat × Nat × Bool :=
  if fmtMx code then
    if vs.any (fun v => v.isNan || v.isInf) then (List.replicate 32 0, 0xFF, false)
    else
      let x := blockExp code vs
      let es := vs.zipIdx.map (fun p => convElem code x (rnd (i + p.2)) p.1)
      (es.map (fun e => e.1) ++ List.replicate (32 - vs.length) 0, Int.toNat (x + 127),
        es.any (fun e => e.2) || (bound && decide (s < x)))
  else
    let es := vs.zipIdx.map (fun p => convElem code s (rnd (i + p.2)) p.1)
    (es.map (fun e => e.1) ++ (if fmtScaled code then List.replicate (32 - vs.length) 0 else []), Int.toNat (s + 127),
      es.any (fun e => e.2))

/-- Cut a list into runs of 32; `fuel` bounds their number. -/
def runsOf32 {α : Type} : Nat → List α → List (List α)
  | 0, _ => []
  | f + 1, l => if l.isEmpty then [] else l.take 32 :: runsOf32 f (l.drop 32)

/-- Convert a list of values, its elements numbered from 0 for `rnd`. -/
def convert (code : Nat) (s : Int) (bound : Bool) (rnd : Nat → Rnd) (vs : List Val) : Converted :=
  let blocks := (runsOf32 (vs.length / 32 + 1) vs).zipIdx.map (fun p => convBlock code s bound rnd (32 * p.2) p.1)
  { elems := blocks.flatMap (fun b => b.1)
    scales := if fmtScaled code then blocks.map (fun b => b.2.1) else []
    beyond := blocks.any (fun b => b.2.2)
    nans := (vs.filter Val.isNan).length
    infs := (vs.filter Val.isInf).length
    m := largestMag vs }

/-- The bytes of a conversion: its element plane, then its scale plane. -/
def Converted.planes (c : Converted) (code : Nat) : Bytes := packPlane code c.elems ++ c.scales.map (fun b => BitVec.ofNat 8 b)

/-! ### What a converting instruction reports (R173, R174, R180) -/

/-- The format of a ladder rung (R176). -/
def rungFormat (rung : Nat) : Nat :=
  match rung with
  | 0 => 0x9
  | 1 => 0x3
  | 2 => 0x4
  | _ => 0x1

/-- A format field with the ladder code resolved by the instruction's rung. -/
def resolveFormat (code : Nat) (rung : Option Nat) : Nat := if code = 0xF then rungFormat (rung.getD 0) else code

/-- A numeric event of a core's instruction. -/
def State.coreEvent (s : State) (c : Nat) (f : InFlight) (kind gauge payload : Nat) : State :=
  s.numEvent (s.core c).basin
    ⟨kind, 0, c, f.q.index, if f.q.rung.isSome then 2 else 0, gauge, f.step, c / 256, payload⟩

/-- Change a gauge entry of core c's cluster. -/
def State.updateGauge (s : State) (c g : Nat) (h : Gauge → Gauge) : State :=
  s.setGauge (c / 8) g (h (s.gauge (c / 8) g))

/-- The events and gauge updates of a finished conversion: `field` is the format code the word holds, `code` the resolved one,
`gauge` the named entry when enabled, `copy` that it was a bit copy or an exact widening. An overflow at a ladder rung is
reported to the region, or at rung 3 faults the context. -/
def State.finishConversion (s : State) (c : Nat) (f : InFlight) (field code : Nat) (gauge : Option Nat) (copy : Bool)
    (r : Converted) : State :=
  let gi := gauge.getD 0xFF
  let s := match gauge with | some g => s.updateGauge c g (fun e => e.raisePeak r.m) | none => s
  let s := if copy ∨ r.nans + r.infs = 0 then s
    else s.coreEvent c f 0x03 0xFF (code + min r.nans 65535 * 2 ^ 16 + min r.infs 65535 * 2 ^ 32)
  if !r.beyond then s
  else if field = 0xF then
    if f.q.rung = some 3 then s.enterFault c 0x0201 f.q.index
    else
      let k := s.core c
      match k.region with
      | none => s
      | some rg =>
        s.setCore c { k with region := some { rg with overflow := some (rg.overflow.getD ⟨gi, r.m, f.q.index⟩)
                                                      raised := rg.raised ++ [(gi, r.m)] } }
  else if code = 0x0 then s
  else if code = 0x1 ∨ code = 0x2 then s.coreEvent c f 0x04 0xFF code
  else
    let s := if code = 0x3 ∨ code = 0x4 then
        (match gauge with | some g => s.updateGauge c g (fun e => e.raise r.m) | none => s)
      else s
    s.coreEvent c f 0x02 gi code

/-- The scale exponent a conversion takes at issue: 0 without a gauge, else as R169 for its resolved format. -/
def State.issueScale (s : State) (c code : Nat) (gauge : Option Nat) : Int × Bool :=
  match gauge with
  | none => (0, true)
  | some g =>
    let e := s.gauge (c / 8) g
    (e.scaleExp code (s.core c).headroom, e.amax == 0)

/-- Open a new epoch of a named gauge at issue (R168), or find it defective (R171). -/
def State.issueGauge (s : State) (c g : Nat) (step : W64) : Option State :=
  let e := s.gauge (c / 8) g
  if e.defective then none else some (s.setGauge (c / 8) g (e.rollover step (s.core c).decay))

end Sys2Proof.Machine
end

