-- ==== Sys2Proof/Machine/Press.lean ====
section
/-!
DEFINITION. The press (07_press): the dispatch of its five instructions, with the checks of R213 in their order, the charges
of R210, and what each does at its completion.
-/
namespace Sys2Proof.Machine

/-! ### Fields -/

def mmaTd (w : W64) : Nat := bitsOf w.toNat 53 50
def mmaFmtA (w : W64) : Nat := bitsOf w.toNat 34 31
def mmaFmtB (w : W64) : Nat := bitsOf w.toNat 30 27
def mmaAcc (w : W64) : Bool := bitOf w.toNat 26
def mmaWindow (w : W64) : Bool := bitOf w.toNat 25
/-- ra, rb, rk, rc of MMA. -/
def mmaRegs (w : W64) : List Nat := [bitsOf w.toNat 49 45, bitsOf w.toNat 44 40, bitsOf w.toNat 39 35, bitsOf w.toNat 24 20]

/-- The fields TOUT and TCVT share (R199, R228). -/
def toutTs (w : W64) : Nat := bitsOf w.toNat 53 50
def toutFmt (w : W64) : Nat := bitsOf w.toNat 39 36
def toutGauge (w : W64) : Option Nat := if bitOf w.toNat 27 then some (bitsOf w.toNat 35 28) else none
def toutRne (w : W64) : Bool := bitOf w.toNat 26
def toutClear (w : W64) : Bool := bitOf w.toNat 25
def toutInt (w : W64) : Bool := bitOf w.toNat 24
/-- ro, rc of TOUT. -/
def toutRegs (w : W64) : List Nat := [bitsOf w.toNat 49 45, bitsOf w.toNat 44 40]

/-- The n-th captured register value. -/
def QInstr.reg (q : QInstr) (n : Nat) : W64 := q.regs.getD n 0

/-- Bits [63:56] of an rc value must be zero (R195). -/
def rcBad (v : W64) : Bool := bitsOf v.toNat 63 56 != 0

/-- The generator inputs an rc value gives: tile coordinate and block base (R195). -/
def srKey (f : InFlight) (unit : Nat) (rc : W64) : SrKey :=
  ⟨f.seed, unit, f.step, bitsOf rc.toNat 31 0, bitsOf rc.toNat 55 32⟩

/-! ### Groups (R187) -/

/-- The operand groups of the press. -/
inductive Group where
  | f32 | f16 | f8 | f4 | i8
  deriving DecidableEq, Repr

def fmtIn (lo hi x : Nat) : Bool := decide (lo ≤ x) && decide (x ≤ hi)
/-- The 8-bit scaled formats of group F8. -/
def fmtEight (x : Nat) : Bool := fmtIn 3 6 x || x == 0xA

/-- The group of an operand format pair; none when the pair is reserved. -/
def pressGroup (a b : Nat) : Option Group :=
  if a = 0 ∧ b = 0 then some .f32
  else if a = 0xB ∧ b = 0xB then some .i8
  else if (fmtIn 1 2 a || fmtIn 1 2 b) && fmtIn 1 0xA a && fmtIn 1 0xA b then some .f16
  else if (fmtEight a || fmtEight b) && fmtIn 3 0xA a && fmtIn 3 0xA b then some .f8
  else if fmtIn 7 9 a && fmtIn 7 9 b then some .f4
  else none

/-- The depth of an accumulation block. -/
def Group.depth : Group → Nat
  | .f32 => 8
  | .f16 => 32
  | _ => 64

/-- The beats of K, and the charge of a beat (R206, R210). -/
def Group.beats (g : Group) (k : Nat) : Nat :=
  match g with
  | .f32 => 4 * k
  | .f16 => k
  | .f8 => k / 2
  | .i8 => k / 2
  | .f4 => k / 4

def Group.charge : Group → Nat
  | .f32 => 12
  | .f16 => 17
  | .f8 => 20
  | .i8 => 18
  | .f4 => 22

/-! ### The convolution window (R203-R205) -/

def Window.channels (x : Window) : Nat := bitsOf x.rg.toNat 47 32
def Window.height (x : Window) : Nat := bitsOf x.rg.toNat 31 16
def Window.width (x : Window) : Nat := bitsOf x.rg.toNat 15 0
def Window.ow (x : Window) : Nat := bitsOf x.rp.toNat 47 32
def Window.padLeft (x : Window) : Nat := bitsOf x.rp.toNat 31 28
def Window.padTop (x : Window) : Nat := bitsOf x.rp.toNat 27 24
def Window.dx (x : Window) : Nat := bitsOf x.rp.toNat 23 20 + 1
def Window.dy (x : Window) : Nat := bitsOf x.rp.toNat 19 16 + 1
def Window.sx (x : Window) : Nat := bitsOf x.rp.toNat 15 12 + 1
def Window.sy (x : Window) : Nat := bitsOf x.rp.toNat 11 8 + 1
def Window.kw (x : Window) : Nat := bitsOf x.rp.toNat 7 4 + 1
def Window.kh (x : Window) : Nat := bitsOf x.rp.toNat 3 0 + 1

/-- A PWIN field outside its range, or a reserved bit set (R203). -/
def Window.bad (x : Window) : Bool :=
  bitsOf x.rg.toNat 63 48 != 0 || bitsOf x.rp.toNat 63 48 != 0 || x.channels % 32 != 0 || x.channels == 0 ||
    x.height == 0 || x.width == 0 || x.ow == 0

/-- The bytes of the input map, with its scale plane when the format is scaled (R204). -/
def Window.mapBytes (x : Window) (code : Nat) : Nat :=
  let n := x.height * x.width * x.channels
  planeBytes code n + if fmtScaled code then n / 32 else 0

/-- The element number in the map that A[m][k] reads, or none outside the map (R204). -/
def Window.element (x : Window) (p0 k0 m k : Nat) : Option Nat :=
  let p := p0 + m
  let oy := p / x.ow
  let ox := p % x.ow
  let kk := k0 + k
  let c := kk % x.channels
  let t := kk / x.channels
  let y := Int.ofNat (oy * x.sy) - Int.ofNat x.padTop + Int.ofNat (t / x.kw * x.dy)
  let xx := Int.ofNat (ox * x.sx) - Int.ofNat x.padLeft + Int.ofNat (t % x.kw * x.dx)
  if y < 0 ∨ Int.ofNat x.height ≤ y ∨ xx < 0 ∨ Int.ofNat x.width ≤ xx then none
  else some ((y.toNat * x.width + xx.toNat) * x.channels + c)

/-! ### Dispatch -/

/-- A panel of 32 runs: its bytes with the scale plane (R185). -/
def panelBytes (code k : Nat) : Nat := planeBytes code (32 * k) + if fmtScaled code then k else 0

/-- A range that must start on 64 bytes and lie in the allocation. -/
def rangeBad (k : Core) (off n : Nat) : Bool := off % 64 != 0 || !k.inAlloc off n

/-- The checks of MMA, in the order of R213. -/
def checkMma (k : Core) (w : W64) : Option Nat :=
  let rung := k.region.map (fun r => r.rung)
  let a := resolveFormat (mmaFmtA w) rung
  let b := resolveFormat (mmaFmtB w) rung
  let v := (mmaRegs w).map k.areg
  let ra := (v.getD 0 0).toNat
  let rb := (v.getD 1 0).toNat
  let kk := (v.getD 2 0).toNat
  firstFailure
    [((mmaFmtA w == 0xF || mmaFmtB w == 0xF) && rung.isNone, 0x09),
     (strayBits w (fieldMask 63 20) || (pressGroup a b).isNone || kk % 32 != 0 || decide (65536 < kk) ||
       rcBad (v.getD 3 0) ||
       (mmaWindow w && (match k.window with
         | none => true
         | some x => (ra / 2 ^ 32) % 32 != 0 || decide (x.kh * x.kw * x.channels < ra / 2 ^ 32 + kk) ||
             decide (2 ^ 32 - 1 < ra % 2 ^ 32 + 31))), 0x03),
     ((if mmaWindow w then (match k.window with
         | none => true
         | some x => rangeBad k x.base.toNat (x.mapBytes a))
       else rangeBad k ra (panelBytes a kk)) || rangeBad k rb (panelBytes b kk), 0x05)]

/-- The output bytes of TOUT and TCVT; the ladder takes the size of rung 3 (R199). -/
def toutBytes (code : Nat) : Nat := if code = 0xF then 2048 else planeBytes code 1024 + if fmtScaled code then 32 else 0

/-- The format rules of TOUT and TCVT (R200): the combination of source, output and gauge is not permitted. -/
def toutBad (w : W64) : Bool :=
  let f := toutFmt w
  (if toutInt w then !(f == 0x0 || f == 0xC) else !(decide (f ≤ 0xB) || f == 0xF)) ||
    ((fmtScaled f || f == 0xF) && (toutGauge w).isNone)

/-- The checks of TOUT. -/
def checkTout (k : Core) (w : W64) : Option Nat :=
  let v := (toutRegs w).map k.areg
  firstFailure
    [(toutFmt w == 0xF && k.region.isNone, 0x09),
     (strayBits w (fieldMask 63 24) || toutBad w || rcBad (v.getD 1 0), 0x03),
     (rangeBad k (v.getD 0 0).toNat (toutBytes (toutFmt w)), 0x05)]

def tinFmt (w : W64) : Nat := bitsOf w.toNat 39 36
def tinAdd (w : W64) : Bool := bitOf w.toNat 35

/-- The checks of TIN (R201). -/
def checkTin (k : Core) (w : W64) : Option Nat :=
  firstFailure
    [(tinFmt w == 0xF && k.region.isNone, 0x09),
     (strayBits w (fieldMask 63 45 ||| fieldMask 39 35) || !(tinFmt w == 0x0 || tinFmt w == 0x1 || tinFmt w == 0xC), 0x03),
     (rangeBad k (k.areg (bitsOf w.toNat 49 45)).toNat (planeBytes (tinFmt w) 1024), 0x05)]

/-- The window a PWIN records: rg, rp and rbase. -/
def pwinWindow (k : Core) (w : W64) : Window := ⟨k.areg (wA w), k.areg (wB w), k.areg (wC w)⟩

/-- The checks of PWIN (R205). -/
def checkPwin (k : Core) (w : W64) : Option Nat :=
  firstFailure
    [(strayBits w (fieldMask 63 39) || (pwinWindow k w).bad, 0x03),
     ((pwinWindow k w).base.toNat % 64 != 0, 0x05)]

/-- The window stays as it is. -/
def keepWindow (k : Core) (_ : W64) : Option Window := k.window

/-- MMA: dispatched to the press. -/
def execMma (c : CoreId) (s : State) : Host.Outcome State Fault Refusal :=
  .next (s.engineDispatch c .press 0x01 checkMma mmaRegs keepWindow)
/-- TOUT. -/
def execTout (c : CoreId) (s : State) : Host.Outcome State Fault Refusal :=
  .next (s.engineDispatch c .press 0x02 checkTout toutRegs keepWindow)
/-- TIN: ri in bits [49:45]. -/
def execTin (c : CoreId) (s : State) : Host.Outcome State Fault Refusal :=
  .next (s.engineDispatch c .press 0x03 checkTin (fun w => [bitsOf w.toNat 49 45]) keepWindow)
/-- TZERO: a mask of tallies. -/
def execTzero (c : CoreId) (s : State) : Host.Outcome State Fault Refusal :=
  .next (s.engineDispatch c .press 0x04
    (fun _ w => firstFailure [(strayBits w (fieldMask 63 38), 0x03)]) (fun _ => []) keepWindow)
/-- PWIN: the sequencer records the window at dispatch (R203). -/
def execPwin (c : CoreId) (s : State) : Host.Outcome State Fault Refusal :=
  .next (s.engineDispatch c .press 0x05 checkPwin (fun w => [wA w, wB w, wC w]) (fun k w => some (pwinWindow k w)))

/-! ### Charges (R210) -/

/-- The group of an MMA, its ladder codes resolved. -/
def mmaGroup (q : QInstr) : Option Group :=
  pressGroup (resolveFormat (mmaFmtA q.word) q.rung) (resolveFormat (mmaFmtB q.word) q.rung)

/-- The charges of a press instruction: one unit a beat. -/
def pressCharges (q : QInstr) : List Charge :=
  let w := q.word
  match wOp w with
  | 0x01 =>
    match mmaGroup q with
    | some g => charge (g.beats (q.reg 2).toNat) (g.charge + if mmaWindow w then 2 else 0) 1 false
    | none => []
  | 0x02 => charge 32 8 1 false
  | 0x03 => charge 32 6 1 false
  | _ => []

/-! ### What a press instruction waits for (R206, R208) -/

/-- The tallies an instruction writes. -/
def pressWrites (q : QInstr) : List Nat :=
  let w := q.word
  match wOp w with
  | 0x01 => [mmaTd w]
  | 0x02 => if toutClear w then [toutTs w] else []
  | 0x03 => [mmaTd w]
  | 0x04 => (List.range 16).filter (fun i => bitOf w.toNat (38 + i))
  | _ => []

/-- Two ranges, each an offset and a length, share a byte. -/
def rangesMeet (a b : Nat × Nat) : Bool := decide (a.1 < b.1 + b.2) && decide (b.1 < a.1 + a.2)

/-- The scratchpad ranges an MMA or TIN reads. -/
def pressInputs (q : QInstr) : List (Nat × Nat) :=
  let w := q.word
  match wOp w with
  | 0x01 =>
    let a := resolveFormat (mmaFmtA w) q.rung
    let b := resolveFormat (mmaFmtB w) q.rung
    let kk := (q.reg 2).toNat
    (if mmaWindow w then (match q.window with | some x => [(x.base.toNat, x.mapBytes a)] | none => [])
      else [((q.reg 0).toNat, panelBytes a kk)]) ++ [((q.reg 1).toNat, panelBytes b kk)]
  | 0x03 => [((q.reg 0).toNat, planeBytes (tinFmt w) 1024)]
  | _ => []

/-- The scratchpad range a TOUT writes. -/
def pressOutput (q : QInstr) : List (Nat × Nat) :=
  if wOp q.word = 0x02 then [((q.reg 0).toNat, toutBytes (resolveFormat (toutFmt q.word) q.rung))] else []

/-- An instruction's first beat waits until an earlier one, still in flight, completes: a TOUT or TIN of a tally that it
writes, an MMA or TIN whose input a TOUT writes. -/
def pressWaits (earlier : List InFlight) (q : QInstr) : Bool :=
  let tally := match wOp q.word with
    | 0x02 => [toutTs q.word]
    | 0x03 => [mmaTd q.word]
    | _ => []
  earlier.any (fun f => (pressWrites f.q).any tally.contains ||
    (pressInputs q).any (fun i => (pressOutput f.q).any (rangesMeet i)))

/-! ### Block values (R189-R193) -/

/-- The sum of a block's products when all are exact: V of groups F8, F4 and I8, and of any block with a NaN or an
infinity. A block of zeros is −0 only when every product is. -/
def exactSum : List Val → Val
  | [] => .fin false 0 0
  | p :: ps => ps.foldl Val.add p

/-- The largest floor(log2) of the non-zero finite products. -/
def topExponent (ps : List Val) : Option Int :=
  ps.foldl (fun acc p => match p with
    | .fin _ m e => if m = 0 then acc else
        let l := Int.ofNat (Nat.log2 m) + e
        some (match acc with | some a => max a l | none => l)
    | _ => acc) none

/-- One product toward minus infinity onto multiples of 2^q: the multiple, and whether bits were lost. -/
def onGrid (q : Int) : Val → Int × Bool
  | .fin s m e =>
    if q ≤ e then (signedNat s (m * 2 ^ Int.toNat (e - q)), false)
    else
      let d := Int.ofNat (2 ^ Int.toNat (q - e))
      let n := signedNat s m
      (Int.fdiv n d, Int.fmod n d != 0)
  | _ => (0, false)

/-- V of groups F32 and F16 (R192): 64 significant bits below the largest product, and a sticky quarter. -/
def windowSum (ps : List Val) : Val :=
  if ps.any (fun p => p.isNan || p.isInf) then exactSum ps
  else match topExponent ps with
    | none => exactSum ps
    | some top =>
      let q := top - 62
      let ts := ps.map (onGrid q)
      let s := (ts.map (fun t => t.1)).foldl (· + ·) 0
      Val.ofInt (4 * s + if ts.any (fun t => t.2) then 1 else 0) (q - 2)

/-- V of a block in a group. Log entry 24. -/
def blockValue (g : Group) (ps : List Val) : Val :=
  match g with
  | .f32 => windowSum ps
  | .f16 => windowSum ps
  | _ => exactSum ps

/-- One element over the blocks from b on: `prods b` gives a block's products, `rnd b` its rounding. -/
def accumulate (g : Group) (prods : Nat → List Val) (rnd : Nat → Rnd) : Nat → Nat → W32 → W32
  | 0, _, t => t
  | n + 1, b, t => accumulate g prods rnd n (b + 1) (f32 (rnd b) ((vF32 t).add (blockValue g (prods b))))

/-- The signed value of INT32 bits, and an integer saturated to INT32: the bits, and whether it was outside. -/
def intOf32 (w : W32) : Int := w.toInt
def satInt32 (i : Int) : W32 × Bool :=
  if i < -2147483648 then (0x80000000, true)
  else if 2147483647 < i then (0x7FFFFFFF, true)
  else (BitVec.ofInt 32 i, false)

/-- The exact sum of a block's integer products. -/
def intSum (ps : List Val) : Int :=
  ps.foldl (fun acc p => match p with | .fin s m e => acc + signedNat s (m * 2 ^ Int.toNat e) | _ => acc) 0

/-- The same over INT32 (R191): saturated after each block. -/
def accumulateInt (prods : Nat → List Val) : Nat → Nat → W32 × Bool → W32 × Bool
  | 0, _, t => t
  | n + 1, b, t =>
    let r := satInt32 (intOf32 t.1 + intSum (prods b))
    accumulateInt prods n (b + 1) (r.1, t.2 || r.2)

/-! ### Completion -/

/-- A[m][k] of an MMA (R184, R185, R204). -/
def State.mmaA (s : State) (c : Nat) (q : QInstr) (code m k : Nat) : Val :=
  let base := s.allocBase c
  let kk := (q.reg 2).toNat
  if mmaWindow q.word then
    match q.window with
    | none => .nan
    | some x =>
      match x.element ((q.reg 0).toNat % 2 ^ 32) ((q.reg 0).toNat / 2 ^ 32) m k with
      | none => .fin false 0 0
      | some e =>
        let map := base + x.base.toNat
        let plane := planeBytes code (x.height * x.width * x.channels)
        tensorElem (fun i => s.byte (map + i)) (fun i => s.byte (map + plane + i)) code e
  else
    let a := base + (q.reg 0).toNat
    tensorElem (fun i => s.byte (a + i)) (fun i => s.byte (a + planeBytes code (32 * kk) + i)) code (m * kk + k)

/-- B[k][n] of an MMA. -/
def State.mmaB (s : State) (c : Nat) (q : QInstr) (code n k : Nat) : Val :=
  let b := s.allocBase c + (q.reg 1).toNat
  let kk := (q.reg 2).toNat
  tensorElem (fun i => s.byte (b + i)) (fun i => s.byte (b + planeBytes code (32 * kk) + i)) code (n * kk + k)

/-- The products of block b of element (m, n). -/
def State.mmaProducts (s : State) (c : Nat) (q : QInstr) (g : Group) (ca cb m n b : Nat) : List Val :=
  let kk := (q.reg 2).toNat
  let lo := b * g.depth
  (List.range (min g.depth (kk - lo))).map (fun i => (s.mmaA c q ca m (lo + i)).mul (s.mmaB c q cb n (lo + i)))

/-- The blocks of an MMA. -/
def Group.blocks (g : Group) (k : Nat) : Nat := (k + g.depth - 1) / g.depth

/-- Element e of the tally after the first blocks of an MMA, and whether it saturated. -/
def State.mmaElement (s : State) (c : Nat) (f : InFlight) (g : Group) (ca cb blocks e : Nat) : W32 × Bool :=
  let q := f.q
  let k := s.core c
  let kk := (q.reg 2).toNat
  let t := if mmaAcc q.word then k.tile (mmaTd q.word) e else 0
  let prods := s.mmaProducts c q g ca cb (e / 32) (e % 32)
  if kk = 0 then (t, false)
  else match g with
    | .i8 => accumulateInt prods blocks 0 (t, false)
    | g =>
      let key := if k.tallyRne then none else some (srKey f c (q.reg 3))
      (accumulate g prods (fun b => rndAt key b e) blocks 0 t, false)

/-- Write the elements of a tile, from element e on. -/
def Core.setTileFrom (k : Core) (t : Nat) : Nat → List W32 → Core
  | _, [] => k
  | e, v :: vs => Core.setTileFrom (k.setTile t e v) t (e + 1) vs

/-- The elements of a tile in order. -/
def Core.tileElems (k : Core) (t : Nat) : List W32 := (List.range 1024).map (k.tile t)

def isNan32 (w : W32) : Bool := (vF32 w).isNan
def isInf32 (w : W32) : Bool := (vF32 w).isInf

/-- Count an MMA or TIN in PRS_NONFINITE (R194). -/
def Core.countNonfinite (k : Core) (int sat : Bool) (es : List W32) : Core :=
  { k with pressNan := satCount (k.pressNan + boolBit (!int && es.any isNan32))
           pressInf := satCount (k.pressInf + boolBit (!int && es.any isInf32))
           pressSat := satCount (k.pressSat + boolBit (int && sat)) }

/-- Put a tally's new elements, count them, and write the saturation event of R191 and R201. -/
def State.setTally (s : State) (c : Nat) (f : InFlight) (td : Nat) (int : Bool) (es : List (W32 × Bool)) : State :=
  let sat := es.any (fun e => e.2)
  let vs := es.map (fun e => e.1)
  let s := s.setCore c (((s.core c).setTileFrom td 0 vs).countNonfinite int sat vs)
  if int && sat then s.coreEvent c f 0x02 0xFF 0xC else s

/-- The elements of the tally after the first blocks of an MMA. -/
def State.mmaElements (s : State) (c : Nat) (f : InFlight) (g : Group) (blocks : Nat) : List (W32 × Bool) :=
  let ca := resolveFormat (mmaFmtA f.q.word) f.q.rung
  let cb := resolveFormat (mmaFmtB f.q.word) f.q.rung
  (List.range 1024).map (s.mmaElement c f g ca cb blocks)

/-- MMA at its completion. -/
def State.finishMma (s : State) (c : Nat) (f : InFlight) : State :=
  match mmaGroup f.q with
  | none => s
  | some g => s.setTally c f (mmaTd f.q.word) (g == .i8) (s.mmaElements c f g (g.blocks (f.q.reg 2).toNat))

/-- An MMA abandoned after some of its blocks: its tally has what they gave (R214). Log entry 31. -/
def State.partMma (s : State) (c : Nat) (f : InFlight) (g : Group) (blocks : Nat) : State :=
  s.setCore c ((s.core c).setTileFrom (mmaTd f.q.word) 0 ((s.mmaElements c f g blocks).map (fun e => e.1)))

/-- Convert a tally and write it into the scratchpad: TOUT, and TCVT of the vector engine (R200, R228). -/
def State.finishTout (s : State) (c : Nat) (f : InFlight) : State :=
  let w := f.q.word
  let code := resolveFormat (toutFmt w) f.q.rung
  let es := (s.core c).tileElems (toutTs w)
  let off := (f.q.reg 0).toNat
  let clear := fun (s : State) =>
    if toutClear w then s.setCore c ((s.core c).setTileFrom (toutTs w) 0 (List.replicate 1024 0)) else s
  let vals := es.map (fun e => if toutInt w then Val.ofInt (intOf32 e) 0 else vF32 e)
  if code = 0xC ∨ (code = 0x0 ∧ !toutInt w) then
    let s := s.allocWrite c off (es.flatMap (fun e => leBytes 4 e.toNat))
    let s := match toutGauge w with
      | some g => s.updateGauge c g (fun x => x.raisePeak (largestMag vals))
      | none => s
    clear s
  else
    let key := if toutRne w then none else some (srKey f c (f.q.reg 1))
    let r := convert code f.scale (toutFmt w == 0xF && !f.gaugeEmpty) (rndAt key 0) vals
    clear ((s.allocWrite c off (r.planes code)).finishConversion c f (toutFmt w) code (toutGauge w) false r)

/-- One element of a TIN: the tally's element t and the input bits x (R201). -/
def tinElement (code : Nat) (add : Bool) (t : W32) (x : Nat) : W32 × Bool :=
  if code = 0xC then
    if add then satInt32 (intOf32 t + signedOf 32 x) else (BitVec.ofNat 32 x, false)
  else
    let v := fmtDecode code x
    (f32 .rne (if add then (vF32 t).add v else v), false)

/-- TIN at its completion. -/
def State.finishTin (s : State) (c : Nat) (f : InFlight) : State :=
  let w := f.q.word
  let a := s.allocBase c + (f.q.reg 0).toNat
  let es := (List.range 1024).map (fun e =>
    tinElement (tinFmt w) (tinAdd w) ((s.core c).tile (mmaTd w) e) (elemBits (fun i => s.byte (a + i)) (tinFmt w) e))
  s.setTally c f (mmaTd w) (tinFmt w == 0xC) es

/-- TZERO at its completion: every bit of each named tally is zero (R202). -/
def State.finishTzero (s : State) (c : Nat) (f : InFlight) : State :=
  s.forEach ((List.range 16).filter (fun i => bitOf f.q.word.toNat (38 + i))) (fun s i =>
    s.setCore c ((s.core c).setTileFrom i 0 (List.replicate 1024 0)))

/-- A press instruction at its completion (R198-R203). -/
def State.finishPress (s : State) (c : Nat) (f : InFlight) : State :=
  match wOp f.q.word with
  | 0x01 => s.finishMma c f
  | 0x02 => s.finishTout c f
  | 0x03 => s.finishTin c f
  | 0x04 => s.finishTzero c f
  | _ => s

end Sys2Proof.Machine
end

