-- ==== Sys2Proof/Machine/Sems.lean ====
section
/-!
DEFINITION. Physical semaphores through a context's table (R290, R295), the completion of the oldest instruction of a queue
(R124), and express shaping (R421).
-/
namespace Sys2Proof.Machine

/-- The physical semaphore of virtual identifier i in core c's context. -/
def State.sem (s : State) (c i : Nat) : W16 :=
  nget (fun _ => 0) (s.cluster (c / 8)).sems ((s.core c).semMap.getD i 0)

def State.setSem (s : State) (c i : Nat) (v : W16) : State :=
  let cl := s.cluster (c / 8)
  s.setCluster (c / 8) { cl with sems := nset (fun _ => 0) cl.sems ((s.core c).semMap.getD i 0) v }

/-- One increment of a semaphore, checked against the value that the operations before it left (R297); a sum above 65,535
leaves it unchanged and faults the context (R295). -/
def State.semAdd (s : State) (c i n index : Nat) : State :=
  if 65535 < (s.sem c i).toNat + n then s.enterFault c 0x0502 index
  else s.setSem c i (BitVec.ofNat 16 ((s.sem c i).toNat + n))

/-- Increments of a context's semaphores apply: it is live, or it faulted in this very cycle, in which a refused increment
prevents no later one (R297). Log entry 25. -/
def State.takesSignals (s : State) (c : Nat) : Bool :=
  (s.core c).live || ((s.core c).ctx == .faulted && (s.core c).faultedAt == s.now)

/-- The oldest instruction of an engine completes: it leaves, it counts, and barriers and regions that waited for it go on. -/
def State.completeHead (s : State) (c : Nat) (e : Engine) : State :=
  let k := s.core c
  s.setCore c (Core.closeRegion (Core.releaseBarriers
    { k with flight := k.flight.set e ((k.flight.get e).drop 1)
             completed := k.completed.set e (k.completed.get e + 1)
             retired := k.retired.set e (satCount (k.retired.get e + 1)) }))

/-- The express bucket of a cluster covers n bytes of a basin's class 0 traffic; a basin with rate zero is not shaped.
Log entry 48. -/
def State.expressCovers (s : State) (b k n : Nat) : Bool :=
  bsnRate (s.sheetsOn (k / 32)) b == 0 || decide (n ≤ (s.cluster k).express)

/-- Take n bytes from the bucket after a wait since a moment, or count the demotion (R421). Log entry 48. -/
def State.takeExpress (s : State) (b k n : Nat) (since : Option Nat) : State :=
  if bsnRate (s.sheetsOn (k / 32)) b = 0 then
    s.setBasin b { s.basin b with expressDemoted := satCount ((s.basin b).expressDemoted + 1) }
  else
    let held := match since with | some t => s.now - t | none => 0
    (s.setCluster k { s.cluster k with express := (s.cluster k).express - n }).setBasin b
      { s.basin b with expressHold := satCount ((s.basin b).expressHold + held) }

end Sys2Proof.Machine
end

