-- ==== Sys2Proof/Machine/Barge.lean ====
section
/-!
DEFINITION. Barges (09_barges_memory): the dispatch of BRG and BLIN, the descriptor and its checks (R268-R285), the shapes and
their order (R270), charges (R280), the move itself with poison (R283), and the ends of a barge. Beside them the trap of a
Dalpa load on poison and the patrol scrub.
-/
namespace Sys2Proof.Machine

/-! ### Descriptors (R267, R268) -/

/-- The descriptor in 128 bytes. -/
def Desc.ofBytes (b : Bytes) : Desc :=
  let w64 := fun o => BitVec.ofNat 64 (field b o 8)
  let w8 := fun o => BitVec.ofNat 8 (field b o 1)
  { version := field b 0 2, shape := field b 2 1, spaces := w8 3, control := w8 4, rsv05 := w8 5, semaphore := w8 6,
    signal := w8 7, source := w64 8, dest := w64 0x10, l0 := field b 0x18 4, rsv1c := BitVec.ofNat 32 (field b 0x1C 4),
    n1 := field b 0x20 4, n2 := field b 0x24 4, n3 := field b 0x28 4, width := field b 0x2C 4, s1 := w64 0x30,
    s2 := w64 0x38, s3 := w64 0x40, d1 := w64 0x48, d2 := w64 0x50, d3 := w64 0x58, expected := w64 0x60,
    alive := BitVec.ofNat 16 (field b 0x68 2), unit := w8 0x6A, algorithm := w8 0x6B,
    flow := BitVec.ofNat 16 (field b 0x6C 2), rsv6e := field b 0x6E 18 }

/-- A linear barge that an instruction describes itself (R267). -/
def Desc.linear (src dst : W64) (n spaces control semaphore signal : Nat) : Desc :=
  { version := 1, shape := 0, spaces := BitVec.ofNat 8 spaces, control := BitVec.ofNat 8 control, rsv05 := 0,
    semaphore := BitVec.ofNat 8 semaphore, signal := BitVec.ofNat 8 signal, source := src, dest := dst, l0 := n,
    rsv1c := 0, n1 := 0, n2 := 0, n3 := 0, width := 0, s1 := 0, s2 := 0, s3 := 0, d1 := 0, d2 := 0, d3 := 0,
    expected := 0, alive := 0, unit := 0, algorithm := 0, flow := 0, rsv6e := 0 }

def Desc.srcSpace (d : Desc) : Nat := bitsOf d.spaces.toNat 1 0
def Desc.dstSpace (d : Desc) : Nat := bitsOf d.spaces.toNat 3 2
def Desc.idxSpace (d : Desc) : Nat := bitsOf d.spaces.toNat 5 4
def Desc.cls (d : Desc) : Nat := bitsOf d.control.toNat 1 0
def Desc.tier (d : Desc) : Nat := bitsOf d.control.toNat 3 2
def Desc.coherent (d : Desc) : Bool := bitOf d.control.toNat 4
def Desc.framed (d : Desc) : Bool := bitOf d.control.toNat 5
def Desc.signals (d : Desc) : Bool := bitOf d.signal.toNat 7
def Desc.increment (d : Desc) : Nat := bitsOf d.signal.toNat 6 0

/-- The total of R270. -/
def Desc.total (d : Desc) : Nat :=
  match d.shape with
  | 1 => d.l0 * d.n1 * d.n2 * d.n3
  | 2 => d.l0 * d.n1
  | 3 => d.l0 * d.n1 * d.n2
  | _ => d.l0

/-! ### Instructions (R265-R267, R278) -/

/-- BRG's descriptor offset: ra + imm32. -/
def brgOffset (ra : W64) (w : W64) : W64 := ra + sext64 32 (bitsOf w.toNat 48 17)
def brgLocal (w : W64) : Bool := bitOf w.toNat 16

def checkBrg (k : Core) (w : W64) : Option Nat :=
  firstFailure
    [(strayBits w (fieldMask 63 16), 0x03),
     (rangeBad k (brgOffset (k.areg (wA w)) w).toNat 128, 0x05),
     (k.region.isSome && !brgLocal w, 0x08)]

def blinSignal (w : W64) : Bool := bitOf w.toNat 29
def blinSem (w : W64) : Nat := bitsOf w.toNat 28 21
def blinClass (w : W64) : Nat := bitsOf w.toNat 34 33
def blinTier (w : W64) : Nat := bitsOf w.toNat 32 31

def checkBlin (k : Core) (w : W64) : Option Nat :=
  firstFailure
    [(strayBits w (fieldMask 63 21) || bitsOf w.toNat 38 37 == 3 || bitsOf w.toNat 36 35 == 3 || blinClass w == 3 ||
       blinTier w == 3 || (blinTier w == 1 && blinClass w != 0) || (!blinSignal w && blinSem w != 0), 0x03),
     ((bitsOf w.toNat 38 37 == 1 && !k.inAlloc (k.areg (wA w)).toNat (k.areg (wC w)).toNat) ||
       (bitsOf w.toNat 36 35 == 1 && !k.inAlloc (k.areg (wB w)).toNat (k.areg (wC w)).toNat), 0x05),
     (k.region.isSome && (bitsOf w.toNat 36 35 != 1 || blinSignal w), 0x08)]

/-- BRG: dispatched to the barge port. -/
def execBrg (c : CoreId) (s : State) : Host.Outcome State Fault Refusal :=
  .next (s.engineDispatch c .barge 0x01 checkBrg (fun w => [wA w]) keepWindow)
/-- BLIN: rsrc, rdst, rlen. -/
def execBlin (c : CoreId) (s : State) : Host.Outcome State Fault Refusal :=
  .next (s.engineDispatch c .barge 0x02 checkBlin (fun w => [wA w, wB w, wC w]) keepWindow)

/-- The descriptor of a barge instruction, read at issue (R266). -/
def State.instrDesc (s : State) (c : Nat) (q : QInstr) : Desc :=
  let w := q.word
  if wOp w = 1 then Desc.ofBytes (s.allocRead c (brgOffset (q.reg 0) w).toNat 128)
  else
    Desc.linear (q.reg 0) (q.reg 1) (q.reg 2).toNat (bitsOf w.toNat 38 37 + 4 * bitsOf w.toNat 36 35)
      (blinClass w + 4 * blinTier w + 16 * bitsOf w.toNat 30 30) (blinSem w) (if blinSignal w then 0x81 else 0)

/-! ### Runs and beats (R270) -/

/-- An address of 64 bits. -/
def wrap64 (i : Int) : Nat := (BitVec.ofInt 64 i).toNat

/-- The runs of a barge in order: source, or none for zero padding, and destination. `index` is a gather's table. -/
def Desc.runs (d : Desc) (index : List Nat) : List (Option Nat × Nat) :=
  let src := Int.ofNat d.source.toNat
  let dst := Int.ofNat d.dest.toNat
  let mul := fun (i : Nat) (w : W64) => Int.ofNat i * w.toInt
  match d.shape with
  | 1 =>
    (List.range d.n3).flatMap fun i3 => (List.range d.n2).flatMap fun i2 => (List.range d.n1).map fun i1 =>
      (some (wrap64 (src + mul i3 d.s3 + mul i2 d.s2 + mul i1 d.s1)),
       wrap64 (dst + mul i3 d.d3 + mul i2 d.d2 + mul i1 d.d1))
  | 2 =>
    index.zipIdx.map fun p =>
      (if p.1 = 0xFFFFFFFF then none else some (wrap64 (src + mul p.1 d.s2)), wrap64 (dst + mul p.2 d.d1))
  | 3 =>
    let x0 := signedOf 32 (bitsOf d.s3.toNat 31 0)
    let y0 := signedOf 32 (bitsOf d.s3.toNat 63 32)
    (List.range d.n1).flatMap fun r => (List.range d.n2).map fun c =>
      let y := y0 + Int.ofNat r
      let x := x0 + Int.ofNat c
      (if y < 0 ∨ Int.ofNat d.n3 ≤ y ∨ x < 0 ∨ Int.ofNat d.width ≤ x then none
        else some (wrap64 (src + y * d.s1.toInt + x * d.s2.toInt)),
       wrap64 (dst + mul r d.d1 + mul c d.d2))
  | _ => [(some src.toNat, dst.toNat)]

/-- One beat: what one aligned 64-byte piece of the destination receives (R277, R286). -/
structure Beat where
  src : Option Nat
  dst : Nat
  len : Nat
  deriving DecidableEq, Repr

/-- The beats of a run of n bytes; `fuel` bounds their number. Log entry 20. -/
def beatsOf : Nat → Option Nat → Nat → Nat → List Beat
  | 0, _, _, _ => []
  | f + 1, src, dst, n =>
    if n = 0 then []
    else
      let k := pieceLen dst n
      ⟨src, dst, k⟩ :: beatsOf f (src.map (· + k)) (dst + k) (n - k)

/-- Log entry 20. -/
def Desc.beats (d : Desc) (index : List Nat) : List Beat :=
  if d.total = 0 then [] else (d.runs index).flatMap (fun r => beatsOf (d.l0 / 64 + 2) r.1 r.2 d.l0)

/-! ### Addresses -/

/-- For whom a barge moves: its basin, its core's context when it has one, and the cluster whose engine moves it. -/
structure Mover where
  basin : Nat
  core : Option Nat
  cluster : Nat
  deriving DecidableEq, Repr

/-- The physical address of an address field; an offset of space 1 or 2 outside its bounds has none (R269). -/
def State.spaceAddr (s : State) (m : Mover) (space : Nat) (write : Bool) (a : Nat) : Except Nat Nat :=
  match space with
  | 0 => s.accessVia (some m.cluster) m.basin write a
  | 1 => match m.core with
    | some c => if a < (s.core c).allocSize then .ok (s.allocBase c + a) else .error 0x04
    | none => .error 0x04
  | _ => if a < 0x400000 then .ok (poolBase m.cluster + a) else .error 0x04

/-- The pieces of n bytes: the physical address and the length of each; `fuel` bounds their number. -/
def State.spacePieces (s : State) (m : Mover) (space : Nat) : Nat → Nat → Nat → Except Nat (List (Nat × Nat))
  | 0, _, _ => .ok []
  | f + 1, a, n =>
    if n = 0 then .ok []
    else match s.spaceAddr m space false a with
      | .error d => .error d
      | .ok pa =>
        match State.spacePieces s m space f (a + pieceLen a n) (n - pieceLen a n) with
        | .error d => .error d
        | .ok l => .ok ((pa, pieceLen a n) :: l)

/-- The bytes of a piece as a barge reads them, and whether they are poisoned: a coherent barge sees what a Dalpa cache holds
in place of the memory (R264, R283). -/
def State.pieceRead (s : State) (coherent : Bool) (p : Nat × Nat) : Bytes × Bool :=
  if coherent then
    (s.coherentBytes p.1 p.2, s.poisoned p.1 && !s.caches.any (fun e => e.line == p.1 / 64 && e.dirty))
  else (s.readBytes p.1 p.2, s.poisoned p.1)

/-- A gather's index table; a barge that moves nothing reads none. -/
def State.bargeIndex (s : State) (m : Mover) (d : Desc) : Except Nat (List Nat) :=
  if d.shape ≠ 2 ∨ d.total = 0 then .ok []
  else match s.spacePieces m d.idxSpace (4 * d.n1 / 64 + 2) d.s1.toNat (4 * d.n1) with
    | .error e => .error e
    | .ok ps =>
      let rs := ps.map (s.pieceRead d.coherent)
      if rs.any (fun r => r.2) then .error 0x0A
      else
        let bs := rs.flatMap (fun r => r.1)
        .ok ((List.range d.n1).map (fun i => field bs (4 * i) 4))

/-! ### Checks before any byte moves (R285) -/

/-- A field that the shape does not use, or a reserved field, is set. -/
def Desc.unusedSet (d : Desc) : Bool :=
  let z := fun (w : W64) => w != 0
  d.version != 1 || d.rsv05 != 0 || d.rsv1c != 0 || d.rsv6e != 0 || bitsOf d.spaces.toNat 7 6 != 0 ||
    bitsOf d.control.toNat 7 6 != 0 || (d.shape != 2 && d.idxSpace != 0) ||
    (match d.shape with
      | 0 => d.n1 != 0 || d.n2 != 0 || d.n3 != 0 || d.width != 0 || z d.s1 || z d.s2 || z d.s3 || z d.d1 || z d.d2 || z d.d3
      | 1 => d.width != 0
      | 2 => d.n2 != 0 || d.n3 != 0 || d.width != 0 || z d.s3 || z d.d2 || z d.d3
      | 3 => z d.d3
      | _ => false) ||
    (!d.signals && (d.signal != 0 || d.semaphore != 0)) ||
    (if d.framed then d.algorithm == 0 && bitsOf d.expected.toNat 63 32 != 0
      else z d.expected || d.alive != 0 || d.unit != 0 || d.algorithm != 0 || d.flow != 0)

/-- A range of space 1 or 2 outside its bounds. -/
def State.spaceBad (s : State) (m : Mover) (space a n : Nat) : Bool :=
  match space with
  | 0 => false
  | 1 => match m.core with
    | some c => !(s.core c).inAlloc a n
    | none => false
  | _ => m.core.isSome && (decide (0x400000 ≤ a) || decide (0x400000 < a + n))

/-- A write into the window space that covers part of a gauge entry of some window (R257). -/
def gaugePart (a n : Nat) : Bool :=
  (List.range 128).any (fun c =>
    let file := 2 ^ 47 + c * 0x1000000 + 0xC00000
    let lo := max a file
    let hi := min (a + n) (file + 0x1000)
    decide (lo < hi) && ((lo - file) % 16 != 0 || (hi - file) % 16 != 0))

/-- A basin address whose top bits are set, or a window the basin does not own (R259). -/
def windowBad (t : Sheets) (b a n : Nat) : Bool :=
  let last := a + max n 1 - 1
  decide (2 ^ 48 ≤ last) ||
    (decide (2 ^ 47 ≤ last) &&
      (List.range ((last - 2 ^ 47) / 0x1000000 - (a - 2 ^ 47) / 0x1000000 + 1)).any (fun i =>
        let c := (a - 2 ^ 47) / 0x1000000 + i
        decide (128 ≤ c) || !bsnHasCluster t b c))

/-- The spans a barge reads and writes: space, address, length, and whether it writes. Of one that moves nothing the base
addresses are spans without bytes; a gather whose index table cannot be read has its destinations only. -/
def State.bargeSpans (s : State) (m : Mover) (d : Desc) : List (Nat × Nat × Nat × Bool) :=
  let table := if d.shape = 2 then [(d.idxSpace, d.s1.toNat, if d.total = 0 then 0 else 4 * d.n1, false)] else []
  let index := match s.bargeIndex m d with | .ok l => l | .error _ => List.replicate d.n1 0xFFFFFFFF
  table ++
    if d.total = 0 then [(d.srcSpace, d.source.toNat, 0, false), (d.dstSpace, d.dest.toNat, 0, true)]
    else (d.runs index).flatMap (fun r =>
      (match r.1 with | some a => [(d.srcSpace, a, d.l0, false)] | none => []) ++ [(d.dstSpace, r.2, d.l0, true)])

/-- The checks made before any byte moves, in ascending order; 0 when all pass. -/
def State.bargeVerdict (s : State) (m : Mover) (d : Desc) (isLocal : Bool) : Nat :=
  let spans := s.bargeSpans m d
  let ring := m.core.isNone
  (firstFailure
    [(d.unusedSet, 0x01),
     (decide (3 < d.shape) || d.srcSpace == 3 || d.dstSpace == 3 || d.idxSpace == 3 ||
       (d.framed && decide (1 < d.algorithm.toNat)) || decide (2 ^ 40 < d.total), 0x02),
     (d.cls == 3 || d.tier == 3 || (d.tier == 1 && d.cls != 0) || (d.cls == 0 && decide (4096 < d.total)), 0x03),
     (spans.any (fun p => s.spaceBad m p.1 p.2.1 p.2.2.1 || (p.1 == 0 && p.2.2.2 && gaugePart p.2.1 p.2.2.1)), 0x04),
     (spans.any (fun p => p.1 == 0 && windowBad (s.sheetsOn (m.cluster / 32)) m.basin p.2.1 p.2.2.1), 0x05),
     (d.signals && (d.increment == 0 ||
       (match m.core with | some c => decide ((s.core c).semCount ≤ d.semaphore.toNat) | none => false)), 0x0B),
     (ring && (d.spaces != 0 || d.signals), 0x0C),
     (isLocal && (d.dstSpace != 1 || d.signals || d.framed), 0x0D)]).getD 0

/-! ### Charges (R280) -/

/-- The charge of one end of a beat. -/
def endCharge (cluster : Nat) (pa : Nat) : Nat :=
  let die := cluster / 32
  let window := fun c => if c = cluster then 1 else if c / 32 = die then 2 else 4
  match placeOf pa with
  | .hbm d _ => if d = die then 3 else 4
  | .ddr _ _ => 5
  | .cxl _ _ => 5
  | .pool c _ => window c
  | .scratch k _ => window (k / 8)
  | .gauge c _ => window c
  | .unmapped => 1

/-- The charge of a beat by its farther end; none when the beat will fail. Log entry 20. -/
def State.beatCharge (s : State) (m : Mover) (d : Desc) (b : Beat) : Option Nat :=
  match s.spaceAddr m d.dstSpace true b.dst with
  | .error _ => none
  | .ok dst =>
    match b.src with
    | none => some 1
    | some a =>
      match s.spaceAddr m d.srcSpace false a with
      | .error _ => none
      | .ok src => some (max (endCharge m.cluster dst) (endCharge m.cluster src))

/-- Append a beat to a list of charges, joined to an equal last one. -/
def addCharge (tier2 : Bool) (l : List Charge) (ch : Nat) : List Charge :=
  match l with
  | x :: rest => if x.each = ch then { x with units := x.units + 1 } :: rest else ⟨1, ch, 1, tier2⟩ :: x :: rest
  | [] => [⟨1, ch, 1, tier2⟩]

/-- The charges of beats up to the first that will fail, newest first. Log entry 21. -/
def State.planBeats (s : State) (m : Mover) (d : Desc) (tier2 : Bool) : List Beat → List Charge → List Charge
  | [], acc => acc
  | b :: bs, acc =>
    match s.beatCharge m d b with
    | none => acc
    | some ch => State.planBeats s m d tier2 bs (addCharge tier2 acc ch)

/-- What the descriptor read of a barge is charged (R280). -/
def readCharge : Charge := ⟨1, 2, 1, false⟩

/-- All a barge pays: a descriptor that was read, then its beats. A tier 1 barge of a core pays from the reserved allotment
and so has none here (R272); a ring barge is charged at tier 0 (R281). -/
def State.bargeCharges (s : State) (m : Mover) (d : Desc) (read : Bool) (detail : Nat) : List Charge :=
  if m.core.isSome ∧ d.tier = 1 then []
  else
    let beats := if detail ≠ 0 then [] else match s.bargeIndex m d with
      | .ok l => d.beats l
      | .error _ => []
    (if read then [readCharge] else []) ++ (s.planBeats m d (m.core.isSome && d.tier == 2) beats []).reverse

/-! ### The move (R270, R277, R283) -/

/-- A move as it goes: the state, bytes moved, whether poison was read, the detail that ended it, the bytes written so far
(newest part first) for a check frame. -/
structure Move where
  s : State
  moved : Nat
  poisoned : Bool
  failed : Option Nat
  data : List Bytes

/-- The physical bytes of a barge's sources: where its destination meets them the bytes are open (R270). -/
def State.sourceSegs (s : State) (m : Mover) (d : Desc) (beats : List Beat) : List (Nat × Nat) :=
  beats.flatMap (fun b => match b.src with
    | none => []
    | some a => match s.spacePieces m d.srcSpace 3 a b.len with
      | .ok ps => ps
      | .error _ => [])

/-- Replace by open values the bytes that a write at pa lays over the barge's own source. Log entry 22. -/
def openOverlap (segs : List (Nat × Nat)) : State → Nat → Bytes → State × Bytes
  | s, _, [] => (s, [])
  | s, pa, b :: bs =>
    if segs.any (fun g => decide (g.1 ≤ pa) && decide (pa < g.1 + g.2)) then
      let r := openOverlap segs s.free.2 (pa + 1) bs
      (r.1, BitVec.ofNat 8 s.free.1 :: r.2)
    else
      let r := openOverlap segs s (pa + 1) bs
      (r.1, b :: r.2)

/-- Memory that carries poison. Log entry 90. -/
def holdsPoison (pa : Nat) : Bool :=
  match placeOf pa with
  | .hbm _ _ => true
  | .ddr _ _ => true
  | .cxl _ _ => true
  | _ => false

/-- Write one beat: a coherent write leaves no Dalpa copy of the line (R264). Log entry 22. -/
def State.beatStore (s : State) (d : Desc) (pa : Nat) (bs : Bytes) : State :=
  (if d.coherent then s.invalidateLine (pa / 64) else s).storePiece pa bs

/-- What the engine's cache holds after it has used an address of a space (R262). -/
def State.learnSpace (s : State) (m : Mover) (space a : Nat) : State :=
  if space = 0 then s.learn (some m.cluster) m.basin a else s

/-- What a coherent read leaves: no Dalpa cache holds the pieces dirty (R264). -/
def State.readCoherent (s : State) (coherent : Bool) (ps : List (Nat × Nat)) : State :=
  if coherent then s.forEach ps (fun s p => s.downgradeLine (p.1 / 64)) else s

/-- Write a beat some of whose source is poisoned: the clean bytes, and poison where the memory carries it (R283). -/
def State.beatPoisoned (s : State) (d : Desc) : Nat → List (Bytes × Bool) → State
  | _, [] => s
  | pa, r :: rs =>
    State.beatPoisoned (if r.2 then (if d.coherent then s.invalidateLine (pa / 64) else s) else s.beatStore d pa r.1) d
      (pa + r.1.length) rs

/-- Move one beat. -/
def Move.beat (m : Mover) (d : Desc) (segs : List (Nat × Nat)) (v : Move) (b : Beat) : Move :=
  if v.failed.isSome then v
  else
    let src : Except Nat (List (Nat × Nat)) := match b.src with
      | none => .ok []
      | some a => v.s.spacePieces m d.srcSpace 3 a b.len
    match src with
    | .error e => { v with failed := some e }
    | .ok ps =>
      let parts := match b.src with
        | none => [(List.replicate b.len 0, false)]
        | some _ => ps.map (v.s.pieceRead d.coherent)
      let s := v.s.readCoherent d.coherent ps
      let s := match b.src with
        | none => s
        | some a => s.learnSpace m d.srcSpace a
      match s.spaceAddr m d.dstSpace true b.dst with
      | .error e => { v with s := s, failed := some e }
      | .ok pa =>
        let s := s.learnSpace m d.dstSpace b.dst
        if parts.any (fun r => r.2) then
          let s := s.beatPoisoned d pa parts
          { v with s := if holdsPoison pa then s.addPoison (pa / 64) else s
                   moved := v.moved + b.len
                   poisoned := true }
        else
          let r := openOverlap segs s pa (parts.flatMap (fun r => r.1))
          { v with s := r.1.beatStore d pa r.2
                   moved := v.moved + b.len
                   data := if d.framed then r.2 :: v.data else [] }

/-- The bytes a check frame covers, in order. -/
def Move.bytes (v : Move) : Bytes := v.data.reverse.flatten

/-- Move a barge, or only its first beats. Log entries 13 and 21. -/
def State.moveBarge (s : State) (m : Mover) (d : Desc) (limit : Option Nat) : Move :=
  match s.bargeIndex m d with
  | .error e => ⟨s, 0, false, some e, []⟩
  | .ok index =>
    let all := d.beats index
    let segs := s.sourceSegs m d all
    (match limit with | some n => all.take n | none => all).foldl (Move.beat m d segs) ⟨s, 0, false, none, []⟩

/-- The detail a move ends with: poison met before another failure is reported first. Log entry 21. -/
def Move.detail (v : Move) : Option Nat := if v.poisoned then some 0x0A else v.failed

/-! ### The ends of a barge (R274-R276, R285) -/

/-- The mover of a core's barges. -/
def State.coreMover (s : State) (c : Nat) : Mover := ⟨(s.core c).basin, some c, c / 8⟩
def RingBarge.mover (r : RingBarge) : Mover := ⟨r.basin, none, r.cluster⟩

/-- The oldest barge of a ring on a cluster, and the others. -/
def State.ringHead (s : State) (b r k : Nat) : Option RingBarge :=
  s.ringBarges.find? (fun x => x.basin == b && x.ring == r && x.cluster == k)

def State.dropRing (s : State) (x : RingBarge) : State := { s with ringBarges := s.ringBarges.erase x }

/-- A core's oldest barge completes, unless it fails: every byte is visible, the check unit compares, then it signals
(R275). -/
def State.coreBargeComplete (s : State) (c : Nat) : Option State :=
  match (s.core c).flight.barge with
  | [] => none
  | f :: _ =>
    match f.desc with
    | none => none
    | some d =>
      let v := s.moveBarge (s.coreMover c) d none
      if f.charges ≠ [] ∨ f.stage ≠ 0 ∨ v.detail.isSome then none
      else
        let t := v.s
        let t := if d.framed then t.checkBarge (s.core c).basin (c / 256) d v.bytes else t
        let t := t.completeHead c .barge
        some (if d.signals then t.semAdd c d.semaphore.toNat d.increment f.q.index else t)

/-- A core's oldest barge fails, if it does: what it wrote stays, it never signals, the context faults (R285). -/
def State.coreBargeFail (s : State) (c : Nat) : Option State :=
  match (s.core c).flight.barge with
  | [] => none
  | f :: fs =>
    match f.desc with
    | none => none
    | some d =>
      let v := s.moveBarge (s.coreMover c) d none
      let detail := if f.charges ≠ [] then none else if f.stage ≠ 0 then some f.stage else v.detail
      detail.map (fun e =>
        let t := if f.stage ≠ 0 then s else v.s
        let t := if d.framed then t.skipBarge (s.core c).basin (c / 256) d else t
        let k := t.core c
        (t.setCore c { k with flight := k.flight.set .barge fs }).enterFault c (0x400 + e) f.q.index)

/-- A ring barge's own work goes on: its cluster answers and its basin is open. One that a recovery takes ends with the
recovery's code (R286, R469). -/
def State.ringRuns (s : State) (x : RingBarge) : Bool := s.clusterPresent x.cluster && (s.basin x.basin).st == .open

/-- A ring's oldest barge on a cluster completes or fails, into its record (R269, R419). -/
def State.ringBargeComplete (s : State) (x : RingBarge) : Option State :=
  let v := s.moveBarge x.mover x.desc none
  if !x.shaped ∨ x.charges ≠ [] ∨ x.detail ≠ 0 ∨ v.detail.isSome then none
  else
    let t := v.s.dropRing x
    let t := if x.desc.framed then t.checkBarge x.basin (x.cluster / 32) x.desc v.bytes else t
    some (t.complete x.ref (.done v.moved))

def State.ringBargeFail (s : State) (x : RingBarge) : Option State :=
  let v := s.moveBarge x.mover x.desc none
  let detail := if !x.shaped ∨ x.charges ≠ [] then none else if x.detail ≠ 0 then some x.detail else v.detail
  detail.map (fun e =>
    let t := (if x.detail ≠ 0 then s else v.s).dropRing x
    let t := if x.desc.framed then t.skipBarge x.basin (x.cluster / 32) x.desc else t
    t.complete x.ref ⟨3, 0x400 + e, 0, 0, if x.detail ≠ 0 then 0 else v.moved⟩)

/-! ### Credits of ring barges -/

/-- A ring barge pays up to n beats from its cluster's unreserved balance, at tier 0 (R281). Log entry 18. -/
def State.payRing (s : State) (x : RingBarge) (n : Nat) : State :=
  let cl := s.cluster x.cluster
  let r := payUnits (s.refill x.cluster) x.charges n ⟨0, cl.unreserved, 0⟩
  let y := { x with charges := r.left, paid := x.paid + r.paid
                    waitSince := if r.short then some (x.waitSince.getD s.now) else none }
  let s := s.setCluster x.cluster { cl with unreserved := r.purse.un, charged := cl.charged + r.purse.paid }
  let s := if r.short then s.markWaited x.cluster else s.endWait x.cluster x.waitSince
  { s with ringBarges := s.ringBarges.map (fun z => if z = x then y else z) }

/-- An event that presupposes what a ring barge has still to be charged. Log entry 18. -/
def State.catchUpRing (s : State) (x : RingBarge) : State :=
  if x.charges = [] ∨ !x.shaped ∨ x.waitSince.isSome then s else s.payRing x (unitsLeft x.charges)

/-- Let a ring barge of class 0 through when its express bucket covers it (R421). -/
def State.shapeRing (s : State) (x : RingBarge) : State :=
  if x.shaped then s
  else if !s.expressCovers x.basin x.cluster x.desc.total then
    { s with ringBarges := s.ringBarges.map (fun z => if z = x then
        { x with waitSince := some (x.waitSince.getD s.now) } else z) }
  else
    let s := s.takeExpress x.basin x.cluster x.desc.total x.waitSince
    { s with ringBarges := s.ringBarges.map (fun z => if z = x then { x with shaped := true, waitSince := none } else z) }

/-! ### The events -/

/-- An event of a context's oldest barge: what is still to be charged is charged first, and without credits it waits. -/
def State.coreBargeEvent (s : State) (c : Nat) (effect : State → Option State) : State :=
  if !(s.core c).live || !s.clocked c then s
  else
    let t := s.catchUp c .barge
    (effect t).getD (if (t.core c).waitsAt .barge then t else s)

/-- The same of a ring's oldest barge on a cluster. -/
def State.ringBargeEvent (s : State) (b r k : Nat) (effect : State → RingBarge → Option State) : State :=
  match s.ringHead b r k with
  | none => s
  | some x =>
    if !s.ringRuns x then s
    else
      let t := s.catchUpRing x
      match t.ringHead b r k with
      | none => s
      | some y => (effect t y).getD (if y.waitSince.isSome then t else s)

/-- BARGE_COMPLETE. Log entry 19. -/
def execBargeComplete (src : BargeSrc) (s : State) : Host.Outcome State Fault Refusal :=
  .next (match src with
    | .core c => s.coreBargeEvent c (fun t => t.coreBargeComplete c)
    | .ring b r k => s.ringBargeEvent b r k State.ringBargeComplete)

/-- BARGE_FAIL. Log entry 21. -/
def execBargeFail (src : BargeSrc) (s : State) : Host.Outcome State Fault Refusal :=
  .next (match src with
    | .core c => s.coreBargeEvent c (fun t => t.coreBargeFail c)
    | .ring b r k => s.ringBargeEvent b r k State.ringBargeFail)

/-! ### Memory errors (R282-R284, R410) -/

/-- A load of hart h consumes poison: exception 19, and ERR_HWADDR holds the basin address (R410). Without poison at the
address no trap is taken. Log entry 83. -/
def execPoisonLoadTrap (h : HartId) (va : W64) (ba : BitVec 48) (s : State) : Host.Outcome State Fault Refusal :=
  let b := (complexOwner (s.sheetsOn (complexDie (h / 36))) (h / 36)).getD 8
  .next (match s.translate b false ba.toNat with
    | .error _ => s
    | .ok pa =>
      if s.poisoned pa then
        s.setHart h { s.hart h with hwValid := true, hwAddr := BitVec.ofNat 48 (ba.toNat / 64 * 64),
                                    cause := some 19, xtval := va }
      else s)

/-- The counter index of the memory that holds an address: stacks 0-11, DDR channels 16-31 (R255, R256). -/
def State.memUnit (s : State) (pa : Nat) : Option (Nat × Nat) :=
  match placeOf pa with
  | .hbm d off => some (d, d * 3 + off / 4096 % 3)
  | .ddr pd off =>
    let n := mapWidth (s.sheetsOn (4 + pd)) pd
    some (4 + pd, 16 + 8 * pd + off / 0x4000000000 / n * n + off % (0x4000000000 * n) / 4096 % n)
  | _ => none

/-- A piece of memory is found uncorrectable: it is poisoned and recorded (R283). Log entries 82 and 90. -/
def State.poisonPiece (s : State) (piece : Nat) : State :=
  match s.memUnit (piece * 64) with
  | none => s
  | some (d, u) =>
    let die := s.die d
    let old := nget (fun _ => ((0 : W64), 0)) die.memUe u
    let now := (BitVec.ofNat 64 (piece * 64), satCount (old.2 + 1))
    (s.setDie d { die with memUe := nset (fun _ => ((0 : W64), 0)) die.memUe u now }).addPoison piece

/-- 24 hours in lock cycles of 1 µs. -/
def dayCycles : Nat := 86400000000

/-- A corrected error of a row: a row with three within 24 hours is recorded for post-package repair (R282). Log entry 82. -/
def Die.rowError (k : Die) (row now : Nat) : Die :=
  let l := (row, now) :: k.rowErrors.filter (fun e => decide (now - e.2 < dayCycles))
  { k with
    rowErrors := l
    rowRepairs := if 3 ≤ (l.filter (fun e => e.1 == row)).length ∧ !k.rowRepairs.contains row then k.rowRepairs ++ [row]
      else k.rowRepairs }

/-- A finding of the patrol scrub in one piece (R282-R284). Log entries 82 and 90. -/
def execPatrolScrub (piece : Nat) (found : ScrubFinding) (s : State) : Host.Outcome State Fault Refusal :=
  .next (match s.memUnit (piece * 64) with
    | none => s
    | some (d, u) =>
      let die := s.die d
      match found with
      | .clean => s
      | .corrected =>
        s.setDie d (({ die with memCe := nset (fun _ => 0) die.memCe u (satCount (nget (fun _ => 0) die.memCe u + 1)) } : Die).rowError
          (Config.rowOf piece) s.lockCycle)
      | .uncorrectable =>
        let s := s.poisonPiece piece
        let owner := (ownerOf (fun b => inBasinRanges (s.sheetsOn d) b (piece * 64))).getD 0xFF
        s.raise (if u < 16 then 0x0801 else 0x0802) d owner (u % 16) 0 (piece * 64))

end Sys2Proof.Machine
end

