-- ==== Sys2Proof/Machine/Endpapers.lean ====
section
/-!
DEFINITION. Endpapers (R462-R464): what they record of a core, their header and their rings, and the error logs (R453).
-/
namespace Sys2Proof.Machine

def CtxState.code : CtxState → Nat
  | .idle => 0
  | .loading => 1
  | .running => 2
  | .draining => 3
  | .faulted => 4

/-- The index of the oldest instruction of a queue that has not completed; 0xFFFF when there is none. Log entry 34. -/
def Core.headIndex (k : Core) (e : Engine) : Nat :=
  match k.flight.get e, k.queue.get e with
  | f :: _, _ => f.q.index
  | [], q :: _ => q.index
  | [], [] => 0xFFFF

/-- The sequencer index of a core record (R147, R463): the faulting instruction of a precise fault, which the sequencer
found, otherwise the next to dispatch. Log entry 34. -/
def Core.stopIndex (k : Core) : Nat :=
  match k.fault with
  | some code => if 0x100 ≤ code.toNat ∧ code.toNat < 0x110 then k.faultIndex else k.pc
  | none => k.pc

/-- The record of a core (R463), with the first 4 KiB of its allocation when it is a full one. Log entry 34. -/
def State.coreRec (s : State) (c : Nat) (full : Bool) : CoreRec :=
  let k := s.core c
  let cl := s.cluster (c / 8)
  { core := c, ctx := k.ctx.code, code := k.fault.getD 0, tag := k.tag, index := k.stopIndex,
    heads := ⟨k.headIndex .press, k.headIndex .vector, k.headIndex .barge, k.headIndex .sync⟩,
    rung := match k.region with | some r => r.rung | none => 0xFF
    levels := k.loops.reverse, semCount := k.semCount, firstBank := k.firstBank, bankCount := k.bankCount,
    retiredSeq := k.retiredSeq, retired := k.retired, waitGraph := k.deadlockGraph,
    sems := k.semMap.map (nget (fun _ => 0) cl.sems)
    head4k := if full then s.readBytes (scratchBase c + k.firstBank * 0x8000) 4096 else [] }

/-- Whether a core has a context that an endpaper records (R462). -/
def Core.recorded (k : Core) : Bool := k.ctx == .running || k.ctx == .draining || k.ctx == .faulted

/-- An endpaper about an error (R462). The next package-wide sequence number is its own. -/
def State.endpaper (s : State) (e : LogEntry) (scope merged : Nat) (preempted : W32) (log : List LogEntry)
    (full short : List Nat) : Endpaper :=
  let b := s.basin e.basin
  let named := decide (e.basin < 8)
  { scope := scope, die := if scope = 4 then 0xFF else e.die, seq := s.pkg.endpaperSeq, code := e.code, basin := e.basin,
    epoch := if named then b.epoch else 0, unit := e.unit, timebase := e.timebase,
    step := if named then b.step else 0
    ownerTag := if named then BitVec.ofNat 64 (bsnTag s.sheets e.basin) else 0
    serial := s.pkg.serial, quireSeq := s.pkg.quireSeq, merged := merged, preempted := preempted, setSeq := 0,
    log := log, full := full.map (fun c => s.coreRec c true), short := short.map (fun c => s.coreRec c false) }

/-- A log at its full size (R462): empty slots after its entries. -/
def padLog (n : Nat) (l : List LogEntry) : List LogEntry := l ++ List.replicate (n - l.length) .blank

/-- The length of an endpaper in bytes, and in 4 KiB places of its ring. -/
def Endpaper.length (e : Endpaper) : Nat :=
  256 + 32 * e.log.length + 5120 * e.full.length + 1024 * e.short.length
def Endpaper.places (e : Endpaper) : Nat := (e.length + 4095) / 4096

/-- The newest endpapers that fit a ring of n places; the oldest are overwritten first (R464). Log entry 74. -/
def fitRing : Nat → List Endpaper → List Endpaper
  | _, [] => []
  | n, e :: older => if e.places ≤ n then e :: fitRing (n - e.places) older else []

/-- Put an endpaper into a ring held newest first. -/
def pushRing (places : Nat) (ring : List Endpaper) (e : Endpaper) : List Endpaper := fitRing places (e :: ring)

/-- Count a stored endpaper. -/
def State.countEndpaper (s : State) : State := s.setPkg { s.pkg with endpaperSeq := s.pkg.endpaperSeq + 1 }

/-- No store is present: the head keeper keeps the header and the log, and raises 0x1004 (R467). Log entry 74. -/
def State.keepHeader (s : State) (e : Endpaper) : State :=
  ((s.setPkg { s.pkg with kept := { e with full := [], short := [] } :: s.pkg.kept }).countEndpaper).raise 0x1004 e.die
    e.basin e.unit.toNat 0 0

/-- Take an endpaper into the local ring of a die, 128 MiB. Log entry 74. -/
def State.storeLocal (s : State) (d : Nat) (e : Endpaper) : State :=
  if s.hbmPresent d then
    (s.setDie d { s.die d with localRing := pushRing 32768 (s.die d).localRing e }).countEndpaper
  else s.keepHeader e

/-- Take a die endpaper of a processor die into the processor region of a compute die, 64 MiB. Log entry 74. -/
def State.storeProc (s : State) (d : Nat) (e : Endpaper) : State :=
  (s.setDie d { s.die d with procRegion := pushRing 16384 (s.die d).procRegion e }).countEndpaper

/-- Take a die endpaper of the spine partner into the region that a compute die reserves for it, 64 MiB (R98). Log entry 74. -/
def State.storeSpine (s : State) (d : Nat) (e : Endpaper) : State :=
  (s.setDie d { s.die d with spineRegion := pushRing 16384 (s.die d).spineRegion e }).countEndpaper

/-! ### The layouts in bytes -/

/-- The 32 bytes of a log entry (R453). -/
def LogEntry.bytes (e : LogEntry) : Bytes :=
  leBytes 2 e.code.toNat ++ leBytes 1 e.scope ++ leBytes 1 e.state ++ leBytes 1 e.die ++ leBytes 1 e.basin ++
    leBytes 2 e.unit.toNat ++ leBytes 8 e.timebase.toNat ++ leBytes 4 e.endpaper.toNat ++ leBytes 4 e.data.toNat ++
    leBytes 8 e.addr.toNat

/-- Bytes padded with zeros to n. -/
def padTo (n : Nat) (bs : Bytes) : Bytes := bs ++ List.replicate (n - bs.length) 0

/-- A core record (R463): 1,024 bytes, or 5,120 with the first 4 KiB of the allocation. -/
def CoreRec.bytes (r : CoreRec) : Bytes :=
  let head := leBytes 2 r.core ++ leBytes 1 r.ctx ++ [0] ++ leBytes 2 r.code.toNat ++ leBytes 2 r.tag.toNat ++
    leBytes 2 r.index ++ leBytes 2 r.heads.press ++ leBytes 2 r.heads.vector ++ leBytes 2 r.heads.barge ++
    leBytes 2 r.heads.sync ++ leBytes 1 r.rung ++ leBytes 1 r.levels.length ++ leBytes 2 r.semCount ++
    leBytes 1 r.firstBank ++ leBytes 1 r.bankCount ++ leBytes 8 r.retiredSeq ++ leBytes 8 r.retired.press ++
    leBytes 8 r.retired.vector ++ leBytes 8 r.retired.barge ++ leBytes 8 r.retired.sync
  let levels := r.levels.flatMap (fun l => leBytes 2 l.start ++ leBytes 2 l.stop ++ leBytes 4 l.remaining ++ leBytes 4 l.iter ++ [0, 0, 0, 0])
  let graph := r.waitGraph.flatMap (fun w => leBytes 8 w.toNat)
  let sems := r.sems.flatMap (fun v => leBytes 2 v.toNat)
  padTo 1024 (padTo 512 (padTo 128 (padTo 64 head ++ levels) ++ graph) ++ sems) ++ r.head4k

/-- An endpaper (R462), its CRC over the bytes with the CRC field as zero. -/
def Endpaper.bytes (e : Endpaper) : Bytes :=
  let head := leBytes 4 0x50444E45 ++ leBytes 2 1 ++ leBytes 1 e.scope ++ leBytes 1 e.die ++ leBytes 4 e.length ++
    leBytes 4 e.seq.toNat ++ leBytes 2 e.code.toNat ++ leBytes 1 e.basin ++ [e.epoch] ++ leBytes 2 e.unit.toNat ++
    leBytes 2 e.full.length ++ leBytes 8 e.timebase.toNat ++ leBytes 8 e.step.toNat ++ leBytes 8 e.ownerTag.toNat ++
    leBytes 8 e.serial.toNat ++ leBytes 8 e.quireSeq.toNat ++ leBytes 2 e.short.length ++
    leBytes 2 (e.log.filter (fun x => x.code != 0)).length ++ leBytes 2 e.merged ++ [0, 0] ++
    leBytes 4 e.preempted.toNat ++ leBytes 4 e.setSeq.toNat
  let body := e.log.flatMap LogEntry.bytes ++ e.full.flatMap CoreRec.bytes ++ e.short.flatMap CoreRec.bytes
  let whole := fun (crc : Nat) => padTo 252 head ++ leBytes 4 crc ++ body
  whole (crc32c (whole 0)).toNat

/-! ### The logs and the error history (R453, R480) -/

/-- Copy an entry into the history: the newest first, the oldest of 4,096 overwritten and counted. Log entry 68. -/
def State.toHistory (s : State) (e : LogEntry) : State :=
  s.setPkg { s.pkg with
    history := (e :: s.pkg.history).take 4096, histCount := s.pkg.histCount + 1
    histLost := if 4096 ≤ s.pkg.histCount then satCount (s.pkg.histLost + 1) else s.pkg.histLost }

/-- The logs: a die's, or the package log. -/
def State.getLog (s : State) : Option Nat → List LogEntry
  | some d => (s.die d).log
  | none => s.pkg.log
def State.setLog (s : State) (w : Option Nat) (l : List LogEntry) : State :=
  match w with
  | some d => s.setDie d { s.die d with log := l }
  | none => s.setPkg { s.pkg with log := l }
def allLogs : List (Option Nat) := [some 0, some 1, some 2, some 3, some 4, some 5, none]

/-- The entries of every log that meet a condition take their last state, are copied, and leave. Log entry 68. -/
def State.settle (s : State) (p : LogEntry → Bool) (state : Nat) : State :=
  s.forEach allLogs (fun s w =>
    let gone := (s.getLog w).filter p
    (s.setLog w ((s.getLog w).filter (fun e => !p e))).forEach gone (fun s e => s.toHistory { e with state := state }))

/-- The entries of every log that meet a condition change in place, without a change of state. -/
def State.amend (s : State) (p : LogEntry → Bool) (f : LogEntry → LogEntry) : State :=
  s.forEach allLogs (fun s w => s.setLog w ((s.getLog w).map (fun e => if p e then f e else e)))

/-- The entries of every log that meet a condition take a state, and are copied. -/
def State.restate (s : State) (p : LogEntry → Bool) (state : Nat) : State :=
  let t := s.amend p (fun e => { e with state := state })
  t.forEach (allLogs.flatMap (fun w => (s.getLog w).filter p)) (fun s e => s.toHistory { e with state := state })

/-- A core's context recovery is resolved: it ends, and its entry leaves with its endpaper's sequence (R453). Log entry 69. -/
def State.resolveContext (s : State) (c : Nat) (seq : W32) : State :=
  let mine := fun (e : LogEntry) => e.scope == 0 && e.unit == BitVec.ofNat 16 c
  let t := (s.amend mine (fun e => { e with endpaper := seq })).settle mine 3
  t.setPkg { t.pkg with recoveries := t.pkg.recoveries.filter (fun r => !(r.scope == 0 && r.unit == c)) }

/-- The errors merged into a core's context recovery (R460). -/
def State.contextMerged (s : State) (c : Nat) : Nat :=
  ((s.pkg.recoveries.find? (fun r => r.scope == 0 && r.unit == c)).map (fun r => r.merged)).getD 0

end Sys2Proof.Machine
end

