-- ==== Sys2Proof/Machine/Sync.lean ====
section
/-!
DEFINITION. The sync queue (10_sync): its dispatch, what each instruction does at issue and at completion, remote signals,
kettle lines with their membership and releases, and the deadlock detector.
-/
namespace Sys2Proof.Machine

/-! ### Fields (R293) -/

/-- The identifier and the two 16-bit fields of SWAIT, SSIG and SSET. -/
def semId (w : W64) : Nat := bitsOf w.toNat 53 46
def semT (w : W64) : Nat := bitsOf w.toNat 45 30
def swaitD (w : W64) : Nat := bitsOf w.toNat 29 14
def swaitExternal (w : W64) : Bool := bitOf w.toNat 13
def srsigId (w : W64) : Nat := bitsOf w.toNat 48 41
def srsigInc (w : W64) : Nat := bitsOf w.toNat 40 25
def kLine (w : W64) : Nat := bitsOf w.toNat 53 49
def kbarWait (w : W64) : Bool := bitOf w.toNat 48
/-- Log entry 87. -/
def kShortFault (w : W64) : Bool := bitOf w.toNat 47

/-! ### Dispatch -/

/-- The checks of a sync instruction: reserved bits, a field out of range, and no place in a retry region (R135). -/
def checkSync (used : Nat) (bad : Core → W64 → Bool) (k : Core) (w : W64) : Option Nat :=
  firstFailure [(strayBits w used || bad k w, 0x03), (k.region.isSome, 0x08)]

def neverBad (_ : Core) (_ : W64) : Bool := false

/-- SWAIT. -/
def execSwait (c : CoreId) (s : State) : Host.Outcome State Fault Refusal :=
  .next (s.engineDispatch c .sync 0x01 (checkSync (fieldMask 63 13) neverBad) (fun _ => []) keepWindow)
/-- SSIG: an increment of 0 is refused at dispatch. -/
def execSsig (c : CoreId) (s : State) : Host.Outcome State Fault Refusal :=
  .next (s.engineDispatch c .sync 0x02 (checkSync (fieldMask 63 30) (fun _ w => semT w == 0)) (fun _ => []) keepWindow)
/-- SSET. -/
def execSset (c : CoreId) (s : State) : Host.Outcome State Fault Refusal :=
  .next (s.engineDispatch c .sync 0x03 (checkSync (fieldMask 63 30) neverBad) (fun _ => []) keepWindow)
/-- SRSIG: an increment of 0, or an rcore value that is no core number, is refused at dispatch. -/
def execSrsig (c : CoreId) (s : State) : Host.Outcome State Fault Refusal :=
  .next (s.engineDispatch c .sync 0x04
    (checkSync (fieldMask 63 25) (fun k w => srsigInc w == 0 || decide (1024 ≤ (k.areg (wA w)).toNat)))
    (fun w => [wA w]) keepWindow)
/-- KBAR. -/
def execKbar (c : CoreId) (s : State) : Host.Outcome State Fault Refusal :=
  .next (s.engineDispatch c .sync 0x10 (checkSync (fieldMask 63 47) neverBad) (fun _ => []) keepWindow)
/-- KWAIT: bit 48 is not one of its fields. -/
def execKwait (c : CoreId) (s : State) : Host.Outcome State Fault Refusal :=
  .next (s.engineDispatch c .sync 0x11 (checkSync (fieldMask 63 49 ||| fieldMask 47 47) neverBad) (fun _ => []) keepWindow)
/-- KJOIN. -/
def execKjoin (c : CoreId) (s : State) : Host.Outcome State Fault Refusal :=
  .next (s.engineDispatch c .sync 0x12 (checkSync (fieldMask 63 49) neverBad) (fun _ => []) keepWindow)
/-- KLEAVE. -/
def execKleave (c : CoreId) (s : State) : Host.Outcome State Fault Refusal :=
  .next (s.engineDispatch c .sync 0x13 (checkSync (fieldMask 63 49) neverBad) (fun _ => []) keepWindow)

/-! ### Kettle membership (R303, R304) -/

/-- An arrival not yet released: for the open generation, or held for the first one. -/
def KMember.outstanding (m : KMember) : Bool := m.arrived || m.held

/-- Record an arrival: a member's for the open generation, a joiner's held for its first. -/
def KMember.arrive (m : KMember) : KMember := if m.member then { m with arrived := true } else { m with held := true }

/-- KJOIN (R304): the new standing, or a refusal. Log entry 87. -/
def KMember.join (m : KMember) (assigned : Bool) : Option KMember :=
  if !assigned || m.joinPending then none
  else if m.member then (if m.leavePending then some { m with leavePending := false } else none)
  else some { m with joinPending := true }

/-- KLEAVE (R304). Log entry 87. -/
def KMember.leave (m : KMember) : Option KMember :=
  if m.joinPending then some { m with joinPending := false, held := false }
  else if m.member && !m.leavePending then some { m with leavePending := true }
  else none

/-! ### Issue -/

/-- A unit message (R386): a remote signal (code 1) or its acknowledgement (code 2) to a core of another die. The spec gives
its 16 bytes no layout, so they are free values. Log entry 106. -/
def State.unitMessage (s : State) (sender target code basin : Nat) : State :=
  if sender / 256 = target / 256 then s
  else
    let r := s.freeBytes 16
    let h := { plainHdr (sender / 256) (target / 256) with
      basin := Fin.ofNat 8 basin, epoch := (s.basin basin).epoch, addr := BitVec.ofNat 52 (target + 1024 * code) }
    r.1.sendToward (sender / 256) ⟨4, h, 0, r.2⟩

/-- What a sync instruction does as it issues: the state, and the stage it has reached (0 waiting, 1 its arrival recorded,
2 its condition met). A failed check faults the context (R293, R311). -/
def State.syncStart (s : State) (c : Nat) (q : QInstr) : State × Nat :=
  let k := s.core c
  let w := q.word
  let bad := fun (e : Nat) => (s.enterFault c (0x500 + e) q.index, 0)
  let line := kLine w
  let m := k.onLine line
  match wOp w with
  | 0x04 =>
    let target := (q.reg 0).toNat
    if target = c then (if k.semCount ≤ srsigId w then bad 0x03 else (s, 0))
    else
      let s := s.unitMessage c target 1 k.basin
      ({ s with signals := s.signals ++ [⟨c, k.basin, some q.number, target, srsigId w, srsigInc w, false, false, false⟩] }, 0)
  | 0x10 =>
    if !(m.member || m.joinPending) then bad 0x05
    else if m.outstanding then (s, 0)
    else (s.setCore c (k.setLine line m.arrive), if kbarWait w then 1 else 2)
  | 0x11 =>
    if !(m.member || m.joinPending) then bad 0x05
    else (s, if m.outstanding then 1 else 2)
  | 0x12 =>
    match m.join (bsnHasLine (s.sheetsOn (c / 256)) k.basin line) with
    | some m' => (s.setCore c (k.setLine line m'), 2)
    | none => bad 0x05
  | 0x13 =>
    match m.leave with
    | some m' => (s.setCore c (k.setLine line m'), 2)
    | none => bad 0x05
  | _ => if k.semCount ≤ semId w then bad 0x03 else (s, 0)

/-- How many SRSIGs of a context await their acknowledgement (R299). -/
def State.unackedSignals (s : State) (c : Nat) : Nat :=
  (s.signals.filter (fun g => g.sender == c && g.number.isSome && !g.acked)).length

/-- A sync instruction in flight that holds the queue: its condition is not met. SSIG, SSET and SRSIG have none. -/
def InFlight.holdsQueue (f : InFlight) : Bool :=
  let op := wOp f.q.word
  !(op == 2 || op == 3 || op == 4) && f.stage != 2

/-- The sync queue may issue: nothing in flight holds it, and a further SRSIG is at most the eighth (R299). -/
def State.syncFree (s : State) (c : Nat) (q : QInstr) : Bool :=
  !(s.core c).flight.sync.any InFlight.holdsQueue && (wOp q.word != 4 || decide (s.unackedSignals c < 8))

/-! ### Completion -/

/-- The signal that an SRSIG in flight sent. -/
def State.signalOf (s : State) (c : Nat) (f : InFlight) : Option RemoteSignal :=
  s.signals.find? (fun g => g.sender == c && g.number == some f.q.number)

/-- The oldest sync instruction completes, if its condition is met; a SWAIT completes by its own event. -/
def State.syncComplete (s : State) (c : Nat) (f : InFlight) : State :=
  let w := f.q.word
  match wOp w with
  | 0x01 => s
  | 0x02 => (s.completeHead c .sync).semAdd c (semId w) (semT w) f.q.index
  | 0x03 => (s.completeHead c .sync).setSem c (semId w) (BitVec.ofNat 16 (semT w))
  | 0x04 =>
    if (f.q.reg 0).toNat = c then (s.completeHead c .sync).semAdd c (srsigId w) (srsigInc w) f.q.index
    else match s.signalOf c f with
      | none => s
      | some g =>
        if !g.acked then s
        else
          let t := { s.completeHead c .sync with signals := s.signals.erase g }
          if g.refused then t.enterFault c 0x0506 f.q.index else t
  | _ => if f.stage = 2 then s.completeHead c .sync else s

/-- SWAIT_SATISFIED: the pending SWAIT of core c sees its threshold reached; it subtracts, or underflows (R294). -/
def execSwaitSatisfied (c : CoreId) (s : State) : Host.Outcome State Fault Refusal :=
  .next (match (s.core c).flight.sync with
    | [] => s
    | f :: _ =>
      let w := f.q.word
      let v := (s.sem c (semId w)).toNat
      if !(s.core c).live ∨ !s.clocked c ∨ wOp w ≠ 1 ∨ v < semT w then s
      else if v < swaitD w then s.enterFault c 0x0501 f.q.index
      else (s.completeHead c .sync).setSem c (semId w) (BitVec.ofNat 16 (v - swaitD w)))

/-! ### Remote signals (R298, R299) -/

/-- A signal of a list is answered. -/
def answerFirst (p : RemoteSignal → Bool) (f : RemoteSignal → RemoteSignal) : List RemoteSignal → List RemoteSignal
  | [] => []
  | g :: gs => if p g then f g :: gs else g :: answerFirst p f gs

/-- REMOTE_SIGNAL_ARRIVAL: the oldest signal of a sender reaches its target and is applied or refused. -/
def execRemoteSignalArrival (sender : CoreId) (s : State) : Host.Outcome State Fault Refusal :=
  let mine := fun (g : RemoteSignal) => g.sender == sender.val && !g.answered
  .next (match s.signals.find? mine with
    | none => s
    | some g =>
      let t := s.core g.target
      let unfit := !bsnHasCluster (s.sheetsOn (g.target / 256)) g.basin (g.target / 8) || !s.clusterPresent (g.target / 8) ||
        !s.takesSignals g.target || decide (t.semCount ≤ g.ident)
      let beyond := !unfit && decide (65535 < (s.sem g.target g.ident).toNat + g.inc)
      let sent := answerFirst mine (fun g => { g with answered := true, refused := unfit || beyond }) s.signals
      let s := State.unitMessage { s with signals := sent } g.target sender 2 g.basin
      if unfit then s else s.semAdd g.target g.ident g.inc t.pc)

/-- SRSIGs at the head of the queue whose acknowledgement has returned complete, in order. Log entry 25. -/
def State.drainAcked (c : Nat) : Nat → State → State
  | 0, s => s
  | n + 1, s =>
    match (s.core c).flight.sync with
    | [] => s
    | f :: _ =>
      if (s.core c).live && wOp f.q.word == 4 && ((s.signalOf c f).map (fun g => g.acked)).getD false then
        State.drainAcked c n (s.syncComplete c f)
      else s

/-- SRSIG_ACK: the acknowledgement of the oldest answered signal returns to its sender. -/
def execSrsigAck (sender : CoreId) (s : State) : Host.Outcome State Fault Refusal :=
  let ready := fun (g : RemoteSignal) => g.sender == sender.val && g.answered && !g.acked
  .next (match s.signals.find? ready with
    | none => s
    | some g =>
      if g.number.isNone then { s with signals := s.signals.erase g }
      else State.drainAcked sender 16 { s with signals := answerFirst ready (fun g => { g with acked := true }) s.signals })

/-- The signals of a context that has ended have nobody left to acknowledge to. Log entry 25. -/
def State.orphanSignals (s : State) (c : Nat) : State :=
  let left := s.signals.filter (fun g => !(g.sender == c && g.acked))
  { s with signals := left.map (fun g => if g.sender = c then { g with number := none } else g) }

/-! ### Kettle releases (R302, R305) -/

/-- A core's die drives and senses the lines: the drive of an isolated die is masked (R306). -/
def State.onLines (s : State) (c : Nat) : Bool := !(s.die (c / 256)).isolated

/-- Every member of the line has arrived (R302). -/
def State.lineHigh (s : State) (line : Nat) : Bool :=
  s.cores.all (fun e => !s.onLines e.1 || !(e.2.onLine line).member || (e.2.onLine line).arrived)

/-- A member, a joiner, or a member that departed makes a high line a release. -/
def State.lineUsed (s : State) (line : Nat) : Bool :=
  s.cores.any (fun e => s.onLines e.1 && ((e.2.onLine line).member || (e.2.onLine line).joinPending)) || s.ghosts line != (0, 0)

/-- A member's standing after the release. -/
def KMember.released (m : KMember) : KMember :=
  if m.joinPending then ⟨true, false, false, m.held, false⟩
  else if m.leavePending then noMember
  else { m with arrived := false }

/-- What a release does to one core's waiting instruction on the line. -/
def State.releaseWait (s : State) (line : Nat) (short : Bool) (c : Nat) : State :=
  let k := s.core c
  let m := k.onLine line
  let k' := k.setLine line m.released
  match k.flight.sync.getLast? with
  | none => s.setCore c k'
  | some f =>
    let w := f.q.word
    let stage := fun (k : Core) (n : Nat) =>
      { k with flight := k.flight.set .sync (k.flight.sync.dropLast ++ [{ f with stage := n }]) }
    if (wOp w ≠ 0x10 ∧ wOp w ≠ 0x11) ∨ kLine w ≠ line ∨ f.stage = 2 ∨ !m.arrived then s.setCore c k'
    else if f.stage = 1 then
      if short && kShortFault w then (s.setCore c k').enterFault c 0x0507 f.q.index
      else s.setCore c (stage k' 2)
    else if (k'.onLine line).member then
      s.setCore c (stage (k'.setLine line (k'.onLine line).arrive) (if kbarWait w then 1 else 2))
    else (s.setCore c k').enterFault c 0x0505 f.q.index

/-- KETTLE_RELEASE of line k: it is high and somebody is on it. Log entries 1 and 87. -/
def execKettleRelease (line : LineId) (s : State) : Host.Outcome State Fault Refusal :=
  if !s.lineHigh line || !s.lineUsed line then .next s
  else
    let departed := (s.ghosts line).2
    let short := decide (0 < departed)
    let s := (s.setGhosts line (0, 0))
    let gen : W32 := nget (fun _ => 0) s.kettleGen line + 1
    let s := { s with kettleGen := nset (fun _ => 0) s.kettleGen line gen }
    let count := min 65535 (nget (fun _ => 0) s.kettleDepartures line + departed)
    let s := if short then
        { s with kettleShort := nset (fun _ => false) s.kettleShort line true
                 kettleDepartures := nset (fun _ => 0) s.kettleDepartures line count }
      else s
    let s := match (if short then lineOwner s.sheets line else none) with
      | some b => s.setErr b errKettleShort
      | none => s
    .next (s.forEach ((s.cores.map (fun e => e.1)).filter s.onLines) (fun s c => s.releaseWait line short c))

/-! ### Kettle updates between dies (R389) -/

/-- The dies a die is joined to by an ACTIVE link that carries the kettle lines. Log entry 26. -/
def State.kettlePartners (s : State) (d : Nat) : List Nat :=
  (List.range 9).filterMap (fun l =>
    let k := s.link l
    let e := linkEnds l
    if !k.kettle || k.class3Only || !(k.st == .active || k.st == .narrow) then none
    else if e.1 = d then some e.2 else if e.2 = d then some e.1 else none)

/-- The drive word of a die: bit k is high when every member in each of its clusters has arrived (R302). -/
def State.driveWord (s : State) (d : Nat) : W32 :=
  BitVec.ofNat 32 (((List.range 32).filter (fun line =>
    s.cores.all (fun e => e.1 / 256 != d || !(e.2.onLine line).member || (e.2.onLine line).arrived))).foldl setBit 0)

/-- The message that carries a die's drive word over one link (R386). -/
def kettleMsg (d next src : Nat) (seq : Byte) (word : W32) : StitchMsg :=
  ⟨7, { plainHdr d next with addr := BitVec.ofNat 52 (word.toNat + 2 ^ 32 * src + 2 ^ 40 * seq.toNat) }, 0, []⟩

/-- A die sends its drive word to its partners under the next sequence number, and holds the word as the latest it sent. -/
def State.sendDrive (s : State) (d : Nat) : State :=
  let k := s.die d
  let seq := k.kettleOwnSeq + 1
  let word := s.driveWord d
  let t := s.setDie d { k with kettleOwnSeq := seq, kettleWords := nset (fun _ => 0xFFFFFFFF) k.kettleWords d word }
  t.forEach (t.kettlePartners d) (fun t p => t.sendOver d p (kettleMsg d p d seq word))

/-- Every die whose drive word has changed since it last sent it sends an update (R389). Log entry 26. -/
def State.sendDrives (s : State) : State :=
  s.forEach ([0, 1, 2, 3, 4, 5].filter (fun d => s.dieIn d && s.driveWord d != nget (fun _ => 0xFFFFFFFF) (s.die d).kettleWords d))
    (fun s d => s.sendDrive d)

/-- KETTLE_UPDATE at a die: it keeps the source's word and forwards a sequence number once. Log entry 26. -/
def execKettleUpdate (d src : DieId) (seq : Byte) (word : W32) (s : State) : Host.Outcome State Fault Refusal :=
  let k := s.die d
  if !s.dieIn d || d == src then .next s
  else
    let t := s.setDie d { k with kettleWords := nset (fun _ => 0xFFFFFFFF) k.kettleWords src word
                                 kettleSeqs := nset (fun _ => none) k.kettleSeqs src (some seq) }
    if nget (fun _ => none) k.kettleSeqs src.val = some seq then .next t
    else .next (t.forEach ((t.kettlePartners d).filter (· != src.val)) (fun t p => t.sendOver d p (kettleMsg d p src seq word)))

/-- The lines a die senses: the AND of the latest words of all six dies, isolated dies masked (R389, R306). -/
def State.sensed (s : State) (d : Nat) : W32 :=
  ([0, 1, 2, 3, 4, 5].filter (fun x => !(s.die d).kettleMask.contains x)).foldl
    (fun acc x => acc &&& (if x = d then s.driveWord d else nget (fun _ => 0xFFFFFFFF) (s.die d).kettleWords x)) 0xFFFFFFFF

/-- KETTLE_UPDATE_RESEND: a die sends its own drive word to its partners under the next sequence number. Log entry 26. -/
def execKettleUpdateResend (d : DieId) (s : State) : Host.Outcome State Fault Refusal :=
  .next (if !s.dieIn d then s else s.sendDrive d)

/-! ### The deadlock detector (R307-R310) -/

/-- What one engine queue of a context is for the detector. -/
inductive QueueView where
  | empty
  | live
  /-- Its oldest instruction is an SWAIT, external bit clear, whose threshold is not reached. -/
  | swait (ident t value : Nat)
  /-- Its head is held by these barriers' wait masks. -/
  | held (masks : List Nat)
  deriving DecidableEq, Repr

def State.viewQueue (s : State) (c : Nat) (e : Engine) : QueueView :=
  let k := s.core c
  match k.flight.get e, k.queue.get e with
  | [], [] => .empty
  | f :: _, _ =>
    let w := f.q.word
    if e = .sync ∧ wOp w = 1 ∧ !swaitExternal w ∧ (s.sem c (semId w)).toNat < semT w then
      .swait (semId w) (semT w) (s.sem c (semId w)).toNat
    else .live
  | [], q :: _ =>
    let bs := k.barriers.filter (fun b => bitOf b.hold.toNat (engineBit e + 1) && decide (b.position.get e ≤ q.number) &&
      !k.waitMet b.wait b.counts)
    if bs = [] then .live else .held (bs.map (fun b => b.wait.toNat))

/-- Every queue of a mask is empty or among the stuck ones. -/
def maskStuck (view : Engine → QueueView) (stuck : List Engine) (mask : Nat) : Bool :=
  engines.all (fun e => !bitOf mask (engineBit e) || view e == .empty || stuck.contains e)

/-- Drop the queues whose stand has an end: none of the barriers that hold them waits on stuck queues alone. -/
def narrowStuck (view : Engine → QueueView) : Nat → List Engine → List Engine
  | 0, l => l
  | n + 1, l => narrowStuck view n (l.filter (fun e => match view e with
      | .swait _ _ _ => true
      | .held masks => masks.any (maskStuck view l)
      | _ => false))

/-- The stuck queues of a context: queues held in a ring by each other's barriers are stuck (R308). Log entry 27. -/
def State.stuckQueues (s : State) (c : Nat) : List Engine := narrowStuck (s.viewQueue c) 4 engines

/-- Why the sequencer is stuck, as state and waits-on mask of R310; none when it is live. Log entry 27. -/
def State.seqStuck (s : State) (c : Nat) : Option (Nat × Nat) :=
  let k := s.core c
  let stuck := s.stuckQueues c
  let bars := k.barriers.filter (fun b => bitOf b.hold.toNat 0 && !k.waitMet b.wait b.counts &&
    maskStuck (s.viewQueue c) stuck b.wait.toNat)
  if k.ctx = .draining then some (4, 0)
  else if k.ctx ≠ .running then none
  else if k.seqWait = .barrier then bars.head?.map (fun b => (2, b.wait.toNat))
  else match s.fetch c with
    | .word w =>
      (engines.find? (fun e => engineQueue e == wQueue w && decide (16 ≤ (k.queue.get e).length) && stuck.contains e)).map
        (fun e => (3, 1 <<< engineBit e))
    | _ => none

/-- R308. Log entry 27. -/
def State.deadlocked (s : State) (c : Nat) : Bool :=
  let stuck := s.stuckQueues c
  (s.seqStuck c).isSome && stuck != [] && engines.all (fun e => s.viewQueue c e == .empty || stuck.contains e)

/-- An entry of the wait graph (R310). -/
def graphEntry (queue state ident t value waits : Nat) : W64 :=
  BitVec.ofNat 64 (queue * 2 ^ 56 + state * 2 ^ 48 + ident * 2 ^ 40 + t * 2 ^ 24 + value * 2 ^ 8 + waits * 2 ^ 4)

/-- Log entry 27. -/
def State.waitGraph (s : State) (c : Nat) : List W64 :=
  let stuck := s.stuckQueues c
  (match s.seqStuck c with
    | some (st, waits) => graphEntry 0 st 0 0 0 waits
    | none => graphEntry 0 5 0 0 0 0) ::
  engines.map (fun e => match s.viewQueue c e with
    | .empty => graphEntry (engineQueue e) 0 0 0 0 0
    | .live => graphEntry (engineQueue e) 5 0 0 0 0
    | .swait i t v => graphEntry (engineQueue e) 1 i t v 0
    | .held masks =>
      match masks.find? (maskStuck (s.viewQueue c) stuck) with
      | some m => if stuck.contains e then graphEntry (engineQueue e) 2 0 0 0 m else graphEntry (engineQueue e) 5 0 0 0 0
      | none => graphEntry (engineQueue e) 5 0 0 0 0)

/-- DEADLOCK_WINDOW_EXPIRY: a context deadlocked for a whole window faults with detail 0x04 (R309). Log entry 27. -/
def execDeadlockWindowExpiry (c : CoreId) (s : State) : Host.Outcome State Fault Refusal :=
  if !(s.core c).live || !s.deadlocked c then .next s
  else
    let k := c.val / 8
    let graph := s.waitGraph c
    let s := s.setCluster k { s.cluster k with deadlocks := satCount ((s.cluster k).deadlocks + 1) }
    .next ((s.setCore c { s.core c with deadlockGraph := graph }).enterFault c 0x0504 (s.core c).pc)

end Sys2Proof.Machine
end

