-- ==== Sys2Proof/Machine/Transcend.lean ====
section
/-!
DEFINITION. The functions EXP to COS on FP32 (R223): between which integer multiples of a power of two the exact value lies,
and the FP32 result, which is any pattern within 2 ulp of it.
-/
namespace Sys2Proof.Machine

/-- An exact magnitude lies from lo × 2^exp to hi × 2^exp. -/
structure Near where
  lo : Nat
  hi : Nat
  exp : Int
  deriving DecidableEq, Repr

/-! ### Patterns near a value -/

/-- The largest finite FP32 magnitude that is not above n × 2^e, as its pattern. -/
def patternBelow (n : Nat) (e : Int) : Nat :=
  if n = 0 then 0
  else
    let q := fp32L.spacing (Int.ofNat (Nat.log2 n) + e)
    let k := if q ≤ e then n * 2 ^ Int.toNat (e - q) else n / 2 ^ Int.toNat (q - e)
    if fp32L.overflows k q then fp32L.maxBits false else fp32L.encode false k q

/-- The least FP32 magnitude, the infinity among them, that is not below n × 2^e. -/
def patternAbove (n : Nat) (e : Int) : Nat :=
  let p := patternBelow n e
  match fp32L.decode p with
  | .fin _ m f => if leDyadic n e m f then p else p + 1
  | _ => p

/-- A pattern within 2 ulp of an exact value, an open choice among them; beyond the largest finite value the infinity.
Log entry 23. -/
def Near.pick (v : Near) (choice : Nat) : Nat :=
  let q := if v.lo = 0 then fp32L.emin - 23 else fp32L.spacing (Int.ofNat (Nat.log2 v.lo) + v.exp)
  let x := min q v.exp
  let ulps := 2 * 2 ^ Int.toNat (q - x)
  let at_ := fun (n : Nat) => n * 2 ^ Int.toNat (v.exp - x)
  let least := patternAbove (at_ v.lo - ulps) x
  let most := patternBelow (at_ v.hi + ulps) x
  if !leDyadic v.lo v.exp fp32L.maxM fp32L.maxE then 0x7F800000 else least + choice % (most - least + 1)

/-! ### Fixed-point series -/

/-- ln 2 × 2^128, 2 ÷ √π × 2^128 and π × 2^320, each rounded down. -/
def lnTwo : Nat := 0xb17217f7d1cf79abc9e3b39803f2f6af
def erfUnit : Nat := 0x120dd750429b6d11ae3a914fed7fd8688
def piFixed : Nat := 0x3243f6a8885a308d313198a2e03707344a4093822299f31d0082efa98ec4e6c89452821e638d01377

/-- A fixed-point value with f fraction bits and its margin of 2^50 units on either side, times 2^e. -/
def around (n f : Nat) (e : Int) : Near := ⟨n - 2 ^ 50, n + 2 ^ 50, e - Int.ofNat f⟩

/-- m × 2^e in fixed point with f fraction bits, rounded down. -/
def fixedOf (f m : Nat) (e : Int) : Nat :=
  let k := e + Int.ofNat f
  if 0 ≤ k then m * 2 ^ k.toNat else m / 2 ^ (-k).toNat

/-- n further terms of Σ x^i ÷ i!, from a term with index i, 128 fraction bits. -/
def expTerms (x : Nat) : Nat → Nat → Nat → Nat → Nat
  | 0, _, _, sum => sum
  | n + 1, i, term, sum =>
    let t := term * x / 2 ^ 128 / i
    expTerms x n (i + 1) t (sum + t)

/-- e^x for a signed fixed-point x of 128 fraction bits: a fixed-point value from 1 to 2, and a power of two. -/
def expFixed (x : Int) : Nat × Int :=
  let k := Int.fdiv x (Int.ofNat lnTwo)
  let r := (x - k * Int.ofNat lnTwo).toNat
  (expTerms r 48 1 (2 ^ 128) (2 ^ 128), k)

/-- n further terms of Σ ± x^(2i + a) ÷ (2i + a)!, signs alternating; f fraction bits, `sq` is x². -/
def circleTerms (f sq : Nat) : Nat → Nat → Int → Int → Int
  | 0, _, _, sum => sum
  | n + 1, i, term, sum =>
    let t := -(Int.tdiv (Int.tdiv (term * Int.ofNat sq) (Int.ofNat (2 ^ f))) (Int.ofNat ((i + 1) * (i + 2))))
    circleTerms f sq n (i + 2) t (sum + t)

/-- n further terms of Σ z^(2i + 1) ÷ (2i + 1), 128 fraction bits, `sq` is z². -/
def atanhTerms (sq : Nat) : Nat → Nat → Nat → Nat → Nat
  | 0, _, _, sum => sum
  | n + 1, i, power, sum =>
    let p := power * sq / 2 ^ 128
    atanhTerms sq n (i + 2) p (sum + p / i)

/-- n further terms of Σ ± x^(2i + 1) ÷ (i! (2i + 1)), 128 fraction bits, `sq` is x². -/
def erfTerms (sq : Nat) : Nat → Nat → Int → Int → Int
  | 0, _, _, sum => sum
  | n + 1, i, power, sum =>
    let p := -(Int.tdiv (Int.tdiv (power * Int.ofNat sq) (Int.ofNat (2 ^ 128))) (Int.ofNat i))
    erfTerms sq n (i + 1) p (sum + Int.tdiv p (Int.ofNat (2 * i + 1)))

/-! ### The functions on a magnitude m × 2^e, m not 0 -/

/-- The value x − x³ ÷ d to x, for an x below 2^−14. -/
def cubicNear (m : Nat) (e : Int) (d : Nat) : Near :=
  let n := m * 2 ^ 64
  ⟨n - n * (m * m) / (d * 2 ^ Int.toNat (-2 * e)) - 1, n, e - 64⟩

/-- EXP. -/
def expNear (neg : Bool) (m : Nat) (e : Int) : Near :=
  if leDyadic 256 0 m e then (if neg then ⟨0, 1, -200⟩ else ⟨1, 1, 200⟩)
  else
    let x := fixedOf 128 m e
    let r := expFixed (if neg then -Int.ofNat x else Int.ofNat x)
    around r.1 128 r.2

/-- LOG of a positive value: its sign, and its magnitude; of 1 the magnitude is 0. -/
def logNear (m : Nat) (e : Int) : Bool × Near :=
  let l := Nat.log2 m
  -- m × 2^e = f × 2^k with f from 1 to 2; z = (f − 1) ÷ (f + 1)
  let f := fixedOf 128 m (-Int.ofNat l)
  let k := Int.ofNat l + e
  let z := (f - 2 ^ 128) * 2 ^ 128 / (f + 2 ^ 128)
  let y := Int.ofNat (2 * atanhTerms (z * z / 2 ^ 128) 48 3 z z) + k * Int.ofNat lnTwo
  (decide (y < 0), if f = 2 ^ 128 ∧ k = 0 then ⟨0, 0, 0⟩ else around y.natAbs 128 0)

/-- RCP. -/
def rcpNear (m : Nat) (e : Int) : Near := ⟨2 ^ 200 / m, 2 ^ 200 / m + 1, -200 - e⟩

/-- RSQRT: the root of 2^n ÷ m, n + e even. -/
def rsqrtNear (m : Nat) (e : Int) : Near :=
  let t := Nat.log2 m + 200
  let n := if (Int.ofNat t + e) % 2 = 0 then t else t + 1
  let root := isqrt (2 ^ n / m)
  ⟨root, root + 1, -(Int.ofNat n + e) / 2⟩

/-- TANH. -/
def tanhNear (m : Nat) (e : Int) : Near :=
  if !leDyadic 1 (-14) m e then cubicNear m e 3
  else if leDyadic 16 0 m e then ⟨2 ^ 40 - 1, 2 ^ 40, -40⟩
  else
    let r := expFixed (Int.ofNat (fixedOf 128 m (e + 1)))
    let y := r.1 * 2 ^ r.2.toNat
    around ((y - 2 ^ 128) * 2 ^ 128 / (y + 2 ^ 128)) 128 0

/-- ERF. -/
def erfNear (m : Nat) (e : Int) : Near :=
  if !leDyadic 1 (-14) m e then
    let v := cubicNear m e 3
    ⟨v.lo * erfUnit, v.hi * (erfUnit + 1), v.exp - 128⟩
  else if leDyadic 5 0 m e then ⟨2 ^ 36 - 1, 2 ^ 36, -36⟩
  else
    let x := fixedOf 128 m e
    let s := erfTerms (x * x / 2 ^ 128) 160 1 (Int.ofNat x) (Int.ofNat x)
    around (s.toNat * erfUnit / 2 ^ 128) 128 0

/-- SIN or COS of x: its sign and its magnitude. x is reduced to a quarter turn with 320 fraction bits. -/
def circleNear (cosine neg : Bool) (m : Nat) (e : Int) : Bool × Near :=
  if !cosine && !leDyadic 1 (-14) m e then (neg, cubicNear m e 6)
  else
    let x := fixedOf 320 m e
    let quarters := (2 * x + piFixed / 2) / piFixed
    let r := Int.ofNat x - Int.ofNat (quarters * piFixed) / 2
    -- the reduced angle with 200 fraction bits
    let a := Int.tdiv r (Int.ofNat (2 ^ 120))
    let sq := a.natAbs * a.natAbs / 2 ^ 200
    let turn := (quarters + (if cosine then 1 else 0)) % 4
    let v := if turn % 2 = 1 then circleTerms 200 sq 40 0 (Int.ofNat (2 ^ 200)) (Int.ofNat (2 ^ 200))
      else circleTerms 200 sq 40 1 a a
    let v := if 2 ≤ turn then -v else v
    let v := if neg && !cosine then -v else v
    (decide (v < 0), around v.natAbs 200 0)

/-! ### Results -/

/-- The FP32 bits of a sign and a magnitude within 2 ulp. -/
def signedPick (neg : Bool) (v : Near) (choice : Nat) : W32 :=
  BitVec.ofNat 32 (boolBit neg * 2 ^ 31 + v.pick choice)

/-- EXP to COS of FP32 bits, by the function's code. The special inputs are as R223 gives them; of the others the result is
within 2 ulp of the exact value, its bits otherwise open. Log entry 23. -/
def transcend (fn : Nat) (x : W32) : W32 :=
  let choice := (Config.transcendental fn x).toNat
  let one := fun (neg : Bool) => if neg then (0xBF800000 : W32) else 0x3F800000
  let inf := fun (neg : Bool) => if neg then (0xFF800000 : W32) else 0x7F800000
  let zero := fun (neg : Bool) => if neg then (0x80000000 : W32) else 0
  let nan : W32 := 0x7FC00000
  match vF32 x with
  | .nan => nan
  | .inf neg =>
    match fn with
    | 0x10 => if neg then 0 else inf false
    | 0x11 => if neg then nan else inf false
    | 0x12 => zero neg
    | 0x13 => if neg then nan else 0
    | 0x14 => one neg
    | 0x15 => one neg
    | _ => nan
  | .fin neg m e =>
    if m = 0 then
      match fn with
      | 0x11 => inf true
      | 0x12 => inf neg
      | 0x13 => inf neg
      | 0x14 => zero neg
      | 0x15 => zero neg
      | 0x16 => zero neg
      | _ => signedPick false ⟨1, 1, 0⟩ choice
    else
      match fn with
      | 0x10 => signedPick false (expNear neg m e) choice
      | 0x11 => if neg then nan else signedPick (logNear m e).1 (logNear m e).2 choice
      | 0x12 => signedPick neg (rcpNear m e) choice
      | 0x13 => if neg then nan else signedPick false (rsqrtNear m e) choice
      | 0x14 => signedPick neg (tanhNear m e) choice
      | 0x15 => signedPick neg (erfNear m e) choice
      | 0x16 => signedPick (circleNear false neg m e).1 (circleNear false neg m e).2 choice
      | _ => signedPick (circleNear true neg m e).1 (circleNear true neg m e).2 choice

end Sys2Proof.Machine
end

