-- ==== Sys2Proof/Machine/Vector.lean ====
section
/-!
DEFINITION. The vector engine (08_vector): the dispatch of its twelve instructions with the checks of R248, the charges of
R246, the descriptor checks of a flight (R249), and what each instruction does at its completion.
-/
namespace Sys2Proof.Machine

/-! ### Lanes (R218) -/

def laneWidth (t : Nat) : Nat :=
  match t with
  | 0 => 32
  | 3 => 8
  | 4 => 8
  | 7 => 32
  | 8 => 32
  | _ => 16
def laneFloat (t : Nat) : Bool := decide (t ≤ 2)
def laneSigned (t : Nat) : Bool := t == 3 || t == 5 || t == 7
def laneCount (t : Nat) : Nat := 1024 / laneWidth t
def laneLayout (t : Nat) : Layout :=
  match t with
  | 0 => fp32L
  | 1 => bf16L
  | _ => fp16L

/-- The bits of lane i. -/
def laneOf (t : Nat) (v : BitVec 1024) (i : Nat) : Nat := (v.toNat >>> (laneWidth t * i)) % 2 ^ laneWidth t
def lanesOf (t : Nat) (v : BitVec 1024) : List Nat := (List.range (laneCount t)).map (laneOf t v)

/-- The register that holds a list of lanes, lane 0 first. -/
def packLanes (t : Nat) (es : List Nat) : BitVec 1024 :=
  BitVec.ofNat 1024 (es.foldr (fun e acc => acc * 2 ^ laneWidth t + e % 2 ^ laneWidth t) 0)

/-- The value of an integer lane, and the range of its type. -/
def laneInt (t x : Nat) : Int := if laneSigned t then signedOf (laneWidth t) x else Int.ofNat x
def laneMin (t : Nat) : Int := if laneSigned t then -Int.ofNat (2 ^ (laneWidth t - 1)) else 0
def laneMax (t : Nat) : Int :=
  if laneSigned t then Int.ofNat (2 ^ (laneWidth t - 1)) - 1 else Int.ofNat (2 ^ laneWidth t) - 1
/-- The low w bits of an integer. -/
def laneBits (t : Nat) (i : Int) : Nat := (BitVec.ofInt (laneWidth t) i).toNat
def laneOnes (t : Nat) : Nat := 2 ^ laneWidth t - 1

/-- The value of any lane. -/
def laneVal (t x : Nat) : Val := if laneFloat t then (laneLayout t).decode x else Val.ofInt (laneInt t x) 0

/-! ### VOP's fields and functions (R219, R220) -/

def vopVd (w : W64) : Nat := bitsOf w.toNat 53 49
def vopS1 (w : W64) : Nat := bitsOf w.toNat 48 44
def vopS2 (w : W64) : Nat := bitsOf w.toNat 43 39
def vopS3 (w : W64) : Nat := bitsOf w.toNat 38 34
def vopLane (w : W64) : Nat := bitsOf w.toNat 33 30
def vopFn (w : W64) : Nat := bitsOf w.toNat 29 24
def vopRne (w : W64) : Bool := bitOf w.toNat 23
def vopVariant (w : W64) : Bool := bitOf w.toNat 22
def vopScalar (w : W64) : Bool := bitOf w.toNat 21
def vopRc (w : W64) : Nat := bitsOf w.toNat 20 16

def fnTranscendental (fn : Nat) : Bool := fmtIn 0x10 0x17 fn
/-- FADD, FSUB, FMUL, FMA. -/
def fnArith (fn : Nat) : Bool := decide (fn ≤ 3)
def fnFloat (fn : Nat) : Bool := decide (fn ≤ 0xA) || fnTranscendental fn
def fnInt (fn : Nat) : Bool := fmtIn 0x20 0x26 fn || fmtIn 0x28 0x2C fn
def fnBitwise (fn : Nat) : Bool := fmtIn 0x30 0x33 fn
/-- The functions that round. -/
def fnRounds (fn : Nat) : Bool := fnArith fn || fn == 0xC || fnTranscendental fn
/-- One operand only, CVT aside. -/
def fnUnary (fn : Nat) : Bool := fmtIn 6 7 fn || fnTranscendental fn || fmtIn 0x2B 0x2C fn || fn == 0x33

/-- A function defined for a lane type (R220). -/
def fnListed (fn t : Nat) : Bool :=
  decide (t ≤ 8) &&
    (fn == 0xB || fn == 0xC || fnBitwise fn || (fnFloat fn && laneFloat t) ||
      (fnInt fn && !laneFloat t && (fn != 0x2A || laneSigned t)))

def cvtDest (w : W64) : Nat := bitsOf w.toNat 37 34
def cvtNarrow (w : W64) : Bool := decide (laneWidth (cvtDest w) < laneWidth (vopLane w))
def cvtWiden (w : W64) : Bool := decide (laneWidth (vopLane w) < laneWidth (cvtDest w))

/-- A lane type, function, CVT pair or reserved field out of order (R218-R220, R224, R226). Log entry 24. -/
def vopBad (k : Core) (w : W64) : Bool :=
  let fn := vopFn w
  let cvt := fn == 0xC
  strayBits w (fieldMask 63 16) || !fnListed fn (vopLane w) ||
    (cvt && (bitOf w.toNat 38 || decide (8 < cvtDest w) ||
      decide (2 * laneWidth (cvtDest w) < laneWidth (vopLane w)) ||
      decide (2 * laneWidth (vopLane w) < laneWidth (cvtDest w)))) ||
    (!cvt && fn != 3 && fn != 0xB && vopS3 w != 0) ||
    ((fnUnary fn || (cvt && !cvtNarrow w)) && (vopS2 w != 0 || vopScalar w)) ||
    (if fnRounds fn then rcBad (k.areg (vopRc w)) else vopRne w || vopRc w != 0) ||
    (vopVariant w && !(fmtIn 0x20 0x22 fn || (cvt && cvtWiden w)))

/-! ### Lane functions (R221-R224) -/

/-- −0 below +0, other values by size; operands are not NaN (R221, R232). Log entry 24. -/
def zeroLt (a b : Val) : Bool := a.lt b || (a.isZero && b.isZero && a.sign && !b.sign)

/-- One floating-point lane of a function of R220, in a layout. -/
def floatLane (l : Layout) (r : Rnd) (fn x y z : Nat) : Nat :=
  let a := l.decode x
  let b := l.decode y
  let sign := 2 ^ (l.ebits + l.mbits)
  let truth := fun (p : Bool) => if !a.isNan && !b.isNan && p then 2 * sign - 1 else 0
  match fn with
  | 0x0 => l.fromVal r (a.add b)
  | 0x1 => l.fromVal r (a.add b.neg)
  | 0x2 => l.fromVal r (a.mul b)
  | 0x3 => l.fromVal r ((a.mul b).add (l.decode z))
  | 0x4 => if a.isNan || b.isNan then l.canonNan else if zeroLt b a then y else x
  | 0x5 => if a.isNan || b.isNan then l.canonNan else if zeroLt a b then y else x
  | 0x6 => if a.isNan then l.canonNan else x % sign
  | 0x7 => if a.isNan then l.canonNan else x ^^^ sign
  | 0x8 => truth (a.eqv b)
  | 0x9 => truth (a.lt b)
  | 0xA => truth (!b.lt a)
  | _ =>
    -- the FP32 result, rounded once more for the narrower lane types
    let v := transcend fn (f32 .rne a)
    if l = fp32L then v.toNat else l.fromVal r (vF32 v)

/-- The number of one bits of the low n bits. -/
def popCount (n x : Nat) : Nat := ((List.range n).filter (bitOf x)).length

/-- One integer lane. -/
def intLane (t : Nat) (sat : Bool) (fn x y : Nat) : Nat :=
  let w := laneWidth t
  let a := laneInt t x
  let b := laneInt t y
  let arith := fun (i : Int) => laneBits t (if sat then max (laneMin t) (min (laneMax t) i) else i)
  let truth := fun (p : Bool) => if p then laneOnes t else 0
  match fn with
  | 0x20 => arith (a + b)
  | 0x21 => arith (a - b)
  | 0x22 => arith (a * b)
  | 0x23 => if a ≤ b then x else y
  | 0x24 => if b ≤ a then x else y
  | 0x25 => truth (x == y)
  | 0x26 => truth (decide (a < b))
  | 0x28 => if w ≤ y then 0 else (x <<< y) % 2 ^ w
  | 0x29 => if w ≤ y then 0 else x >>> y
  | 0x2A => laneBits t (Int.fdiv a (Int.ofNat (2 ^ min y w)))
  | 0x2B => popCount w x
  | _ => if x = 0 then w else w - 1 - Nat.log2 x

/-- One lane of SEL or a bitwise function. -/
def bitLane (t fn x y z : Nat) : Nat :=
  match fn with
  | 0xB => if z = 0 then y else x
  | 0x30 => x &&& y
  | 0x31 => x ||| y
  | 0x32 => x ^^^ y
  | _ => x ^^^ laneOnes t

/-- One lane of a function other than CVT. -/
def vopLaneFn (t fn : Nat) (sat : Bool) (r : Rnd) (x y z : Nat) : Nat :=
  if fnFloat fn then floatLane (laneLayout t) r fn x y z
  else if fnInt fn then intLane t sat fn x y
  else bitLane t fn x y z

/-- One lane of a CVT (R224): the bits, and whether it saturated or overflowed. -/
def cvtLane (st dt : Nat) (r : Rnd) (x : Nat) : Nat × Bool :=
  let v := laneVal st x
  if laneFloat dt then
    let l := laneLayout dt
    let bits := l.fromVal r v
    (bits, !v.isNan && !v.isInf && (l.decode bits).isInf)
  else
    let g := toInteger r 0 (laneMin dt) (laneMax dt) v
    (laneBits dt g.1, g.2)

/-- The source lanes of a CVT in the order of the destination's (R224). -/
def cvtSource (w : W64) (a b : BitVec 1024) : List Nat :=
  let st := vopLane w
  let m := laneCount (cvtDest w)
  if cvtNarrow w then lanesOf st a ++ lanesOf st b
  else if cvtWiden w then ((lanesOf st a).drop (if vopVariant w then m else 0)).take m
  else lanesOf st a

/-! ### Reduction records (R229-R234) -/

/-- A record: value or mean, M2, and index or count. -/
structure Record where
  value : W32
  m2 : W32
  n : Nat
  deriving DecidableEq, Repr

/-- The size of a record (R230). -/
def recordSize (op : Nat) : Nat :=
  match op with
  | 3 => 8
  | 5 => 16
  | _ => 4

def recordBytes (op : Nat) (r : Record) : Bytes :=
  match op with
  | 3 => leBytes 4 r.value.toNat ++ leBytes 4 r.n
  | 5 => leBytes 4 r.n ++ leBytes 4 r.value.toNat ++ leBytes 4 r.m2.toNat ++ leBytes 4 0
  | _ => leBytes 4 r.value.toNat

def recordOf (op : Nat) (bs : Bytes) (i : Nat) : Record :=
  let o := recordSize op * i
  match op with
  | 3 => ⟨BitVec.ofNat 32 (field bs o 4), 0, field bs (o + 4) 4⟩
  | 5 => ⟨BitVec.ofNat 32 (field bs (o + 4) 4), BitVec.ofNat 32 (field bs (o + 8) 4), field bs o 4⟩
  | _ => ⟨BitVec.ofNat 32 (field bs o 4), 0, 0⟩

def nan32 : W32 := 0x7FC00000

/-- rne32(a + b). -/
def add32 (a b : W32) : W32 := f32 .rne ((vF32 a).add (vF32 b))

/-- num ÷ den × 2^e rounded to FP32 by RNE. -/
def ratio32 (num : Int) (den : Nat) (e : Int) : W32 :=
  let g := fp32L.round .rne ⟨num.natAbs, den, e⟩
  BitVec.ofNat 32
    (if fp32L.overflows g.1 g.2 then fp32L.infBits (decide (num < 0)) else fp32L.encode (decide (num < 0)) g.1 g.2)

/-- A finite value as an integer at exponent x, x not above its own. -/
def Val.atExp (v : Val) (x : Int) : Int :=
  match v with
  | .fin s m e => signedNat s (m * 2 ^ Int.toNat (e - x))
  | _ => 0

def Val.exponent : Val → Int
  | .fin _ _ e => e
  | _ => 0

/-- The finite case of comb (R233): mean, and M2 when both are finite. -/
def combFinite (an bn : Nat) (am bm a2 b2 : Val) : W32 × W32 :=
  let n := an + bn
  let x := min am.exponent bm.exponent
  let d := bm.atExp x - am.atExp x
  let y := min (2 * x) (min a2.exponent b2.exponent)
  let d2 := d * d * Int.ofNat (2 ^ Int.toNat (2 * x - y))
  (ratio32 (am.atExp x * Int.ofNat n + d * Int.ofNat bn) n x,
   ratio32 ((a2.atExp y + b2.atExp y) * Int.ofNat n + d2 * Int.ofNat (an * bn)) n y)

/-- A NaN as the canonical NaN (R154). -/
def canon32 (x : W32) : W32 := if (vF32 x).isNan then nan32 else x

/-- The combination of two Welford triplets, and whether the count saturated (R233). A NaN that passes is canonical (R154). -/
def comb (a b : Record) : Record × Bool :=
  if b.n = 0 then ({ a with value := canon32 a.value, m2 := canon32 a.m2 }, false)
  else if a.n = 0 then ({ b with value := canon32 b.value, m2 := canon32 b.m2 }, false)
  else
    let n := a.n + b.n
    let fields : W32 × W32 :=
      match vF32 a.value, vF32 b.value with
      | .nan, _ => (nan32, nan32)
      | _, .nan => (nan32, nan32)
      | .inf s, .inf t => (if s = t then a.value else nan32, nan32)
      | .inf _, _ => (a.value, nan32)
      | _, .inf _ => (b.value, nan32)
      | am, bm =>
        let a2 := vF32 a.m2
        let b2 := vF32 b.m2
        let f := combFinite a.n b.n am bm a2 b2
        (f.1, if a2.isNan || b2.isNan then nan32 else if a2.isInf || b2.isInf then 0x7F800000 else f.2)
    (⟨fields.1, fields.2, min n 0xFFFFFFFF⟩, decide (0xFFFFFFFF < n))

/-- Max (or min) of two values (R232). -/
def extreme (least : Bool) (a b : W32) : W32 :=
  if (vF32 a).isNan || (vF32 b).isNan then nan32
  else if least then (if zeroLt (vF32 b) (vF32 a) then b else a)
  else if zeroLt (vF32 a) (vF32 b) then b else a

/-- b ranks above a in an argmax: NaN above every other value. -/
def ranksAbove (a b : W32) : Bool :=
  !(vF32 a).isNan && ((vF32 b).isNan || zeroLt (vF32 a) (vF32 b))

/-- The merge of two records (R234), and whether a count saturated. -/
def mergeRecord (op : Nat) (a b : Record) : Record × Bool :=
  match op with
  | 1 => (⟨extreme false a.value b.value, 0, 0⟩, false)
  | 2 => (⟨extreme true a.value b.value, 0, 0⟩, false)
  | 3 =>
    let b' := { b with value := canon32 b.value }
    let a' := { a with value := canon32 a.value }
    (if ranksAbove a.value b.value || (!ranksAbove b.value a.value && decide (b.n < a.n)) then b' else a', false)
  | 5 => comb a b
  | _ => (⟨add32 a.value b.value, 0, 0⟩, false)

/-- One level of the tree of R231: neighbours are combined, an odd last one stays. -/
def pairUp {α : Type} (f : α → α → α) : List α → List α
  | a :: b :: rest => f a b :: pairUp f rest
  | l => l

/-- The fixed tree over at most 32 positions. -/
def treeOf {α : Type} (f : α → α → α) (l : List α) : List α :=
  pairUp f (pairUp f (pairUp f (pairUp f (pairUp f l))))

/-- One record from the present positions, in order (R231-R233). -/
def reduceOne (op base : Nat) (xs : List W32) : Record :=
  match op with
  | 1 => ⟨(xs.drop 1).foldl (extreme false) (extreme false (xs.getD 0 0) (xs.getD 0 0)), 0, 0⟩
  | 2 => ⟨(xs.drop 1).foldl (extreme true) (extreme true (xs.getD 0 0) (xs.getD 0 0)), 0, 0⟩
  | 3 =>
    let best := (xs.zipIdx.drop 1).foldl (fun a b => if ranksAbove a.1 b.1 then b else a) (xs.getD 0 0, 0)
    ⟨if (vF32 best.1).isNan then nan32 else best.1, 0, (base + best.2) % 2 ^ 32⟩
  | 5 =>
    let leaf := fun (x : W32) => match vF32 x with
      | .nan => Record.mk nan32 nan32 1
      | .inf _ => Record.mk x nan32 1
      | _ => Record.mk x 0 1
    ((treeOf (fun a b => (comb a b).1) (xs.map leaf)).getD 0 ⟨0, 0, 0⟩)
  | 4 =>
    ⟨(treeOf add32 (xs.map (fun x => f32 .rne ((vF32 x).mul (vF32 x))))).getD 0 0, 0, 0⟩
  | _ => ⟨canon32 ((treeOf add32 xs).getD 0 0), 0, 0⟩

/-! ### Fields of the other instructions -/

/-- The offset of VLD and VST: ra + imm32. -/
def vldOffset (ra : W64) (w : W64) : W64 := ra + wSImm32 w

def tredOp (w : W64) : Nat := bitsOf w.toNat 39 37
def tredAxis (w : W64) : Bool := bitOf w.toNat 36
def tredMerge (w : W64) : Bool := bitOf w.toNat 35
def tredLength (w : W64) : Nat := bitsOf w.toNat 34 30 + 1
def rmrgOp (w : W64) : Nat := bitsOf w.toNat 43 41

def scvtIn (w : W64) : Nat := bitsOf w.toNat 38 35
def scvtOut (w : W64) : Nat := bitsOf w.toNat 34 31
def scvtGauge (w : W64) : Option Nat := if bitOf w.toNat 22 then some (bitsOf w.toNat 30 23) else none
def scvtRne (w : W64) : Bool := bitOf w.toNat 21

def raddTally (w : W64) : Bool := bitOf w.toNat 33
def raddTile (w : W64) : Nat := bitsOf w.toNat 32 29

def smaxIn (w : W64) : Nat := bitsOf w.toNat 28 25
def smaxOut (w : W64) : Nat := bitsOf w.toNat 24 21
def smaxRne (w : W64) : Bool := bitOf w.toNat 20

/-- N of a stream: a multiple of 32 from 32 to a limit. -/
def countBad (n limit : Nat) : Bool := n % 32 != 0 || decide (n < 32) || decide (limit < n)

/-- The bytes of a stream of n elements, its scale plane included; the ladder at its rung-3 size (R236). -/
def streamBytes (code n : Nat) : Nat :=
  if code = 0xF then 2 * n else planeBytes code n + if fmtScaled code then n / 32 else 0

/-- A row of SMAX begins on 64 bytes (R239). -/
def smaxStride (code n : Nat) : Nat := (planeBytes code n + 63) / 64 * 64
def smaxBytes (code n g : Nat) : Nat := (g - 1) * smaxStride code n + planeBytes code n

/-! ### Dispatch (R248) -/

/-- A lane instruction in flight mode; the reverse for FLY (R216). -/
def laneClass (k : Core) : Bool × Nat := (k.flightMode, 0x02)

def checkVop (k : Core) (w : W64) : Option Nat := firstFailure [laneClass k, (vopBad k w, 0x03)]

def checkVld (k : Core) (w : W64) : Option Nat :=
  let off := (vldOffset (k.areg (wB w)) w).toNat
  firstFailure [laneClass k, (strayBits w (fieldMask 63 12), 0x03), (off % 128 != 0 || !k.inAlloc off 128, 0x05)]

def checkVget (k : Core) (w : W64) : Option Nat := firstFailure [laneClass k, (strayBits w (fieldMask 63 39), 0x03)]

def checkTred (k : Core) (w : W64) : Option Nat :=
  firstFailure
    [(strayBits w (fieldMask 63 30) || decide (5 < tredOp w) || (tredOp w != 3 && bitsOf w.toNat 44 40 != 0), 0x03),
     (rangeBad k (k.areg (bitsOf w.toNat 49 45)).toNat (32 * recordSize (tredOp w)), 0x05)]

def checkRmrg (k : Core) (w : W64) : Option Nat :=
  let n := 32 * recordSize (rmrgOp w)
  firstFailure
    [(strayBits w (fieldMask 63 41) || decide (5 < rmrgOp w), 0x03),
     (rangeBad k (k.areg (wA w)).toNat n || rangeBad k (k.areg (wB w)).toNat n, 0x05)]

def checkScvt (k : Core) (w : W64) : Option Nat :=
  let n := (k.areg (wC w)).toNat
  let i := scvtIn w
  let o := scvtOut w
  firstFailure
    [(o == 0xF && k.region.isNone, 0x09),
     (strayBits w (fieldMask 63 16) || countBad n 1048576 || decide (0xC < i) ||
       !(decide (o ≤ 0xB) || o == 0xF || (o == 0xC && (i == 0xB || i == 0xC))) ||
       ((fmtScaled o || o == 0xF) && (scvtGauge w).isNone) || rcBad (k.areg (bitsOf w.toNat 20 16)), 0x03),
     (rangeBad k (k.areg (wA w)).toNat (streamBytes i n) || rangeBad k (k.areg (wB w)).toNat (streamBytes o n), 0x05)]

def checkRadd (k : Core) (w : W64) : Option Nat :=
  let n := (k.areg (bitsOf w.toNat 38 34)).toNat
  firstFailure
    [(strayBits w (fieldMask 63 29) || countBad n 196608 ||
       (if raddTally w then wB w != 0 || n != 1024 else raddTile w != 0), 0x03),
     (rangeBad k (k.areg (wA w)).toNat (4 * n) || (!raddTally w && rangeBad k (k.areg (wB w)).toNat (4 * n)) ||
       rangeBad k (k.areg (wC w)).toNat (4 * n), 0x05)]

def checkSmax (k : Core) (w : W64) : Option Nat :=
  let n := (k.areg (wC w)).toNat
  let g := (k.areg (bitsOf w.toNat 38 34)).toNat
  firstFailure
    [(strayBits w (fieldMask 63 15) || n == 0 || decide (65536 < n) || g == 0 || decide (4096 < g) ||
       decide (1 < smaxIn w) || decide (1 < smaxOut w) || rcBad (k.areg (bitsOf w.toNat 19 15)), 0x03),
     (rangeBad k (k.areg (wA w)).toNat (smaxBytes (smaxIn w) n g) ||
       rangeBad k (k.areg (wB w)).toNat (smaxBytes (smaxOut w) n g), 0x05)]

/-- FLY's fields: descriptor, input, output, second input, N, coordinate. -/
def flyRegs (w : W64) : List Nat :=
  [wA w, wB w, wC w, bitsOf w.toNat 38 34, bitsOf w.toNat 33 29, bitsOf w.toNat 28 24]

/-- The checks of FLY at dispatch (R241): its fields, and the alignment of its offsets. -/
def checkFly (k : Core) (w : W64) : Option Nat :=
  let v := fun i => (k.areg ((flyRegs w).getD i 0)).toNat
  firstFailure
    [(!k.flightMode, 0x02),
     (strayBits w (fieldMask 63 24) || countBad (v 4) 1048576 || rcBad (k.areg ((flyRegs w).getD 5 0)), 0x03),
     (rangeBad k (v 0) 128 || v 1 % 64 != 0 || v 2 % 64 != 0 || v 3 % 64 != 0, 0x05)]

/-- VOP captures rc, and the scalar operand (R219). -/
def execVop (c : CoreId) (s : State) : Host.Outcome State Fault Refusal :=
  .next (s.engineDispatch c .vector 0x01 checkVop
    (fun w => [vopRc w, if vopScalar w then vopS2 w else 0]) keepWindow)
/-- VLD. -/
def execVld (c : CoreId) (s : State) : Host.Outcome State Fault Refusal :=
  .next (s.engineDispatch c .vector 0x02 checkVld (fun w => [wB w]) keepWindow)
/-- VST. -/
def execVst (c : CoreId) (s : State) : Host.Outcome State Fault Refusal :=
  .next (s.engineDispatch c .vector 0x03 checkVld (fun w => [wB w]) keepWindow)
/-- VGET. -/
def execVget (c : CoreId) (s : State) : Host.Outcome State Fault Refusal :=
  .next (s.engineDispatch c .vector 0x04 checkVget (fun _ => []) keepWindow)
/-- VPUT. -/
def execVput (c : CoreId) (s : State) : Host.Outcome State Fault Refusal :=
  .next (s.engineDispatch c .vector 0x05 checkVget (fun _ => []) keepWindow)
/-- TCVT: the checks of TOUT (R228). -/
def execTcvt (c : CoreId) (s : State) : Host.Outcome State Fault Refusal :=
  .next (s.engineDispatch c .vector 0x10 checkTout toutRegs keepWindow)
/-- TRED: ro and rb. -/
def execTred (c : CoreId) (s : State) : Host.Outcome State Fault Refusal :=
  .next (s.engineDispatch c .vector 0x11 checkTred (fun w => [bitsOf w.toNat 49 45, bitsOf w.toNat 44 40]) keepWindow)
/-- RMRG: ri and ro. -/
def execRmrg (c : CoreId) (s : State) : Host.Outcome State Fault Refusal :=
  .next (s.engineDispatch c .vector 0x12 checkRmrg (fun w => [wA w, wB w]) keepWindow)
/-- SCVT: rs, rd, rn, rc. -/
def execScvt (c : CoreId) (s : State) : Host.Outcome State Fault Refusal :=
  .next (s.engineDispatch c .vector 0x13 checkScvt (fun w => [wA w, wB w, wC w, bitsOf w.toNat 20 16]) keepWindow)
/-- RADD: rx, ry, rd, rn. -/
def execRadd (c : CoreId) (s : State) : Host.Outcome State Fault Refusal :=
  .next (s.engineDispatch c .vector 0x14 checkRadd (fun w => [wA w, wB w, wC w, bitsOf w.toNat 38 34]) keepWindow)
/-- SMAX: rs, rd, rn, rg, rsc, rc. -/
def execSmax (c : CoreId) (s : State) : Host.Outcome State Fault Refusal :=
  .next (s.engineDispatch c .vector 0x15 checkSmax
    (fun w => [wA w, wB w, wC w, bitsOf w.toNat 38 34, bitsOf w.toNat 33 29, bitsOf w.toNat 19 15]) keepWindow)
/-- FLY. -/
def execFly (c : CoreId) (s : State) : Host.Outcome State Fault Refusal :=
  .next (s.engineDispatch c .vector 0x20 checkFly flyRegs keepWindow)

/-! ### Flights (R242, R243, R249) -/

/-- The fields of a flight descriptor. -/
def flyStages (d : Bytes) : Nat := field d 2 1
def flyIn (d : Bytes) : Nat := field d 3 1
def flyOut (d : Bytes) : Nat := field d 4 1
def flyRne (d : Bytes) : Bool := field d 5 1 == 1
/-- Log entry 23. -/
def flyFlags (d : Bytes) : Nat := field d 7 1
def flyGauge (d : Bytes) : Option Nat := if bitOf (flyFlags d) 0 then some (field d 6 1) else none
def flySecond (d : Bytes) : Bool := bitOf (flyFlags d) 1
def flyIn2 (d : Bytes) : Nat := field d 8 1
/-- Stage j: function, operand select, constants B and C. -/
def stageFn (d : Bytes) (j : Nat) : Nat := field d (0x10 + 12 * j) 1
def stageSelect (d : Bytes) (j : Nat) : Nat := field d (0x11 + 12 * j) 1
def stageB (d : Bytes) (j : Nat) : Nat := field d (0x14 + 12 * j) 4
def stageC (d : Bytes) (j : Nat) : Nat := field d (0x18 + 12 * j) 4

def stageUnary (fn : Nat) : Bool := fmtIn 6 7 fn || fnTranscendental fn

/-- A stage entry that R249's detail 0x02 names. -/
def stageBad (d : Bytes) (j : Nat) : Bool :=
  let fn := stageFn d j
  let sel := stageSelect d j
  !(decide (fn ≤ 7) || fnTranscendental fn) || decide (3 < sel) ||
    (if stageUnary fn then sel != 0 else sel == 0) || (sel == 2 && !flySecond d) ||
    (sel != 1 && stageB d j != 0) || (fn != 3 && stageC d j != 0)

/-- The checks of a flight descriptor at issue, in ascending order of their details (R249). -/
def flyFault (k : Core) (q : QInstr) (d : Bytes) : Option Nat :=
  let n := (q.reg 4).toNat
  let out := flyOut d
  let stages := List.range (min 8 (flyStages d))
  firstFailure
    [(field d 0 2 != 1 || decide (3 < flyFlags d) || !zeroAt d 9 7 || !zeroAt d 0x70 16 ||
       stages.any (fun j => !zeroAt d (0x12 + 12 * j) 2) ||
       !zeroAt d (0x10 + 12 * flyStages d) (12 * (8 - flyStages d)), 0x01),
     (flyStages d == 0 || decide (8 < flyStages d) || stages.any (stageBad d), 0x02),
     (decide (0xC < flyIn d) || (if flySecond d then decide (2 < flyIn2 d) else flyIn2 d != 0) ||
       !(decide (out ≤ 0xB) || (out == 0xF && q.rung.isSome)) || decide (1 < field d 5 1) ||
       ((fmtScaled out || out == 0xF) && (flyGauge d).isNone), 0x03),
     (!k.inAlloc (q.reg 1).toNat (streamBytes (flyIn d) n) ||
       (flySecond d && !k.inAlloc (q.reg 3).toNat (streamBytes (flyIn2 d) n)) ||
       !k.inAlloc (q.reg 2).toNat (streamBytes out n), 0x04)]

/-- One element through the stages (R243): each rounds to FP32 by RNE. -/
def flyStage (d : Bytes) (x y : W32) (a : W32) (j : Nat) : W32 :=
  let b := match stageSelect d j with
    | 1 => stageB d j
    | 2 => y.toNat
    | 3 => x.toNat
    | _ => 0
  BitVec.ofNat 32 (floatLane fp32L .rne (stageFn d j) a.toNat b (stageC d j))

def flyElement (d : Bytes) (x y : W32) : W32 := (List.range (flyStages d)).foldl (flyStage d x y) x

/-! ### Charges (R246) -/

/-- The charges of a vector instruction; a flight's from its descriptor. -/
def vectorCharges (q : QInstr) (d : Bytes) : List Charge :=
  let w := q.word
  match wOp w with
  | 0x01 =>
    if fnTranscendental (vopFn w) then charge 1 20 4 false else charge 1 (if vopFn w = 3 then 8 else 6) 1 false
  | 0x10 => charge 32 8 1 false
  | 0x11 => charge (if tredOp w = 5 then 64 else 32) 6 1 false
  | 0x12 => charge (if rmrgOp w = 5 then 16 else 8) 4 1 false
  | 0x13 => charge ((q.reg 2).toNat / 32) 6 1 false
  | 0x14 => charge ((q.reg 3).toNat / 32) 6 1 false
  | 0x15 =>
    let n := ((q.reg 2).toNat + 31) / 32
    (List.replicate (q.reg 3).toNat (charge n 4 1 false ++ charge (2 * n) 20 4 false)).flatten
  | 0x20 =>
    let slow := (List.range (flyStages d)).filter (fun j => fnTranscendental (stageFn d j))
    charge ((q.reg 4).toNat / 32) (4 + 20 * slow.length + 4 * (flyStages d - slow.length)) (if slow = [] then 1 else 4) false
  | _ => charge 1 3 1 false

/-! ### What a vector instruction reads and writes (R245) -/

/-- Vector registers, tile registers, and ranges of the allocation as offset and length. -/
structure Operands where
  vregs : List Nat
  tiles : List Nat
  ranges : List (Nat × Nat)
  deriving DecidableEq, Repr

/-- Two sets of operands share something. -/
def Operands.meet (a b : Operands) : Bool :=
  a.vregs.any b.vregs.contains || a.tiles.any b.tiles.contains || a.ranges.any (fun r => b.ranges.any (rangesMeet r))

/-- The vector registers a VOP reads. -/
def vopReads (w : W64) : List Nat :=
  let fn := vopFn w
  let second := !(fnUnary fn || vopScalar w || (fn == 0xC && !cvtNarrow w))
  vopS1 w :: (if second then [vopS2 w] else []) ++ (if fn = 3 ∨ fn = 0xB then [vopS3 w] else [])

/-- What an instruction reads; `d` is a flight's descriptor. -/
def vectorReads (q : QInstr) (d : Bytes) : Operands :=
  let w := q.word
  let r := fun i => (q.reg i).toNat
  match wOp w with
  | 0x01 => ⟨vopReads w, [], []⟩
  | 0x02 => ⟨[], [], [((vldOffset (q.reg 0) w).toNat, 128)]⟩
  | 0x03 => ⟨[wA w], [], []⟩
  | 0x04 => ⟨[], [bitsOf w.toNat 48 45], []⟩
  | 0x05 => ⟨[wA w], [], []⟩
  | 0x10 => ⟨[], [toutTs w], []⟩
  | 0x11 => ⟨[], [bitsOf w.toNat 53 50], if tredMerge w then [(r 0, 32 * recordSize (tredOp w))] else []⟩
  | 0x12 => ⟨[], [], [(r 0, 32 * recordSize (rmrgOp w)), (r 1, 32 * recordSize (rmrgOp w))]⟩
  | 0x13 => ⟨[], [], [(r 0, streamBytes (scvtIn w) (r 2))]⟩
  | 0x14 => ⟨[], if raddTally w then [raddTile w] else [], (r 0, 4 * r 3) :: if raddTally w then [] else [(r 1, 4 * r 3)]⟩
  | 0x15 => ⟨[], [], [(r 0, smaxBytes (smaxIn w) (r 2) (r 3))]⟩
  | 0x20 => ⟨[], [], [(r 0, 128), (r 1, streamBytes (flyIn d) (r 4))] ++
      if flySecond d then [(r 3, streamBytes (flyIn2 d) (r 4))] else []⟩
  | _ => ⟨[], [], []⟩

/-- What an instruction writes. -/
def vectorWrites (q : QInstr) (d : Bytes) : Operands :=
  let w := q.word
  let r := fun i => (q.reg i).toNat
  match wOp w with
  | 0x01 => ⟨[vopVd w], [], []⟩
  | 0x02 => ⟨[wA w], [], []⟩
  | 0x03 => ⟨[], [], [((vldOffset (q.reg 0) w).toNat, 128)]⟩
  | 0x04 => ⟨[wA w], [], []⟩
  | 0x05 => ⟨[], [bitsOf w.toNat 48 45], []⟩
  | 0x10 => ⟨[], if toutClear w then [toutTs w] else [], [(r 0, toutBytes (resolveFormat (toutFmt w) q.rung))]⟩
  | 0x11 => ⟨[], [], [(r 0, 32 * recordSize (tredOp w))]⟩
  | 0x12 => ⟨[], [], [(r 1, 32 * recordSize (rmrgOp w))]⟩
  | 0x13 => ⟨[], [], [(r 1, streamBytes (resolveFormat (scvtOut w) q.rung) (r 2))]⟩
  | 0x14 => ⟨[], [], [(r 2, 4 * r 3)]⟩
  | 0x15 => ⟨[], [], [(r 1, smaxBytes (smaxOut w) (r 2) (r 3))]⟩
  | 0x20 => ⟨[], [], [(r 2, streamBytes (resolveFormat (flyOut d) q.rung) (r 4))]⟩
  | _ => ⟨[], [], []⟩

/-- An instruction reads what one still in flight writes. -/
def vectorWaits (earlier : List InFlight) (q : QInstr) (d : Bytes) : Bool :=
  earlier.any (fun f => (vectorWrites f.q f.data).meet (vectorReads q d))

/-! ### Streams (R235-R240) -/

/-- A plane of a stream in the allocation: offset, length in bytes, bits per element, and the bytes of a group of 32
elements. -/
structure Plane where
  off : Nat
  len : Nat
  bits : Nat
  group : Nat
  deriving DecidableEq, Repr

/-- The planes of a stream of n elements. -/
def streamPlanes (code off n : Nat) : List Plane :=
  ⟨off, planeBytes code n, fmtBits code, planeBytes code 32⟩ ::
    if fmtScaled code then [⟨off + planeBytes code n, n / 32, 8, 1⟩] else []

/-- An output stream may take the place of an input stream: it starts at the input's offset, and its elements are no larger
(R237). -/
def inPlace (i o : List Plane) : Bool :=
  match i, o with
  | x :: _, y :: _ => x.off == y.off && decide (y.bits ≤ x.bits)
  | _, _ => false

/-- A byte of an output stream lies in an input stream whose place the output may not take (R237). Log entry 22. -/
def clashes (ins : List (List Plane)) (o : List Plane) (p : Nat) : Bool :=
  ins.any (fun i => i.any (fun x => decide (x.off ≤ p) && decide (p < x.off + x.len)) && !inPlace i o)

/-- Write bytes of an output stream from offset p on; a byte that clashes gets an open value. -/
def State.writePlane (s : State) (c : Nat) (ins : List (List Plane)) (o : List Plane) : Nat → Bytes → State
  | _, [] => s
  | p, b :: bs =>
    if clashes ins o p then
      let r := s.free
      State.writePlane (r.2.allocWrite c p [BitVec.ofNat 8 r.1]) c ins o (p + 1) bs
    else State.writePlane (s.allocWrite c p [b]) c ins o (p + 1) bs

/-- Write the first groups of 32 elements of each plane of an output stream, one plane after the other. Log entry 22. -/
def State.writeStream (s : State) (c groups : Nat) (ins : List (List Plane)) (o : List Plane) : List Plane → Bytes → State
  | [], _ => s
  | x :: xs, bs =>
    State.writeStream (s.writePlane c ins o x.off (bs.take (min x.len (groups * x.group)))) c groups ins o xs (bs.drop x.len)

/-- Element i of a stream of n elements at an offset of core c's allocation. -/
def State.streamElem (s : State) (c code off n i : Nat) : Val :=
  let a := s.allocBase c + off
  tensorElem (fun j => s.byte (a + j)) (fun j => s.byte (a + planeBytes code n + j)) code i

/-- The rounding of stream element i under a key (R236). -/
def streamRnd (key : Option SrKey) (i : Nat) : Rnd := rndAt key (i / 128) (i % 128)

/-- Convert a list of values into the first groups of the output stream; all of them, with the events and gauge update of a
conversion. Log entry 24. -/
def State.convertStream (s : State) (c : Nat) (f : InFlight) (groups field : Nat) (gauge : Option Nat) (key : Option SrKey)
    (ins : List (List Plane)) (off : Nat) (exact : Bool) (vals : List Val) : State :=
  let code := resolveFormat field f.q.rung
  let out := streamPlanes code off vals.length
  let cut := decide (32 * groups < vals.length)
  if code = 0xC then
    let s := match gauge with
      | some g => if cut then s else s.updateGauge c g (fun e => e.raisePeak (largestMag vals))
      | none => s
    s.writeStream c groups ins out out
      (vals.flatMap (fun v => leBytes 4 (BitVec.ofInt 32 (toInteger .rne 0 (-2147483648) 2147483647 v).1).toNat))
  else
    let r := convert code f.scale (field == 0xF && !f.gaugeEmpty) (streamRnd key) vals
    let t := s.writeStream c groups ins out out (r.planes code)
    if cut then t else t.finishConversion c f field code gauge (code == 0 && exact) r

/-- SCVT at its completion, or cut off after some groups (R251). -/
def State.finishScvt (s : State) (c : Nat) (f : InFlight) (groups : Nat) : State :=
  let w := f.q.word
  let i := scvtIn w
  let rs := (f.q.reg 0).toNat
  let rd := (f.q.reg 1).toNat
  let n := (f.q.reg 2).toNat
  let ins := [streamPlanes i rs n]
  let out := streamPlanes i rd n
  if i = resolveFormat (scvtOut w) f.q.rung ∧ !fmtScaled i then
    let vals := (List.range n).map (s.streamElem c i rs n)
    let s' := s.writeStream c groups ins out out (s.allocRead c rs (planeBytes i n))
    match scvtGauge w with
    | some g => if 32 * groups < n then s' else s'.updateGauge c g (fun e => e.raisePeak (largestMag vals))
    | none => s'
  else
    let key := if scvtRne w then none else some (srKey f c (f.q.reg 3))
    s.convertStream c f groups (scvtOut w) (scvtGauge w) key ins rd (!fmtScaled i) ((List.range n).map (s.streamElem c i rs n))

/-- RADD at its completion, or cut off after some groups. -/
def State.finishRadd (s : State) (c : Nat) (f : InFlight) (groups : Nat) : State :=
  let w := f.q.word
  let rx := (f.q.reg 0).toNat
  let ry := (f.q.reg 1).toNat
  let n := (f.q.reg 3).toNat
  let y := fun i => if raddTally w then vF32 ((s.core c).tile (raddTile w) i) else s.streamElem c 0 ry n i
  let ins := streamPlanes 0 rx n :: if raddTally w then [] else [streamPlanes 0 ry n]
  let out := streamPlanes 0 (f.q.reg 2).toNat n
  s.writeStream c groups ins out out
    ((List.range n).flatMap (fun i => leBytes 4 (f32 .rne ((s.streamElem c 0 rx n i).add (y i))).toNat))

/-- What one row of SMAX gives: its output elements, and its case of R240 (0 ordinary, 1 NaN, 2 +∞, 3 all masked).
Log entry 23. -/
def smaxRow (l : Layout) (rnd : Nat → Rnd) (zs : List W32) : List Nat × Nat :=
  let vs := zs.map vF32
  let posInf := vs.filter (fun v => v == .inf false)
  if vs.any Val.isNan then (vs.map (fun _ => l.canonNan), 1)
  else if posInf ≠ [] then
    (vs.zipIdx.map (fun p => if p.1 == .inf false then
      l.div (rnd p.2) (Val.ofInt 1 0) (Val.ofInt posInf.length 0) else 0), 2)
  else if vs.all Val.isInf then (vs.map (fun _ => 0), 3)
  else
    let top := vs.foldl (fun acc v => if acc.lt v then v else acc) (.inf true)
    -- y is at most 1 (R240)
    let exp := fun (v : Val) => BitVec.ofNat 32 (min (transcend 0x10 (f32 .rne (v.add top.neg))).toNat 0x3F800000)
    let ys : List W32 := vs.map (fun v => if v.isInf then 0 else exp v)
    let part := fun j => ((List.range (ys.length / 32 + 1)).map (fun i => ys.getD (j + 32 * i) 0)).foldl add32 0
    let sum := (treeOf add32 ((List.range (min ys.length 32)).map part)).getD 0 0
    (ys.zipIdx.map (fun p => l.div (rnd p.2) (vF32 p.1) (vF32 sum)), 0)

/-- How far the passes over a row of SMAX have come after some groups: the groups normalised, and those the exponential pass
has reached. `n` is the groups of a row. -/
def smaxReach (n p : Nat) : Nat × Nat := (p - 2 * n, min n (p - n))

/-- SMAX at its completion, or cut off after some groups. The rows before the cut stand, and of the row it falls in the
normalised groups; the rest of what the exponential pass has reached is open. Log entry 31. -/
def State.finishSmax (s : State) (c : Nat) (f : InFlight) (groups : Nat) : State :=
  let w := f.q.word
  let rs := (f.q.reg 0).toNat
  let rd := (f.q.reg 1).toNat
  let n := (f.q.reg 2).toNat
  let g := (f.q.reg 3).toNat
  let i := smaxIn w
  let o := smaxOut w
  let scale : W32 := if bitsOf w.toNat 33 29 = 0 then 0x3F800000 else BitVec.ofNat 32 (f.q.reg 4).toNat
  let key := if smaxRne w then none else some (srKey f c (f.q.reg 5))
  let l := if o = 0 then fp32L else bf16L
  let rows := (List.range g).map (fun r =>
    smaxRow l (fun e => rndAt key (r * ((n + 127) / 128) + e / 128) (e % 128))
      ((List.range n).map (fun e => f32 .rne ((vF32 scale).mul (s.streamElem c i (rs + r * smaxStride i n) n e)))))
  let ins : List (List Plane) := [[⟨rs, smaxBytes i n g, fmtBits i, planeBytes i 32⟩]]
  let out : List Plane := [⟨rd, smaxBytes o n g, fmtBits o, planeBytes o 32⟩]
  let per := (n + 31) / 32
  let done := groups / (3 * per)
  let s := s.forEach (rows.zipIdx.take done) (fun s p =>
    s.writePlane c ins out (rd + p.2 * smaxStride o n) (packPlane o p.1.1))
  let count := fun k => ((rows.take done).filter (fun p => p.2 == k)).length
  let s := s.setCore c { s.core c with emptyRows := satCount ((s.core c).emptyRows + count 3) }
  if done < g then
    match rows[done]? with
    | none => s
    | some row =>
      let at_ := rd + done * smaxStride o n
      let bytes := packPlane o row.1
      let reach := smaxReach per (groups - done * (3 * per))
      let whole := bytes.take (reach.1 * planeBytes o 32)
      let left := min bytes.length (reach.2 * planeBytes o 32) - whole.length
      let t := s.writePlane c ins out at_ whole
      let r := t.freeBytes left
      r.1.allocWrite c (at_ + whole.length) r.2
  else
    let s := if count 2 = 0 then s else s.coreEvent c f 0x10 0xFF (min (count 2) 65535)
    if count 1 = 0 then s else s.coreEvent c f 0x11 0xFF (min (count 1) 65535)

/-- FLY at its completion, or cut off after some groups. -/
def State.finishFly (s : State) (c : Nat) (f : InFlight) (groups : Nat) : State :=
  let d := f.data
  let n := (f.q.reg 4).toNat
  let x := fun i => f32 .rne (s.streamElem c (flyIn d) (f.q.reg 1).toNat n i)
  let y := fun i => if flySecond d then f32 .rne (s.streamElem c (flyIn2 d) (f.q.reg 3).toNat n i) else 0
  let ins := streamPlanes (flyIn d) (f.q.reg 1).toNat n ::
    if flySecond d then [streamPlanes (flyIn2 d) (f.q.reg 3).toNat n] else []
  let key := if flyRne d then none else some (srKey f c (f.q.reg 5))
  s.convertStream c f groups (flyOut d) (flyGauge d) key ins (f.q.reg 2).toNat true
    ((List.range n).map (fun i => vF32 (flyElement d (x i) (y i))))

/-! ### Completion of lane instructions and reductions -/

/-- The events of a CVT (R224): counts of NaN and infinite inputs, and whether a lane saturated or overflowed. -/
def State.cvtEvents (s : State) (c : Nat) (f : InFlight) (st dt : Nat) (src : List Nat) (beyond : Bool) : State :=
  let vs := src.map (laneVal st)
  let nans := (vs.filter Val.isNan).length
  let infs := (vs.filter Val.isInf).length
  let code := dt + 16
  let exact := laneFloat dt && decide (laneWidth st < laneWidth dt)
  let s := if exact ∨ nans + infs = 0 then s
    else s.coreEvent c f 0x03 0xFF (code + nans * 2 ^ 16 + infs * 2 ^ 32)
  if beyond then s.coreEvent c f (if laneFloat dt then 0x04 else 0x02) 0xFF code else s

/-- VOP at its completion. -/
def State.finishVop (s : State) (c : Nat) (f : InFlight) : State :=
  let w := f.q.word
  let k := s.core c
  let t := vopLane w
  let fn := vopFn w
  let a := k.vreg (vopS1 w)
  let b := k.vreg (vopS2 w)
  let key := if vopRne w then none else some (srKey f c (f.q.reg 0))
  if fn = 0xC then
    let dt := cvtDest w
    let b := if vopScalar w then packLanes t (List.replicate (laneCount t) (f.q.reg 1).toNat) else b
    let src := cvtSource w a b
    if dt = t then s.setCore c (k.setVreg (vopVd w) a)
    else
      let r := src.zipIdx.map (fun p => cvtLane t dt (rndAt key 0 p.2) p.1)
      (s.setCore c (k.setVreg (vopVd w) (packLanes dt (r.map (fun x => x.1))))).cvtEvents c f t dt src
        (r.any (fun x => x.2))
  else
    let y := fun i => if vopScalar w then (f.q.reg 1).toNat % 2 ^ laneWidth t else laneOf t b i
    s.setCore c (k.setVreg (vopVd w) (packLanes t ((List.range (laneCount t)).map (fun i =>
      vopLaneFn t fn (vopVariant w) (rndAt key 0 i) (laneOf t a i) (y i) (laneOf t (k.vreg (vopS3 w)) i)))))

/-- VLD and VST at their completion (R225). -/
def State.finishVld (s : State) (c : Nat) (f : InFlight) : State :=
  let off := (vldOffset (f.q.reg 0) f.q.word).toNat
  s.setCore c ((s.core c).setVreg (wA f.q.word) (BitVec.ofNat 1024 (leValue (s.allocRead c off 128))))
def State.finishVst (s : State) (c : Nat) (f : InFlight) : State :=
  s.allocWrite c (vldOffset (f.q.reg 0) f.q.word).toNat (leBytes 128 ((s.core c).vreg (wA f.q.word)).toNat)

def vgetTile (w : W64) : Nat := bitsOf w.toNat 48 45
/-- The element of the tile that lane i of VGET and VPUT names (R227). -/
def vgetElem (w : W64) (i : Nat) : Nat :=
  if bitOf w.toNat 39 then i * 32 + bitsOf w.toNat 44 40 else bitsOf w.toNat 44 40 * 32 + i

/-- VGET and VPUT at their completion. -/
def State.finishVget (s : State) (c : Nat) (f : InFlight) : State :=
  let k := s.core c
  let w := f.q.word
  s.setCore c (k.setVreg (wA w) (packLanes 0 ((List.range 32).map (fun i => (k.tile (vgetTile w) (vgetElem w i)).toNat))))
def State.finishVput (s : State) (c : Nat) (f : InFlight) : State :=
  let w := f.q.word
  s.setCore c ((List.range 32).foldl (fun k i =>
    k.setTile (vgetTile w) (vgetElem w i) (BitVec.ofNat 32 (laneOf 0 (k.vreg (wA w)) i))) (s.core c))

/-- Write 32 merged records at an offset, with the event of a saturated count (R233). -/
def State.writeRecords (s : State) (c : Nat) (f : InFlight) (op off : Nat) (rs : List (Record × Bool)) : State :=
  let s := s.allocWrite c off (rs.flatMap (fun r => recordBytes op r.1))
  if rs.any (fun r => r.2) then s.coreEvent c f 0x12 0xFF 0 else s

/-- The 32 records at an offset. -/
def State.records (s : State) (c op off : Nat) : List Record :=
  let bs := s.allocRead c off (32 * recordSize op)
  (List.range 32).map (recordOf op bs)

/-- TRED at its completion. -/
def State.finishTred (s : State) (c : Nat) (f : InFlight) : State :=
  let w := f.q.word
  let op := tredOp w
  let off := (f.q.reg 0).toNat
  let base := (f.q.reg 1).toNat % 2 ^ 32
  let rs := (List.range 32).map (fun i => reduceOne op base ((List.range (tredLength w)).map (fun p =>
    (s.core c).tile (bitsOf w.toNat 53 50) (if tredAxis w then p * 32 + i else i * 32 + p))))
  s.writeRecords c f op off
    (if tredMerge w then ((s.records c op off).zip rs).map (fun p => mergeRecord op p.1 p.2)
     else rs.map (fun r => (r, false)))

/-- RMRG at its completion: ro's records are a, ri's are b. -/
def State.finishRmrg (s : State) (c : Nat) (f : InFlight) : State :=
  let op := rmrgOp f.q.word
  let ri := (f.q.reg 0).toNat
  let ro := (f.q.reg 1).toNat
  s.writeRecords c f op ro (((s.records c op ro).zip (s.records c op ri)).map (fun p => mergeRecord op p.1 p.2))

/-- A vector instruction at its completion. -/
def State.finishVector (s : State) (c : Nat) (f : InFlight) : State :=
  match wOp f.q.word with
  | 0x01 => s.finishVop c f
  | 0x02 => s.finishVld c f
  | 0x03 => s.finishVst c f
  | 0x04 => s.finishVget c f
  | 0x05 => s.finishVput c f
  | 0x10 => s.finishTout c f
  | 0x11 => s.finishTred c f
  | 0x12 => s.finishRmrg c f
  | 0x13 => s.finishScvt c f (unitsLeft (vectorCharges f.q f.data))
  | 0x14 => s.finishRadd c f (unitsLeft (vectorCharges f.q f.data))
  | 0x15 => s.finishSmax c f (unitsLeft (vectorCharges f.q f.data))
  | 0x20 => s.finishFly c f (unitsLeft (vectorCharges f.q f.data))
  | _ => s

/-- A streaming instruction, whose operations are its groups of 32 elements (R251). -/
def isStream (w : W64) : Bool := wOp w == 0x13 || wOp w == 0x14 || wOp w == 0x15 || wOp w == 0x20

/-- A streaming instruction abandoned after some groups: their outputs stand, and it reports nothing (R251). Log entry 31. -/
def State.partVector (s : State) (c : Nat) (f : InFlight) (groups : Nat) : State :=
  match wOp f.q.word with
  | 0x13 => s.finishScvt c f groups
  | 0x14 => s.finishRadd c f groups
  | 0x15 => s.finishSmax c f groups
  | 0x20 => s.finishFly c f groups
  | _ => s

end Sys2Proof.Machine
end

