-- ==== Sys2Proof/Machine/Engines.lean ====
section
/-!
DEFINITION. How an engine issues the instruction at the head of its queue (R123, R126, R137), how an instruction completes
(R124), and the retry of a region (R137, R173).
-/
namespace Sys2Proof.Machine

/-- The format field and gauge of an instruction that converts; `d` is a flight's descriptor. -/
def convOf (e : Engine) (w : W64) (d : Bytes) : Option (Nat × Option Nat) :=
  match e, wOp w with
  | .press, 0x02 => some (toutFmt w, toutGauge w)
  | .vector, 0x10 => some (toutFmt w, toutGauge w)
  | .vector, 0x13 => some (scvtOut w, scvtGauge w)
  | .vector, 0x20 => some (flyOut d, flyGauge d)
  | _, _ => none

/-- The instruction was dispatched inside the open region. -/
def Region.holds (r : Region) (e : Engine) (q : QInstr) : Bool := decide (r.first.get e ≤ q.number)

/-- A region whose overflow has been reported lets nothing of its own issue (R137). -/
def Core.heldByRetry (k : Core) (e : Engine) (q : QInstr) : Bool :=
  match k.region with
  | some r => r.overflow.isSome && r.holds e q
  | none => false

/-- Nothing holds the head of a queue: the context is live, no barrier, no retry. -/
def State.mayIssue (s : State) (c : Nat) (e : Engine) (q : QInstr) : Bool :=
  let k := s.core c
  k.live && s.clocked c && !k.heldAtBarrier e q.number && !k.heldByRetry e q && (e != .sync || s.syncFree c q)

/-- The barges that a cluster's engine moves (R276). -/
def State.bargesMoved (s : State) (k : Nat) : Nat :=
  ((s.cores.filter (fun e => e.1 / 8 == k)).map (fun e => e.2.flight.barge.length)).sum +
    (s.ringBarges.filter (fun x => x.cluster == k)).length

/-- The instructions of an engine in flight that have still to be charged. -/
def Core.unpaid (k : Core) (e : Engine) : List InFlight := (k.flight.get e).filter (fun f => f.charges != [])

/-- The press runs two instructions at once, one in its beats and one fetching; the vector engine begins one after the other
(R207, R245). -/
def runsAtOnce (e : Engine) : Nat := if e = .press then 2 else 1

/-- Put an instruction in flight. -/
def State.putInFlight (s : State) (c : Nat) (e : Engine) (f : InFlight) : State :=
  let k := s.core c
  s.setCore c { k with queue := k.queue.set e ((k.queue.get e).drop 1)
                       flight := k.flight.set e (k.flight.get e ++ [f])
                       expressSince := if e = .barge then none else k.expressSince }

/-- What an instruction reads as it issues: the basin's step and seed (R162, R416). Log entry 17. -/
def State.flightOf (s : State) (c : Nat) (q : QInstr) (charges : List Charge) : InFlight :=
  let b := s.basin (s.core c).basin
  { q := q, step := b.step, seed := b.seed, scale := 0, gaugeEmpty := true, charges := charges, paid := 0,
    waitSince := none, desc := none, stage := 0, data := [] }

/-- A press or vector instruction issues, unless it reads what an earlier vector instruction has still to write (R245): its
flight descriptor is checked (R249), its gauge opened (R168, R171) and the scale taken (R169). -/
def State.issueCompute (s : State) (c : Nat) (e : Engine) (q : QInstr) : State :=
  let fly := e == .vector && wOp q.word == 0x20
  let data := if fly then s.allocRead c (q.reg 0).toNat 128 else []
  let charges := if e = .press then pressCharges q else vectorCharges q data
  if e == .vector && vectorWaits (s.core c).flight.vector q data then s
  else match if fly then flyFault (s.core c) q data else none with
  | some d => s.enterFault c (0x300 + d) q.index
  | none =>
    let f := { s.flightOf c q charges with data := data }
    match convOf e q.word data with
    | none => s.putInFlight c e f
    | some (field, none) =>
      let _ := field
      s.putInFlight c e f
    | some (field, some g) =>
      match s.issueGauge c g f.step with
      | none => s.enterFault c 0x0202 q.index
      | some t =>
        let x := t.issueScale c (resolveFormat field q.rung) (some g)
        t.putInFlight c e { f with scale := x.1, gaugeEmpty := x.2 }

/-- A press or vector instruction issues when the engine has come to it: what earlier ones have still to be charged is
charged first, and without credits it waits. -/
def State.issueNext (s : State) (c : Nat) (e : Engine) (q : QInstr) : State :=
  let t := if ((s.core c).unpaid e).length < runsAtOnce e then s else s.catchUp c e
  if ((t.core c).unpaid e).length < runsAtOnce e then t.issueCompute c e q else t

/-- A barge issues while its cluster's engine moves fewer than 32: its descriptor is read and checked, its bucket covers it
(R266, R276, R281, R421). -/
def State.issueBarge (s : State) (c : Nat) (q : QInstr) : State :=
  let k := s.core c
  let d := s.instrDesc c q
  let m := s.coreMover c
  let detail := s.bargeVerdict m d (wOp q.word == 1 && brgLocal q.word)
  let express := d.cls == 0 && d.total != 0 && decide (d.total ≤ 4096)
  if 32 ≤ s.bargesMoved (c / 8) then s
  else if express && !s.expressCovers k.basin (c / 8) d.total then
    s.setCore c { k with expressSince := some (k.expressSince.getD s.now) }
  else
    let f := { s.flightOf c q (s.bargeCharges m d (wOp q.word == 1) detail) with desc := some d, stage := detail }
    (if express then s.takeExpress k.basin (c / 8) d.total k.expressSince else s).putInFlight c .barge f

/-- A sync instruction issues. An SRSIG to another core needs 64 bytes of its express bucket (R421). -/
def State.issueSync (s : State) (c : Nat) (q : QInstr) : State :=
  let k := s.core c
  let remote := wOp q.word == 4 && (q.reg 0).toNat != c
  if remote && !s.expressCovers k.basin (c / 8) 64 then
    s.setCore c { k with expressSince := some (k.expressSince.getD s.now) }
  else
    let s := if remote then s.takeExpress k.basin (c / 8) 64 k.expressSince else s
    let s := if remote then s.setCore c { s.core c with expressSince := none } else s
    let r := s.syncStart c q
    if !(r.1.core c).live then r.1
    else r.1.putInFlight c .sync { r.1.flightOf c q [] with stage := r.2 }

/-- ENGINE_ISSUE: the instruction at the head of a queue issues. Log entry 17. -/
def execEngineIssue (c : CoreId) (e : Engine) (s : State) : Host.Outcome State Fault Refusal :=
  .next (match (s.core c).queue.get e with
    | [] => s
    | q :: _ =>
      if !s.mayIssue c e q then s
      else match e with
        | .barge => s.issueBarge c q
        | .sync => s.issueSync c q
        | e => s.issueNext c e q)

/-- The oldest instruction of an engine, its charges paid, takes its effect and completes; none when it cannot. -/
def State.completeOldest (s : State) (c : Nat) (e : Engine) : Option State :=
  match (s.core c).flight.get e with
  | [] => none
  | f :: _ =>
    if f.charges ≠ [] then none
    else match e with
      | .press => some ((s.finishPress c f).completeHead c e)
      | .vector => some ((s.finishVector c f).completeHead c e)
      | .barge => s.coreBargeComplete c
      | .sync => some (s.syncComplete c f)

/-- INSTRUCTION_COMPLETE: the oldest instruction of an engine completes (R124); what it has still to be charged is charged
first, and without credits it waits. Log entries 17 and 19. -/
def execInstructionComplete (c : CoreId) (e : Engine) (s : State) : Host.Outcome State Fault Refusal :=
  .next (if !(s.core c).live || !s.clocked c then s
    else
      let t := s.catchUp c e
      (t.completeOldest c e).getD (if (t.core c).waitsAt e then t else s))

/-! ### Retry (R137) -/

/-- REGION_OVERFLOW: dispatch stops, and the region's instructions that have not begun to issue leave their queues. -/
def execRegionOverflow (c : CoreId) (s : State) : Host.Outcome State Fault Refusal :=
  let k := s.core c
  .next (match k.region with
    | none => s
    | some r =>
      if r.overflow.isNone ∨ r.stopped ∨ !k.live then s
      else
        s.setCore c (engines.foldl (fun k e =>
          let kept := (k.queue.get e).filter (fun q => !r.holds e q)
          { k with dispatched := k.dispatched.set e (k.dispatched.get e - ((k.queue.get e).length - kept.length))
                   queue := k.queue.set e kept })
          { k with region := some { r with stopped := true }
                   expressSince := if k.queue.barge.any (r.holds .barge) then none else k.expressSince }))

/-- The gauges that overflows name, each once with the largest magnitude reported for it (R173). -/
def raisedGauges (l : List (Nat × W32)) : List (Nat × W32) :=
  l.foldl (fun acc g => if acc.any (fun x => x.1 == g.1) then
    acc.map (fun x => if x.1 = g.1 then (x.1, maxF32 x.2 g.2) else x) else acc ++ [g]) []

/-- RETRY_RESTART: every instruction let through has completed; the gauges are raised, the event is written, the rung rises,
and the body begins again. -/
def execRetryRestart (c : CoreId) (s : State) : Host.Outcome State Fault Refusal :=
  let k := s.core c
  .next (match k.region with
    | none => s
    | some r =>
      match r.overflow with
      | none => s
      | some o =>
        if !r.stopped ∨ !k.live ∨ engines.any (fun e => k.completed.get e != k.dispatched.get e) then s
        else
          let t := s.forEach (raisedGauges r.raised) (fun s g => s.updateGauge c g.1 (fun e => e.raise g.2))
          let t := t.numEvent k.basin
            ⟨0x01, 0, c, o.index, 2, o.gauge, (s.basin k.basin).step, c / 256, r.rung + o.m.toNat * 2 ^ 32⟩
          t.setCore c { t.core c with
            region := some { r with rung := min 3 (r.rung + 1), first := k.dispatched, finished := false, stopped := false,
                                    overflow := none, raised := [] }
            loops := k.loops.drop (k.loops.length - r.loopDepth)
            barriers := []
            seqWait := .free
            pc := r.rtry + 1 })

end Sys2Proof.Machine
end

