-- ==== Sys2Proof/Machine/Rings.lean ====
section
/-!
DEFINITION. Work rings (R417-R420): the next entry of a ring, whether it may be taken and is well formed, and its taking.
-/
namespace Sys2Proof.Machine

def entryType (e : Bytes) : Nat := field e 0 1
def entryFlags (e : Bytes) : Nat := field e 1 1
def entryTarget (e : Bytes) : Nat := field e 2 2
def entryAddr (e : Bytes) : Nat := field e 8 8
def entryLength (e : Bytes) : Nat := field e 0x10 8
def entryClass (e : Bytes) : Nat := field e 0x18 1

/-- The next entry may be taken: the ring runs, has one, and has room for its record (R417). -/
def State.ringReady (s : State) (b r : Nat) : Bool :=
  let k := s.ring b r
  (s.basin b).st == .open && k.count != 0 && !k.stopped && k.prod != k.cons &&
    decide ((k.cons - k.cplCons).toNat < k.count)

/-- The 64 bytes of the next entry. -/
def State.ringEntry (s : State) (b r : Nat) : Except Nat Bytes :=
  let k := s.ring b r
  s.basinRead b (k.work.toNat + 64 * (k.cons.toNat % k.count)) 64

/-- A towpath send whose length or class is out of range, or whose flow does not permit the class (R418, R375). -/
def sendBad (t : Sheets) (b : Nat) (e : Bytes) : Bool :=
  let f := entryTarget e
  entryLength e == 0 || decide (2 ^ 32 < entryLength e) || decide (2 < entryClass e) ||
    (entryClass e == 0 && decide (4096 < entryLength e)) || !flowEnabled t f || flowBasin t f != b ||
    !bitOf (flowClasses t f) (entryClass e)

/-- An entry that gets a record with status malformed (R418). Log entry 30. -/
def entryMalformed (t : Sheets) (b : Nat) (e : Bytes) : Bool :=
  decide (4 < entryType e) || decide (3 < entryFlags e) || !zeroAt e 0x19 39 ||
    (entryType e != 4 && (entryLength e != 0 || entryClass e != 0)) ||
    ((entryType e == 0 || entryType e == 3) && entryTarget e != 0) || (entryType e == 4 && sendBad t b e)

/-- The reference that an entry's record will carry. -/
def State.entryRef (s : State) (b r : Nat) (e : Bytes) : RingRef :=
  ⟨b, r, (s.ring b r).cons, BitVec.ofNat 32 (field e 4 4), BitVec.ofNat 8 (entryType e), BitVec.ofNat 8 (entryFlags e)⟩

/-- Take the next entry: it counts as taken until its record is written. -/
def State.takeEntry (s : State) (b r : Nat) (x : RingRef) : State :=
  let k := s.ring b r
  s.setRing b r { k with cons := k.cons + 1, taken := k.taken ++ [x] }

/-- The next entry of a type, taken: its reference, its bytes and the state after. None when the ring gives no well-formed
entry of the type now; a fenced entry waits for every earlier one (R418). Log entry 30. -/
def State.nextOf (s : State) (b r type : Nat) : Option (RingRef × Bytes × State) :=
  if !s.ringReady b r then none
  else match s.ringEntry b r with
    | .error _ => none
    | .ok e =>
      if entryType e ≠ type ∨ entryMalformed s.sheets b e ∨ (bitOf (entryFlags e) 0 ∧ (s.ring b r).taken ≠ []) then none
      else
        let x := s.entryRef b r e
        some (x, e, s.takeEntry b r x)

/-- RING_NOOP: a no-op entry is taken and completes (R418). -/
def execRingNoop (b : BasinId) (r : RingId) (s : State) : Host.Outcome State Fault Refusal :=
  .next (match s.nextOf b r 0 with
    | none => s
    | some (x, _, t) => t.complete x (.done 0))

/-- RING_ENTRY_MALFORMED: a malformed entry is taken and recorded with status 4; one that cannot be read is recorded as
failed with the barge detail of the read. -/
def execRingEntryMalformed (b : BasinId) (r : RingId) (s : State) : Host.Outcome State Fault Refusal :=
  .next (if !s.ringReady b r then s
    else match s.ringEntry b r with
      | .error d =>
        let x := s.entryRef b r []
        (s.takeEntry b r x).complete x ⟨3, 0x400 + d, 0, 0, 0⟩
      | .ok e =>
        if !entryMalformed s.sheets b e ∨ (bitOf (entryFlags e) 0 ∧ (s.ring b r).taken ≠ []) then s
        else
          let x := s.entryRef b r e
          (s.takeEntry b r x).complete x ⟨4, 0, 0, 0, 0⟩)

end Sys2Proof.Machine
end

