-- ==== Sys2Proof/Machine/TurnGate.lean ====
section
/-!
DEFINITION. What a turn changes in the entry of a basin, a port, a logical cluster or a check unit (R73, R377, R427), and
the gate holds that keep new work out while a turn is prepared (R77).
-/
namespace Sys2Proof.Machine

/-- The sheets a committed turn would make active, as the head keeper's shadow holds them. -/
def State.nextSheets (s : State) : Sheets := (s.die s.pkg.head).shadow

/-- The entry of a PCIe port in the basins sheet. -/
def pcieEntry (t : Sheets) (p : Nat) : Bytes := slice (t.body 5) (0x10 + 8 * p) 8

/-- A basin's entry changes, or that of a PCIe port on which it has a segment (R427). -/
def bsnChanged (t u : Sheets) (b : Nat) : Bool :=
  slice (t.body 5) (0x50 + 64 * b) 64 != slice (u.body 5) (0x50 + 64 * b) 64 ||
  (List.range 8).any (fun p => pcieEntry t p != pcieEntry u p &&
    (List.range 4).any (fun i => bsnHasSegment t b (4 * p + i) || bsnHasSegment u b (4 * p + i)))

/-- A basin's ranges change (R289), or the interleave of DDR on which it has one (R256). Log entry 52. -/
def rangesChanged (t u : Sheets) (b : Nat) : Bool :=
  basinRanges t b != basinRanges u b ||
  [0, 1].any (fun pd => mapWidth t pd != mapWidth u pd &&
    (basinRanges t b ++ basinRanges u b).any (fun r => r.kind == 2 && (r.first - 0x1000) / 2048 == pd))

/-- A logical cluster's map entry changes, or its die's place in the service mask. Log entry 52. -/
def mapChanged (t u : Sheets) (c : Nat) : Bool :=
  topMap t (c / 32) (c % 32) != topMap u (c / 32) (c % 32) ||
  bitOf (topService t) (c / 32) != bitOf (topService u) (c / 32)

def flowEntry (t : Sheets) (f : Nat) : Bytes := slice (t.body 7) (0x750 + 32 * f) 32

/-- A port's entry changes: its own, a flow entry that names it, or what counts as part of it (R377). -/
def portChanged (t u : Sheets) (p : Nat) : Bool :=
  slice (t.body 7) (0x50 + 32 * p) 32 != slice (u.body 7) (0x50 + 32 * p) 32 ||
  (List.range 1024).any (fun f => flowEntry t f != flowEntry u f &&
    ((flowEnabled t f && (flowPorts t f).contains p) || (flowEnabled u f && (flowPorts u f).contains p))) ||
  ((towMode t p == 2 || towMode u p == 2) && slice (t.body 7) 4 12 != slice (u.body 7) 4 12) ||
  ((towSet t p || towSet u p) &&
    slice (t.body 7) (0x10 + 16 * (p / 14)) 16 != slice (u.body 7) (0x10 + 16 * (p / 14)) 16)

/-- A check unit's entry changes. -/
def chkChanged (t u : Sheets) (i : Nat) : Bool :=
  slice (t.body 14) (0x10 + 16 * i) 16 != slice (u.body 14) (0x10 + 16 * i) 16

/-- A turn holds a die and changes a sheet. -/
def State.holds (s : State) (d ty : Nat) : Bool :=
  match s.pkg.turn with
  | some t => t.holds.contains d && t.changed.contains ty
  | none => false

/-- A gate hold keeps a basin's work off a cluster: no context start, no ring barge. -/
def State.workHeld (s : State) (b c : Nat) : Bool :=
  let d := c / 32
  let t := s.sheetsOn d
  let u := (s.die d).shadow
  (s.holds d 4 && mapChanged t u c) || (s.holds d 5 && bsnChanged t u b) || (s.holds d 6 && rangesChanged t u b) ||
  (s.holds d 9 && numFlight t b != numFlight u b)

/-- A gate hold keeps a port from being brought up. -/
def State.portHeld (s : State) (p : Nat) : Bool :=
  s.holds (p / 14) 7 && portChanged (s.sheetsOn (p / 14)) (s.die (p / 14)).shadow p

/-- A gate hold keeps a basin's buckets and slices from opening on a die: one for the sluice sheet, or for a changed entry or
changed ranges of the basin (R77). Log entry 37. -/
def State.slcHeld (s : State) (b d : Nat) : Bool :=
  let t := s.sheetsOn d
  let u := (s.die d).shadow
  s.holds d 10 || (s.holds d 5 && bsnChanged t u b) || (s.holds d 6 && rangesChanged t u b)

end Sys2Proof.Machine
end

