-- ==== Sys2Proof/Machine/Context.lean ====
section
/-!
DEFINITION. A context's life (05_core_sequencer): its start from a ring entry (R108-R115), its end by HALT (R145) and by a
fault (R149).
-/
namespace Sys2Proof.Machine

/-! ### Start -/

/-- The fields of a context descriptor (R108). -/
structure CtxDesc where
  flags : Nat
  core : Nat
  tag : Nat
  image : Nat
  length : Nat
  entry : Nat
  firstBank : Nat
  bankCount : Nat
  sems : Nat
  args : Nat
  argCount : Nat
  badHead : Bool
  deriving DecidableEq, Repr

def CtxDesc.ofBytes (b : Bytes) : CtxDesc :=
  { flags := field b 2 2, core := field b 4 2, tag := field b 6 2, image := field b 8 8, length := field b 0x10 2,
    entry := field b 0x12 2, firstBank := field b 0x14 1, bankCount := field b 0x15 1, sems := field b 0x16 2,
    args := field b 0x18 8, argCount := field b 0x20 1,
    badHead := field b 0 2 != 1 || decide (1 < field b 2 2) || !zeroAt b 0x21 31 }

def CtxDesc.loads (d : CtxDesc) : Bool := bitOf d.flags 0

/-- The physical semaphores of a cluster that are free. Log entry 28. -/
def State.freeSems (s : State) (k : Nat) : List Nat :=
  (List.range 1024).filter (fun i => nget (fun _ => 1024) (s.cluster k).semOwner i == 1024)

/-- The physical semaphores held by the contexts of a basin (R291). -/
def State.basinSems (s : State) (b : Nat) : Nat :=
  ((s.cores.filter (fun e => e.2.basin == b && e.2.ctx != .idle)).map (fun e => e.2.semMap.length)).sum

/-- The checks of R109 after the descriptor has been read, in their order. -/
def State.startRefusal (s : State) (b target : Nat) (d : CtxDesc) : Option Nat :=
  let k := d.core / 8
  let core := s.core d.core
  firstFailure
    [(d.badHead || decide (1024 ≤ d.core) || d.core != target, 0x01),
     (s.physCluster k == 0xFF || !bsnHasCluster (s.sheetsOn (k / 32)) b k, 0x02),
     (core.ctx != .idle, 0x03),
     (d.length == 0 || decide (8192 < d.length) || decide (d.length ≤ d.entry) || (d.loads && d.image % 64 != 0) ||
       decide (31 < d.argCount) || (d.argCount != 0 && d.args % 8 != 0), 0x04),
     (decide (23 < d.firstBank) || d.bankCount == 0 || decide (24 < d.firstBank + d.bankCount), 0x05),
     (decide (256 < d.sems) || decide ((s.freeSems k).length < d.sems) ||
       decide (bsnQuota (s.sheetsOn (k / 32)) b < s.basinSems b + d.sems), 0x06),
     (!d.loads && !(core.storeValid && core.storeLen == d.length), 0x07),
     (!(s.cluster k).granted || !s.clusterPresent k, 0x09)]

/-- Allocate and clear the physical semaphores of a start (R290). Log entry 28. -/
def State.allocSems (s : State) (c n : Nat) : State × List Nat :=
  let ids := (s.freeSems (c / 8)).take n
  let cl := s.cluster (c / 8)
  (s.setCluster (c / 8) { cl with
     sems := ids.foldl (fun m i => nset (fun _ => 0) m i 0) cl.sems
     semOwner := ids.foldl (fun m i => nset (fun _ => 1024) m i c) cl.semOwner }, ids)

/-- Return a context's physical semaphores, cleared (R291). -/
def State.freeSemsOf (s : State) (c : Nat) : State :=
  let ids := (s.core c).semMap
  let cl := s.cluster (c / 8)
  (s.setCluster (c / 8) { cl with
     sems := ids.foldl (fun m i => nset (fun _ => 0) m i 0) cl.sems
     semOwner := ids.foldl (fun m i => nset (fun _ => 1024) m i 1024) cl.semOwner }).setCore c
       { s.core c with semMap := [] }

/-- The charges of the start barge: the beats of the image, at tier 0 (R280, R281). Log entry 29. -/
def State.imageCharges (s : State) (b : Nat) (d : CtxDesc) : List Charge :=
  let m : Mover := ⟨b, none, d.core / 8⟩
  let beats := if d.loads then beatsOf (d.length / 8 + 2) (some d.image) 0 (d.length * 8) else []
  (beats.foldl (fun acc x =>
    match s.accessVia (some (d.core / 8)) b false (x.src.getD 0) with
    | .ok pa => addCharge false acc (endCharge m.cluster pa)
    | .error _ => acc) []).reverse

/-- A start barge pays up to n beats from the cluster's unreserved balance (R281). Log entry 29. -/
def State.payLoad (s : State) (c n : Nat) : State :=
  let k := s.core c
  let cl := s.cluster (c / 8)
  let r := payUnits 0 k.loadCharges n ⟨0, cl.unreserved, 0⟩
  let s := s.setCluster (c / 8) { cl with unreserved := r.purse.un, charged := cl.charged + r.purse.paid }
  let s := if r.short then s.markWaited (c / 8) else s.endWait (c / 8) k.loadSince
  s.setCore c { k with loadCharges := r.left, loadSince := if r.short then some (k.loadSince.getD s.now) else none }

/-- CONTEXT_START: a context-start entry is taken; the start is refused with a code, or the context is LOADING (R109, R114).
A gate hold of a turn leaves the entry where it is (R77). -/
def execContextStart (b : BasinId) (r : RingId) (s : State) : Host.Outcome State Fault Refusal :=
  .next (match s.nextOf b r 1 with
    | none => s
    | some (x, e, t) =>
      match t.readVia (some (entryTarget e / 8)) b (entryAddr e) 64 with
      | .error _ => t.complete x (.refused 0x08)
      | .ok bs =>
        let d := CtxDesc.ofBytes bs
        if s.workHeld b (d.core / 8) then s
        else match t.startRefusal b (entryTarget e) d with
        | some code => t.complete x (.refused code)
        | none =>
          let a := t.allocSems d.core d.sems
          (a.1.setCore d.core { a.1.core d.core with
            ctx := .loading, basin := b, tag := BitVec.ofNat 16 d.tag, priorTag := (a.1.core d.core).tag, len := d.length, pc := d.entry,
            firstBank := d.firstBank, bankCount := d.bankCount, semCount := d.sems, semMap := a.2,
            argBase := BitVec.ofNat 64 d.args, argCount := d.argCount, imageBase := BitVec.ofNat 64 d.image,
            loadImage := d.loads, loadCharges := t.imageCharges b d, loadSince := none, started := some x,
            fault := none, faultIndex := 0, deadlockGraph := [] }))

/-- The little-endian words of a byte string as table entries from a first key on. -/
def wordsFrom (first n : Nat) (bs : Bytes) : NMap W64 :=
  ((List.range n).map (fun i => (first + i, BitVec.ofNat 64 (field bs (8 * i) 8)))).filter (fun e => e.2 != 0)

/-- The core as its context begins to run (R112), with what it latches from the numerics sheet (R182, R216). -/
def State.runningCore (s : State) (c : Nat) (store : NMap W64) (args : NMap W64) : Core :=
  let k := s.core c
  let t := s.sheetsOn (c / 256)
  { k with
    store := store, storeValid := false, storeLen := k.len, tiles := [], vregs := [], aregs := args, loops := [],
    ctx := .running, haltStatus := 0, firstIssue := s.now, tallyRne := numRne t k.basin,
    headroom := numHeadroom t k.basin, decay := numDecay t k.basin, flightMode := numFlight t k.basin,
    region := none, rungLast := 0, queue := ⟨[], [], [], []⟩, flight := ⟨[], [], [], []⟩,
    vectorFrom := 0, stallFrom := none, expressSince := none, dispatched := ⟨0, 0, 0, 0⟩,
    completed := ⟨0, 0, 0, 0⟩, barriers := [], seqWait := .free, reservation := 0, drawClamp := 0, marks := [],
    stalls := 0, window := none, kettle := [] }

/-- A core with no context: IDLE (R115). -/
def Core.toIdle (k : Core) (valid : Bool) : Core :=
  { k with
    ctx := .idle, storeValid := valid, storeLen := k.len, started := none, loadCharges := [], loadSince := none,
    queue := ⟨[], [], [], []⟩, flight := ⟨[], [], [], []⟩, stallFrom := none,
    expressSince := none, barriers := [], seqWait := .free, reservation := 0, marks := [], loops := [], region := none,
    window := none, kettle := [], semMap := [], semCount := 0 }

/-- A start that could not be loaded leaves the core as it was before (R109). -/
def Core.unloaded (k : Core) : Core := { k.toIdle k.storeValid with storeLen := k.storeLen, tag := k.priorTag }

/-- What an event of a start barge presupposes: its beats are charged, unless it waits for a refill. Log entry 18. -/
def State.catchUpLoad (s : State) (c : Nat) : State :=
  if (s.core c).loadSince.isSome then s else s.payLoad c (unitsLeft (s.core c).loadCharges)

/-- CONTEXT_LOADED: the store and registers are set and the sequencer begins (R112), or an unreadable image or argument
block refuses the start with 0x08 (R115). -/
def execContextLoaded (c : CoreId) (s : State) : Host.Outcome State Fault Refusal :=
  if (s.core c).ctx ≠ .loading then .next s
  else
    let s := s.catchUpLoad c
    let k := s.core c
    if k.loadCharges ≠ [] then .next s
    else
      let image := if k.loadImage then s.readVia (some (c / 8)) k.basin k.imageBase.toNat (8 * k.len) else .ok []
      let args := if k.argCount = 0 then .ok [] else s.readVia (some (c / 8)) k.basin k.argBase.toNat (8 * k.argCount)
      .next (match image, args with
        | .ok im, .ok ar =>
          let store := if k.loadImage then wordsFrom 0 k.len im else k.store
          let t := s.setCore c (s.runningCore c store (wordsFrom 1 k.argCount ar))
          let t := if k.loadImage then t.learnRange (some (c / 8)) k.basin k.imageBase.toNat (8 * k.len) else t
          t.learnRange (some (c / 8)) k.basin k.argBase.toNat (8 * k.argCount)
        | _, _ =>
          let t := s.freeSemsOf c
          let t := t.setCore c (t.core c).unloaded
          match k.started with
          | some x => t.complete x (.refused 0x08)
          | none => t)

/-! ### The end by HALT (R145) -/

/-- Every queue is empty and nothing is in flight. -/
def Core.drained (k : Core) : Bool := engines.all (fun e => (k.queue.get e).isEmpty && (k.flight.get e).isEmpty)

/-- CONTEXT_DRAINED: a draining context with nothing left returns to IDLE; the registers, the store and the allocation stay
as they are, the semaphores go back, and the completion record is written. -/
def execContextDrained (c : CoreId) (s : State) : Host.Outcome State Fault Refusal :=
  let k := s.core c
  if k.ctx ≠ .draining ∨ !k.drained then .next s
  else
    let t := ((s.takeAllMarks c).releaseDraw c).depart c false
    let t := (t.freeSemsOf c).orphanSignals c
    let t := t.setCore c ((t.core c).toIdle true)
    .next (match k.started with
      | some x => t.complete x ⟨0, 0, k.tag, k.haltStatus, 0⟩
      | none => t)

/-! ### The end by a fault (R149) -/

/-- The oldest instruction of an engine counts as completed, its context being stopped. -/
def State.dropOldest (s : State) (c : Nat) (e : Engine) : State :=
  let k := s.core c
  s.setCore c { k with flight := k.flight.set e ((k.flight.get e).drop 1)
                       retired := k.retired.set e (satCount (k.retired.get e + 1)) }

/-- Charge the rest of what an engine has begun, as far as credits cover it. Log entry 31. -/
def State.chargeBegun (s : State) (c : Nat) (charges : List Charge) (n : Nat) : State :=
  let r := payUnits (s.refill (c / 8)) charges n (s.purse c)
  s.setPurse c r.purse

/-- The beats of an accumulation block (R210). -/
def Group.blockBeats (g : Group) : Nat := g.beats g.depth

/-- What a press or vector instruction that is cut off does: the whole of its effect, a part of it, or nothing. -/
inductive CutOff where
  | whole
  | part (n : Nat)
  | nothing
  deriving DecidableEq, Repr

/-- What a press instruction has begun: an instruction without beats is done as it issues; a TOUT or TIN with a beat begun
completes, an MMA the blocks begun (R214). -/
def pressCut (f : InFlight) : CutOff :=
  if unitsLeft f.charges = 0 then .whole
  else if f.paid = 0 then .nothing
  else if wOp f.q.word = 0x01 then
    match mmaGroup f.q with
    | none => .nothing
    | some g =>
      let n := (f.paid + g.blockBeats - 1) / g.blockBeats
      if n = g.blocks (f.q.reg 2).toNat then .whole else .part n
  else .whole

/-- What a vector instruction has begun: an operation begun completes, a stream the groups begun (R251). -/
def vectorCut (f : InFlight) : CutOff :=
  if unitsLeft f.charges = 0 then .whole
  else if f.paid = 0 then .nothing
  else if isStream f.q.word then .part f.paid
  else .whole

/-- Complete what the press has begun, oldest instruction first; it starts nothing further (R149, R214). Log entry 31. -/
def State.cutPress (c : Nat) : Nat → State → State
  | 0, s => s
  | n + 1, s =>
    match (s.core c).flight.press with
    | [] => s
    | f :: _ =>
      match pressCut f with
      | .whole => State.cutPress c n (((s.chargeBegun c f.charges (unitsLeft f.charges)).finishPress c f).dropOldest c .press)
      | .part b =>
        match mmaGroup f.q with
        | some g => (s.chargeBegun c f.charges (b * g.blockBeats - f.paid)).partMma c f g b
        | none => s
      | .nothing => s

/-- Complete what the vector engine has begun (R149, R251). Log entry 31. -/
def State.cutVector (c : Nat) : Nat → State → State
  | 0, s => s
  | n + 1, s =>
    match (s.core c).flight.vector with
    | [] => s
    | f :: _ =>
      match vectorCut f with
      | .whole =>
        State.cutVector c n (((s.chargeBegun c f.charges (unitsLeft f.charges)).finishVector c f).dropOldest c .vector)
      | .part g => s.partVector c f g
      | .nothing => s

/-- A barge cut off by a fault or reset finishes the beats it has begun: those it has been charged for, and of one that pays
from the reserved allotment an open number (R286). `read` says that a descriptor read was charged. Log entry 31. -/
def State.cutBarge (s : State) (m : Mover) (d : Desc) (paid : Nat) (read : Bool) (detail : Nat) : State :=
  if detail ≠ 0 then s
  else if m.core.isSome ∧ d.tier = 1 then
    let n := match s.bargeIndex m d with
      | .ok l => (d.beats l).length
      | .error _ => 0
    let f := s.free
    (f.2.moveBarge m d (some (f.1 % (n + 1)))).s
  else (s.moveBarge m d (some (paid - boolBit read))).s

/-- A core's barge in flight, cut off. -/
def State.cutFlight (s : State) (c : Nat) (f : InFlight) : State :=
  match f.desc with
  | some d => s.cutBarge (s.coreMover c) d f.paid (wOp f.q.word == 1) f.stage
  | none => s

/-- A ring barge, cut off. -/
def State.cutRing (s : State) (x : RingBarge) : State := s.cutBarge x.mover x.desc x.paid true x.detail

/-- Whatever a context's engines have begun ends (R149, step 1): press passes and vector operations complete, and barges are
cut off in issue order. Log entry 31. -/
def State.endBegun (s : State) (c : Nat) : State :=
  (State.cutVector c 16 (State.cutPress c 16 s)).forEach (s.core c).flight.barge (fun s f => s.cutFlight c f)

/-- The context reset of R94: the allocation, the tile and vector registers and the context's semaphores are wiped. -/
def State.resetContext (s : State) (c : Nat) : State :=
  let k := s.core c
  let t := s.wipe (scratchBase c + k.firstBank * 0x8000) k.allocSize
  let t := ((t.freeSemsOf c).orphanSignals c).depart c true
  t.setCore c { (t.core c).toIdle false with tiles := [], vregs := [], aregs := [], fault := none, deadlockGraph := [] }

/-! ### Ring barges (R269) -/

/-- RING_BARGE: a barge entry is taken by the engine of the cluster it names, which reads and checks its descriptor.
Log entry 30. -/
def execRingBarge (b : BasinId) (r : RingId) (s : State) : Host.Outcome State Fault Refusal :=
  .next (match s.nextOf b r 2 with
    | none => s
    | some (x, e, t) =>
      let k := entryTarget e
      if !bsnHasCluster (t.sheetsOn (k / 32)) b k then t.complete x ⟨3, 0x405, 0, 0, 0⟩
      else if !t.clusterPresent k then t.complete x ⟨3, 0x409, 0, 0, 0⟩
      else match t.readVia (some k) b (entryAddr e) 128 with
        | .error d => t.complete x ⟨3, 0x400 + d, 0, 0, 0⟩
        | .ok bs =>
          let d := Desc.ofBytes bs
          let m : Mover := ⟨b, none, k⟩
          let detail := t.bargeVerdict m d false
          let express := d.cls == 0 && d.total != 0 && decide (d.total ≤ 4096)
          if 32 ≤ s.bargesMoved k ∨ (d.cls ≠ 0 ∧ s.workHeld b k) then s
          else
          let y : RingBarge := ⟨b, r, k, x, d, detail, t.bargeCharges m d true detail, 0, none, !express⟩
          ({ t with ringBarges := t.ringBarges ++ [y] }).shapeRing y)

end Sys2Proof.Machine
end

