-- ==== Sys2Proof/Machine/Counters.lean ====
section
/-!
DEFINITION. The 64-bit counters of R479 by region and offset in control space (R496-R498, R503). A region is 0-5 a die's
slice, 6 the package region.
-/
namespace Sys2Proof.Machine

/-- The stitch link at an interface of a die (R24, R496). Log entry 64. -/
def linkAt (d i : Nat) : Option Nat :=
  match d, i with
  | 0, 0 => some 0 | 0, 1 => some 2 | 0, 2 => some 4
  | 1, 0 => some 2 | 1, 1 => some 1 | 1, 2 => some 5
  | 2, 0 => some 3 | 2, 1 => some 0 | 2, 2 => some 7
  | 3, 0 => some 1 | 3, 1 => some 3 | 3, 2 => some 6
  | 4, 0 => some 4 | 4, 1 => some 5 | 4, 2 => some 8
  | 5, 0 => some 6 | 5, 1 => some 7 | 5, 2 => some 8
  | _, _ => none

/-- Counters of a core block. -/
def State.coreCounter (s : State) (c off : Nat) : Option Nat :=
  let k := s.core c
  match off with
  | 0x08 => some k.retiredSeq
  | 0x10 => some k.retired.press
  | 0x18 => some k.retired.vector
  | 0x20 => some k.retired.barge
  | 0x28 => some k.retired.sync
  | 0x30 => some k.pressNan
  | 0x38 => some k.pressInf
  | 0x40 => some k.pressSat
  | 0x48 => some k.emptyRows
  | _ => none

/-- Counters of a cluster block. -/
def State.clusterCounter (s : State) (k off : Nat) : Option Nat :=
  if off = 0 then some (s.cluster k).stall
  else if off = 8 then some (s.cluster k).deadlocks
  else if 0x1000 ≤ off ∧ off < 0x9000 then s.coreCounter (8 * k + (off - 0x1000) / 0x1000) (off % 0x1000)
  else none

/-- TWP_FEC_CORR: what the port had counted when it last trained, and an open number since (R365). Log entry 47. -/
def State.fecTotal (s : State) (p : Nat) : Nat :=
  let k := s.port p
  if k.everUp then satCount (k.fecCorr + Config.fecCorrected p s.now) else k.fecCorr

/-- Counters of a port block. Log entry 47. -/
def State.portCounter (s : State) (p off : Nat) : Option Nat :=
  let k := s.port p
  match off with
  | 0x08 => some k.txFrames
  | 0x10 => some (s.fecTotal p)
  | 0x18 => some k.fecUncorr
  | 0x20 => some k.naks
  | 0x28 => some k.rxDrop
  | 0x30 => some k.slowRx
  | _ => none

/-- Counters of a sluice block. -/
def State.sluiceCounter (s : State) (d off : Nat) : Option Nat :=
  let k := s.sluice d
  match off with
  | 0x20 => some k.closed
  | 0x28 => some k.late
  | 0x30 => some k.quarantined
  | 0x38 => some k.corrupt
  | 0x40 => some k.flowGap
  | 0x48 => some k.flowDup
  | _ => none

/-- The memory counter key of local stack or channel i of a die. -/
def memKey (d i : Nat) : Nat := if d < 4 then d * 3 + i else 16 + (d - 4) * 8 + i

/-- Counters of the error block (R497). Log entry 64. -/
def State.errorCounter (s : State) (d off : Nat) : Option Nat :=
  let k := s.die d
  if 0x1000 ≤ off ∧ off < 0x1040 ∧ off % 8 = 0 then some (nget (fun _ => 0) k.memCe (memKey d ((off - 0x1000) / 8)))
  else if 0x1100 ≤ off ∧ off < 0x1180 then
    let u := nget (fun _ => ((0 : W64), 0)) k.memUe (memKey d ((off - 0x1100) / 16))
    if off % 16 = 0 then some u.1.toNat else if off % 16 = 8 then some u.2 else none
  else if 0x1200 ≤ off ∧ off < 0x1240 ∧ off % 8 = 0 then some (nget (fun _ => 0) k.snoopRecall ((off - 0x1200) / 8))
  else none

/-- The check unit at a local number of a die. -/
def checkAt (d u : Nat) : Option Nat :=
  if d < 4 then (if u < 16 then some (16 * d + u) else none) else if u < 4 then some (64 + 4 * (d - 4) + u) else none

/-- A counter by its LO register's region and offset. -/
def State.counter (s : State) (region off : Nat) : Option Nat :=
  if region = 6 then
    if off = 0x10 then some s.pkg.energy
    else if off = 0x4010 then some s.pkg.histLost
    else if 0x10000 ≤ off ∧ off < 0x14000 then
      if off % 16 = 0 then some (s.flow ((off - 0x10000) / 16)).gaps
      else if off % 16 = 8 then some (s.flow ((off - 0x10000) / 16)).dups
      else none
    else none
  else if 6 ≤ region then none
  else if off = 0x48 then some (s.die region).timebase.toNat
  else if off = 0x50 then some (s.die region).trimCount
  else if 0x10000 ≤ off ∧ off < 0x20000 then s.errorCounter region (off - 0x10000)
  else if 0x1000000 ≤ off ∧ off < 0x3000000 ∧ region < 4 then
    s.clusterCounter (32 * region + (off - 0x1000000) / 0x100000) (off % 0x100000)
  else if 0x4000000 ≤ off ∧ off < 0x4001000 ∧ region < 4 then s.sluiceCounter region (off - 0x4000000)
  else if 0x5000000 ≤ off ∧ off < 0x500E000 ∧ region < 4 then
    s.portCounter (14 * region + (off - 0x5000000) / 0x1000) (off % 0x1000)
  else if 0x6000000 ≤ off ∧ off < 0x6003000 then
    match linkAt region ((off - 0x6000000) / 0x1000) with
    | none => none
    | some l =>
      if off % 0x1000 = 8 then some (s.link l).rxDrop
      else if 0x100 ≤ off % 0x1000 ∧ off % 0x1000 < 0x180 ∧ off % 8 = 0 then
        some (nget (fun _ => 0) (s.link l).retries ((off % 0x1000 - 0x100) / 8))
      else none
  else if 0x7000000 ≤ off ∧ off < 0x7010000 then
    match checkAt region ((off - 0x7000000) / 0x1000) with
    | none => none
    | some u =>
      if 0x40 ≤ off % 0x1000 ∧ off % 0x1000 < 0x80 ∧ off % 8 = 0 then
        some ((s.check u).counts.getD ((off % 0x1000 - 0x40) / 8) 0)
      else none
  else none

/-- The key of a counter in a basin's baseline. -/
def counterKey (region off : Nat) : Nat := region * 0x100000000 + off

/-- The counters of units that a basin owns exclusively, where they are not zero (R479). -/
def State.ownCounters (s : State) (b : Nat) : NMap Nat :=
  let t := s.sheets
  let clusters := (List.range 128).filter (bsnHasCluster t b)
  let coreOffs := (List.range 8).flatMap (fun j =>
    [0x08, 0x10, 0x18, 0x20, 0x28, 0x30, 0x38, 0x40, 0x48].map (fun o => 0x1000 * (1 + j) + o))
  let keys := clusters.flatMap (fun c => (0 :: 8 :: coreOffs).map (fun o => (c / 32, 0x1000000 + c % 32 * 0x100000 + o))) ++
    ((List.range 56).filter (bsnHasPort t b)).flatMap (fun p =>
      [0x08, 0x10, 0x18, 0x20, 0x28, 0x30].map (fun o => (p / 14, 0x5000000 + p % 14 * 0x1000 + o))) ++
    ((List.range 1024).filter (fun f => flowEnabled t f && flowBasin t f == b)).flatMap (fun f =>
      [(6, 0x10000 + 16 * f), (6, 0x10000 + 16 * f + 8)])
  keys.foldl (fun m k => nset (fun _ => 0) m (counterKey k.1 k.2) ((s.counter k.1 k.2).getD 0)) []

end Sys2Proof.Machine
end

