-- ==== Sys2Proof/Machine/Units.lean ====
section
/-!
DEFINITION. What a reset does to each unit (R94, R96, R97), the default map, the basin description and the complex start
(R412, R415, R426), the opening of a basin (R425), and what becomes of barges that reach a lost scope (R286, R469).
-/
namespace Sys2Proof.Machine

/-- A die's monitor finds a reference qualified (R45). -/
def Die.refQual (k : Die) (i : Nat) : Bool := if i = 0 then k.refQual0 else k.refQual1

/-! ### The management bus -/

/-- The management channel carries commands: in SCRAPPED none but identity requests (R100); with its lines shorted only over
PCIe, where a segment's link is up (R93). Log entry 57. -/
def State.mgmtUp (s : State) : Bool :=
  s.pkg.phase != .scrapped && (!s.pkg.alertBits.getD 2 false || (List.range 32).any (fun g => (s.segment g).linkUp))

/-! ### Quire slots -/

def slotBase (slot : Nat) : Nat := slot * 0x4000000
def State.otherSlot (s : State) : Nat := 1 - s.pkg.activeSlot

/-- Bytes of a slot; a volatile quire stands in keeper SRAM in place of its slot (R63). -/
def State.slotRead (s : State) (slot off n : Nat) : Bytes :=
  if s.pkg.volatileQuire ∧ slot = s.pkg.activeSlot then
    (List.range n).map (fun i => nget (fun _ => 0) s.pkg.volatileImage (off + i))
  else s.flashRead (slotBase slot + off) n

/-- The body of a sheet in a slot (R66). -/
def State.slotBody (s : State) (slot ty : Nat) : Bytes :=
  let dir := s.slotRead slot 0x80 0x100
  s.slotRead slot (dirOffset dir (ty - 1) + 16) (dirLength dir (ty - 1) - 16)

/-- The firmware image of a die's keeper, in the active slot: dies 0-3 run the compute image, 4 and 5 the processor image
(R103). -/
def State.keeperImage (s : State) (d : Nat) : Bytes :=
  let body := s.slotBody s.pkg.activeSlot 12
  if d < 4 then slice body (field body 8 4) (field body 12 4) else slice body (field body 0x10 4) (field body 0x14 4)

/-- What a keeper holds of a quire: every body but the two firmware bodies (R71). -/
def keeperSheets (t : Sheets) : Sheets := t.filter (fun e => e.1 != 12 && e.1 != 13)

/-! ### Cores and clusters -/

/-- A core after a reset of engine scope or wider: storage and context gone, the counters of R479 kept. -/
def Core.wiped (k : Core) : Core :=
  { Core.reset with
    tag := k.tag, drawClamp := k.drawClamp, stalls := k.stalls, firstIssue := k.firstIssue, retiredSeq := k.retiredSeq,
    retired := k.retired, pressNan := k.pressNan, pressInf := k.pressInf, pressSat := k.pressSat,
    emptyRows := k.emptyRows }

/-- End a core's context with a recovery's code and reset the core (R94, R469). -/
def State.resetCore (s : State) (c code : Nat) : State :=
  let k := s.core c
  if k.ctx = .idle then s.setCore c k.wiped
  else
    let t := s.endBegun c
    let t := ((t.freeSemsOf c).orphanSignals c).depart c true
    let t := t.setCore c (t.core c).wiped
    match k.started with
    | some x => t.complete x ⟨2, code, k.tag, 0, 0⟩
    | none => t

def clusterCores (k : Nat) : List Nat := (List.range 8).map (fun j => 8 * k + j)

/-- End a ring barge with a recovery's code: the beats it has been charged for are done (R286). -/
def State.failRing (s : State) (code : Nat) (x : RingBarge) : State :=
  ((s.cutRing x).dropRing x).complete x.ref ⟨3, code, 0, 0, 0⟩

/-- The engine reset of a cluster (R94): contexts, registers, scratchpads, pool, gauge file and semaphores. Log entry 86. -/
def State.resetCluster (s : State) (k code : Nat) : State :=
  let t := s.forEach (clusterCores k) (fun s c => s.resetCore c code)
  let t := t.forEach (t.ringBarges.filter (fun x => x.cluster == k)) (fun s x => s.failRing code x)
  let t := t.wipe (windowBase + k * 0x1000000) 0x1000000
  let cl := t.cluster k
  let fresh : Cluster := { Cluster.reset with stall := cl.stall, deadlocks := cl.deadlocks, fenced := cl.fenced }
  t.setCluster k { fresh with scale := cl.scale, next := cl.next }

/-- The thermal scale of a basin's units on a die: level water takes the lowest of the basin's dies (R438). -/
def State.thermalFor (s : State) (b d : Nat) : Nat :=
  if powPerDie (s.sheetsOn d) then (s.die d).thermal
  else (((List.range 128).filter (bsnHasCluster s.sheets b)).map (fun c => (s.die (c / 32)).thermal)).foldl min 256

/-- The scale of a basin's units on a die: 16 at the floor, else the lower of basin scale and thermal scale (R438, R441). -/
def State.unitScale (s : State) (b d : Nat) : Nat := if s.pkg.f ≤ 16 then 16 else min (s.basin b).scale (s.thermalFor b d)

/-- Grant a cluster its allotment, at its present scale and ramp level 1 (R435, R448, R471). -/
def State.grantCluster (s : State) (k : Nat) : State :=
  let scale := match clusterOwner (s.sheetsOn (k / 32)) k with | some b => s.unitScale b (k / 32) | none => 256
  s.setCluster k { s.cluster k with granted := true, ramp := 1, quiet := 0, scale := scale, next := scale }

/-! ### Memory -/

/-- Mark 2 MiB blocks of DDR clear-pending; an access waits for its block's zeroing, so the wipe shows at once (R97).
Log entry 80. -/
def State.wipeDdr (s : State) (lo n : Nat) : State :=
  let t := s.wipe lo n
  { t with ddrMarks := t.ddrMarks ++ [(lo / 0x200000, n / 0x200000)] }

/-- Wipe a range of the memory map, by its kind; CXL space is unavailable until its fill ends (R97, R289). -/
def State.wipeRange (s : State) (i : Nat) : State :=
  let r := mapRange s.sheets i
  let lo := r.first * 0x40000000
  let n := r.count * 0x40000000
  match r.kind with
  | 1 => s.wipe lo n
  | 2 => s.wipeDdr lo n
  | 3 =>
    let t := s.wipe lo n
    { t with cxlFilling := if t.cxlFilling.contains i then t.cxlFilling else t.cxlFilling ++ [i] }
  | _ => s

/-- Wipe one GiB of range i that changes owner; one of CXL space is unavailable until its fill ends (R97, R289). -/
def State.wipeGib (s : State) (i kind gib : Nat) : State :=
  let lo := gib * 0x40000000
  match kind with
  | 2 => s.wipeDdr lo 0x40000000
  | 3 =>
    let t := s.wipe lo 0x40000000
    { t with cxlFresh := (i, gib) :: t.cxlFresh }
  | _ => s.wipe lo 0x40000000

/-- The entries of the memory map that belong to a basin. -/
def basinEntries (t : Sheets) (b : Nat) : List Nat :=
  (List.range 64).filter (fun i => (mapRange t i).kind != 0 && (mapRange t i).basin == b)

/-! ### Barges that reach into a lost scope -/

/-- The physical addresses a barge's beats touch. -/
def State.bargePlaces (s : State) (m : Mover) (d : Desc) : List Nat :=
  match s.bargeIndex m d with
  | .error _ => []
  | .ok index =>
    (d.beats index).flatMap (fun b =>
      (match b.src with
       | none => []
       | some a => match s.spaceAddr m d.srcSpace false a with | .ok pa => [pa] | .error _ => []) ++
      (match s.spaceAddr m d.dstSpace true b.dst with | .ok pa => [pa] | .error _ => []))

/-- Fail with detail 0x09 every barge in flight that touches a place of the given kind from its cluster: its beats so far
stay, an open number of them, and it moves nothing more (R286, R469). -/
def State.failBarges (s : State) (hit : Nat → Nat → Bool) : State :=
  let cores := s.cores.filter (fun e => !e.2.flight.barge.isEmpty)
  let s' := s.forEach cores (fun t e =>
    let m := s.coreMover e.1
    let touched : InFlight → Bool := fun f => match f.desc with
      | some d => f.stage == 0 && (s.bargePlaces m d).any (hit m.cluster)
      | none => false
    let t := t.forEach (e.2.flight.barge.filter touched) (fun t f => t.cutFlight e.1 f)
    let k := t.core e.1
    let cut := k.flight.barge.map (fun (f : InFlight) => if touched f then { f with stage := 9, charges := [], waitSince := none } else f)
    (t.setCore e.1 { k with flight := k.flight.set .barge cut }).noteStall e.1)
  let touched : RingBarge → Bool := fun x => x.detail == 0 && (s.bargePlaces x.mover x.desc).any (hit x.cluster)
  let s' := s'.forEach (s.ringBarges.filter touched) (fun t x => t.cutRing x)
  { s' with ringBarges := s'.ringBarges.map (fun x => if touched x then { x with detail := 9, charges := [], waitSince := none } else x) }

/-! ### The basin description (R415) -/

def State.liveMapByte (s : State) (b c : Nat) : Nat :=
  if bsnHasCluster s.sheets b c then s.physCluster c else 0xFE

def State.stackTrained (s : State) (k : Nat) : Bool := s.dieIn (k / 3) && !s.hbmAbsent.contains k
def State.channelTrained (s : State) (c : Nat) : Bool := s.dieIn (4 + c / 8) && !bitOf s.ddrFailed c

def maskWhere (n : Nat) (p : Nat → Bool) : Nat := ((List.range n).filter p).foldl setBit 0

/-- A basin has the segments of a PCIe port. -/
def bsnHasPcie (t : Sheets) (b p : Nat) : Bool := (List.range 4).any (fun i => bsnHasSegment t b (4 * p + i))

def State.description (s : State) (b : Nat) : Bytes :=
  let t := s.sheets
  leBytes 8 s.pkg.serial.toNat ++ leBytes 4 (topService t) ++ leBytes 1 b ++ leBytes 1 (boolBit (bsnSelf t b)) ++
  [(s.basin b).epoch, 0] ++ (List.range 128).map (fun c => BitVec.ofNat 8 (s.liveMapByte b c)) ++
  leBytes 2 (maskWhere 12 (fun k => bitOf (bsnStackMask t b) k && s.stackTrained k)) ++
  leBytes 2 (maskWhere 16 (fun c => bitOf (bsnChannelMask t b) c && s.channelTrained c)) ++
  leBytes 1 (bsnComplexMask t b) ++ [0, 0, 0] ++ leBytes 8 (bsnPortMask t b) ++ leBytes 4 (bsnLineMask t b) ++
  leBytes 4 (field (s.slotBody s.pkg.activeSlot 12) 4 4) ++
  (List.range 36).map (fun i => BitVec.ofNat 8 (s.nextDie (i / 6) (i % 6))) ++ [0, 0, 0, 0] ++
  (List.range 8).flatMap (fun p => leBytes 8 (if bsnHasPcie t b p then (s.cxlPort p).gib else 0)) ++
  slice (t.body 1) 0x10 32

/-! ### Default map and complex start (R412, R426) -/

/-- Install the default map and set it as the root; a basin without memory has no root. -/
def State.installMap (s : State) (b : Nat) : State :=
  match basinGibs s.sheets b with
  | [] => s.setBasin b { s.basin b with root := none }
  | g :: gs =>
    let base := g * 0x40000000
    let table := (g :: gs).flatMap (fun n => leBytes 8 (n * 0x40000000 + 0xF))
    let t := if s.accStat base = .ok then s.writeBytes base table else s
    t.setBasin b { t.basin b with root := some (BitVec.ofNat 64 base) }

/-- The complexes of a basin whose dies are in service. -/
def State.basinComplexes (s : State) (b : Nat) : List Nat :=
  (List.range 4).filter (fun x => bsnHasComplex s.sheets b x && s.dieIn (complexDie x))

def complexHarts (x : Nat) : List Nat := (List.range 36).map (fun i => 36 * x + i)

def complexDomain (x : Nat) : Nat := 24 + x / 2 * 4 + x % 2

/-- The die of a switched domain (R41). -/
def domainDie (n : Nat) : Nat := if n < 24 then n / 6 else 4 + (n - 24) / 4

/-- A complex domain of processor die d goes off: its L3 slices are written back. The die's caches hold nothing more once its
other complex domain is off too (R42). Log entry 63. -/
def State.flushCaches (s : State) (d : Nat) : State :=
  let s := s.forEach (s.caches.filter (fun e => e.die == d)) (fun s e =>
    let r := s.hartStores e
    (r.1.writeBack r.2).keepCopy { r.2 with dirty := false })
  if s.domainOn (complexDomain (2 * (d - 4))) || s.domainOn (complexDomain (2 * (d - 4) + 1)) then s
  else { s with caches := s.caches.filter (fun e => e.die != d), snoopLines := s.snoopLines.filter (fun e => e.2 != d) }

/-- A switched domain is a complex domain. -/
def isComplexDomain (n : Nat) : Bool := decide (24 ≤ n) && decide (n < 32) && decide ((n - 24) % 4 < 2)

/-- Switch a power domain: none is powered while its die's always-on domain is down (R42). -/
def State.setDomain (s : State) (n : Nat) (on : Bool) : State :=
  let on := on && s.domainOn (32 + domainDie n)
  let was := s.domainOn n
  let s := s.setPkg { s.pkg with domains := s.pkg.domains.set n on }
  if was && !on && isComplexDomain n then s.flushCaches (domainDie n) else s

/-- Start complexes of a basin: boot image at 1 MiB, description at 17 MiB, harts released in M-mode (R412). The start
step stands as the step in force and as the request (R57, R409). -/
def State.startComplexes (s : State) (b : Nat) (xs : List Nat) : State :=
  if xs = [] then s
  else
    let body := s.slotBody s.pkg.activeSlot 13
    let image := (body.drop (field body 8 4)).take (field body 12 4)
    let t := (s.basinWrite b 0x00100000 image).1
    let t := (t.basinWrite b 0x01100000 (t.description b)).1
    t.forEach xs (fun t x =>
      let step := clkStart (t.sheetsOn (complexDie x)) x
      let k := t.complex x
      let t := (t.setDomain (complexDomain x) true).setComplex x
        { k with step := step, volt := step, request := step, changing := none, queued := none, running := true }
      t.forEach (complexHarts x) (fun t h =>
        t.setHart h { Hart.reset with entry := 0x00100000, a0 := BitVec.ofNat 64 h, a1 := 0x01100000 }))

/-! ### The live map (R30-R33) -/

/-- Walk a spare list for a cluster of a quadrant: the spare found, and the retired spares skipped on the way. A spare of
another quadrant that policy 1 passes over is not counted, retired or not. Log entry 92. -/
def pickSpare (fuses : Nat) (used : List Nat) (fits : Nat → Bool) : List Nat → Option Nat × List Nat
  | [] => (none, [])
  | p :: ps =>
    if 36 ≤ p ∨ !fits p then pickSpare fuses used fits ps
    else if bitOf fuses p then
      let r := pickSpare fuses used fits ps
      (r.1, p :: r.2)
    else if used.contains p then pickSpare fuses used fits ps
    else (some p, [])

/-- Resolve one retired physical cluster of a map by the policy (R32). -/
def resolveRetired (policy fuses : Nat) (spares : List Nat) (m : List Nat × List Nat) (p : Nat) : List Nat × List Nat :=
  if !m.1.contains p then m
  else
    let fits := fun q => policy == 2 || q / 9 == p / 9
    let r := if policy = 0 then (none, []) else pickSpare fuses m.1 fits spares
    (m.1.map (fun x => if x = p then r.1.getD 0xFF else x), m.2 ++ r.2)

/-- The live map of a die under given fuses, and the spares skipped: the sheet's map with every retirement resolved, lower
physical numbers first. A die out of service has no cluster (R38). -/
def State.mapUnder (s : State) (d fuses : Nat) : List Nat × List Nat :=
  let t := s.sheetsOn d
  let base := (List.range 32).map (fun l => if (s.die d).permAbsent.contains l then 0xFF else topMap t d l)
  if !(s.die d).inService then (List.replicate 32 0xFF, [])
  else (bitsSet 36 fuses).foldl (resolveRetired (topPolicy t) fuses (topSpares t d)) (base, [])

/-- The live map of a die as its fuses give it. -/
def State.derivedMap (s : State) (d : Nat) : List Nat × List Nat := s.mapUnder d (s.die d).fuses

/-- A logical cluster that this start's self-test has made absent (R91): absent now, and present if the clusters that failed
the test were not retired. Log entry 84. -/
def State.testAbsent (s : State) (c : Nat) : Bool :=
  let k := s.die (c / 32)
  s.physCluster c == 0xFF && decide (k.testFailed ≠ 0) &&
    (s.mapUnder (c / 32) (k.fuses &&& (2 ^ 36 - 1 - k.testFailed))).1.getD (c % 32) 0xFF != 0xFF

/-- Derive the live map of a die; each skipped spare counts once from package start. -/
def State.deriveMap (s : State) (d : Nat) : State :=
  let k := s.die d
  let r := s.derivedMap d
  let fresh := (r.2.filter (fun p => !k.skipped.contains p)).eraseDups
  s.setDie d { k with map := r.1, skipped := k.skipped ++ fresh }

/-! ### Opening (R425) -/

/-- A resource of the basin stands on a unit that a failed step of this start has made absent (R91). A cluster retired earlier
leaves its basin with one cluster fewer (R35). Log entry 84. -/
def State.resourceAbsent (s : State) (b : Nat) : Bool :=
  let t := s.sheets
  (List.range 128).any (fun c => bsnHasCluster t b c && (s.testAbsent c || !s.dieIn (c / 32))) ||
  (bitsSet 12 (bsnStackMask t b)).any (fun k => !s.stackTrained k || !s.domainOn (6 * (k / 3) + 5)) ||
  (bitsSet 56 (bsnPortMask t b)).any (fun p => !s.dieIn (p / 14)) ||
  (bitsSet 16 (bsnChannelMask t b)).any (fun c => !s.channelTrained c) ||
  (bitsSet 4 (bsnComplexMask t b)).any (fun x => !s.dieIn (complexDie x)) ||
  (List.range 32).any (fun g => bsnHasSegment t b g && !s.dieIn (4 + g / 16))

/-- The reset value of BSN_IRQ_TARGET: the lowest core of the lowest complex (R505). -/
def irqReset (t : Sheets) (b : Nat) : Nat :=
  match bitsSet 4 (bsnComplexMask t b) with
  | x :: _ => 36 * x
  | [] => 0

/-- A basin is made ready to open: its registers stand at reset, the default map is installed, the complexes started. A basin
with an absent resource gets neither map nor complexes. -/
def State.prepareBasin (s : State) (b : Nat) : State :=
  let k := s.basin b
  let t := s.setBasin b { Basin.reset with st := k.st, epoch := k.epoch, irqTarget := irqReset s.sheets b, scale := k.scale,
                                           expressHold := k.expressHold, expressDemoted := k.expressDemoted }
  let t := t.setBasinState b .opening
  if t.resourceAbsent b then t
  else (t.installMap b).startComplexes b (t.basinComplexes b)

/-- The allotments of a basin's clusters are granted; an absent cluster has none (R35). -/
def State.grantBasin (s : State) (b : Nat) : State :=
  if s.resourceAbsent b then s
  else s.forEach ((List.range 128).filter (fun c => bsnHasCluster s.sheets b c && s.physCluster c != 0xFF)) (fun t c => t.grantCluster c)

/-- A basin whose opening begins. -/
def State.beginOpen (s : State) (b : Nat) : State := (s.prepareBasin b).grantBasin b

/-- The opening of a basin ends: OPEN, or UNAVAILABLE with error 0x0E04 when a resource is absent (R91, R425). Its
counters read relative to their values now (R479). Log entry 84. -/
def State.endOpen (s : State) (b : Nat) : State :=
  if s.resourceAbsent b then
    ((s.setBasinState b .unavailable).setErr b errUnavailable).raise 0x0E04 s.pkg.head b 0xFFFF 0 0
  else (s.setBasin b { s.basin b with baseline := s.ownCounters b }).setBasinState b .open

/-- Close a basin that no sheet defines. -/
def State.closeBasin (s : State) (b : Nat) : State :=
  let t := s.setBasinState b .closed
  t.setBasin b { Basin.reset with st := .closed, epoch := (s.basin b).epoch }

end Sys2Proof.Machine
end

