-- ==== Sys2Proof/Machine/Mailbox.lean ====
section
/-!
DEFINITION. The basin mailbox (R413, R414): the acceptance of a request, its checks, the reply, and the commands of the host.
A command's event takes place when the request in the buffer holds that command.
-/
namespace Sys2Proof.Machine

/-! ### Requests and replies -/

/-- n bytes of the request buffer. -/
def State.request (s : State) (b off n : Nat) : Bytes :=
  (List.range n).map (fun i => nget (fun _ => 0) (s.basin b).mboxReq (off + i))

def State.requestCode (s : State) (b : Nat) : Nat := leValue (s.request b 0 2)
def State.requestLength (s : State) (b : Nat) : Nat := leValue (s.request b 4 4)

/-- The arguments of a request, as many as its length says and the buffer holds. -/
def State.requestArgs (s : State) (b : Nat) : Bytes := s.request b 0x10 (min 4144 (s.requestLength b))

/-- The bytes of a reply (R413). -/
def replyBytes (c : MboxCmd) (status code : Nat) (result : Bytes) : Bytes :=
  leBytes 2 c.code.toNat ++ leBytes 2 c.seq.toNat ++ leBytes 1 status ++ leBytes 1 code ++ [0, 0] ++
    leBytes 4 result.length ++ [0, 0, 0, 0] ++ result

/-- A byte string as table entries from key 0 on. -/
def bytesTable (bs : Bytes) : NMap Byte := (bs.zipIdx.filter (fun e => e.1 != 0)).map (fun e => (e.2, e.1))

/-- Reply to the command in progress; without one nothing happens. -/
def State.reply (s : State) (b status code : Nat) (result : Bytes) : State :=
  let k := s.basin b
  match k.mboxCmd with
  | none => s
  | some c =>
    (s.setBasin b { k with mboxRsp := bytesTable (replyBytes c status code result), mboxCmd := none, mboxDone := true }).vector b 0

def State.replyDone (s : State) (b : Nat) (result : Bytes) : State := s.reply b 0 0 result
def State.replyRefused (s : State) (b code : Nat) : State := s.reply b 1 code []

/-- The channel is in the administrator mask of the trust sheet (R81). -/
def State.adminBasin (s : State) (b : Nat) : Bool := bitOf (trustAdmin s.sheets) b

/-- Accept the doorbell for a request that holds `code` (R413, R414): a command in progress, a resetting basin or another
code let nothing happen. A malformed request gets status 3, a command reserved to administrators refusal 0x02, and a basin
that is not OPEN refusal 0x03, but for the topology query in UNAVAILABLE (R425). Log entry 85. -/
def State.command (s : State) (b code : Nat) (admin : Bool) (ok : Bytes → Bool) (run : Bytes → State → State) : State :=
  let k := s.basin b
  if k.mboxCmd.isSome ∨ k.st = .resetting ∨ s.requestCode b ≠ code then s
  else
    let args := s.requestArgs b
    let t := s.setBasin b { k with mboxCmd := some ⟨BitVec.ofNat 16 code, BitVec.ofNat 16 (leValue (s.request b 2 2)), 0⟩,
                                   mboxDone := false }
    if !zeroAt (s.request b 8 8) 0 8 ∨ 4144 < s.requestLength b ∨ !ok args then t.reply b 3 0 []
    else if admin ∧ !s.adminBasin b then t.replyRefused b 0x02
    else if !(k.st = .open ∨ (k.st = .unavailable ∧ code = 1)) then t.replyRefused b 0x03
    else run args t

/-- The unit a deferred command waits for. -/
def State.deferOn (s : State) (b unit : Nat) : State :=
  match (s.basin b).mboxCmd with
  | some c => s.setBasin b { s.basin b with mboxCmd := some { c with unit := unit } }
  | none => s

/-- The command in progress is a given code on a given unit. -/
def State.deferred (s : State) (b code unit : Nat) : Bool :=
  match (s.basin b).mboxCmd with
  | some c => c.code.toNat == code && c.unit == unit
  | none => false

/-! ### Commands of the host -/

/-- TOPOLOGY_QUERY (R415). -/
def execTopologyQuery (b : BasinId) (s : State) : Host.Outcome State Fault Refusal :=
  .next (s.command b 0x0001 false (fun a => a.length == 0) (fun _ t => t.replyDone b (t.description b)))

/-- SET_STEP (R416): later issues and rollovers see the new values. -/
def execSetStep (b : BasinId) (s : State) : Host.Outcome State Fault Refusal :=
  .next (s.command b 0x0002 false (fun a => a.length == 16) (fun a t =>
    (t.setBasin b { t.basin b with step := BitVec.ofNat 64 (field a 0 8), seed := BitVec.ofNat 64 (field a 8 8) }).replyDone b []))

/-- TRANSLATION_ROOT (R260): the whole table lies in the basin's ranges. -/
def execTranslationRoot (b : BasinId) (s : State) : Host.Outcome State Fault Refusal :=
  .next (s.command b 0x0003 false (fun a => a.length == 8) (fun a t =>
    let r := field a 0 8
    if r % 0x100000 ≠ 0 ∨ !inBasinRanges t.sheets b r then t.replyRefused b 0x01
    else (t.setBasin b { t.basin b with root := some (BitVec.ofNat 64 r) }).replyDone b []))

/-- A barge of the basin is in flight, a start barge among them (R262). -/
def State.bargesInFlight (s : State) (b : Nat) : Bool :=
  s.cores.any (fun e => e.2.basin == b && (!e.2.flight.barge.isEmpty || e.2.ctx == .loading)) || s.ringBarges.any (fun x => x.basin == b)

/-- TRANSLATION_FLUSH (R262): no unit caches a translation of the basin; the reply stands once no barge that may have
translated earlier is in flight. Log entry 13. -/
def execTranslationFlush (b : BasinId) (s : State) : Host.Outcome State Fault Refusal :=
  .next (s.command b 0x0004 false (fun a => a.length == 0) (fun _ t =>
    if t.bargesInFlight b then s.flushBasin b else (t.flushBasin b).replyDone b []))

/-- SEMAPHORE_SIGNAL (R292, R298): refused with 0x04 as a remote signal would be; an overflow also faults the target. -/
def execSemaphoreSignal (b : BasinId) (s : State) : Host.Outcome State Fault Refusal :=
  .next (s.command b 0x0005 false (fun a => a.length == 6 && zeroAt a 3 1) (fun a t =>
    let c := field a 0 2
    let i := field a 2 1
    let n := field a 4 2
    let k := t.core c
    if 1024 ≤ c ∨ !bsnHasCluster t.sheets b (c / 8) ∨ n = 0 then t.replyRefused b 0x01
    else if !t.clusterPresent (c / 8) ∨ !t.takesSignals c ∨ k.semCount ≤ i then t.replyRefused b 0x04
    else if 65535 < (t.sem c i).toNat + n then (t.semAdd c i n k.pc).replyRefused b 0x04
    else (t.semAdd c i n k.pc).replyDone b []))

/-- ABORT (R146): a context fault with detail 0x10. -/
def execAbort (b : BasinId) (s : State) : Host.Outcome State Fault Refusal :=
  .next (s.command b 0x0006 false (fun a => a.length == 2) (fun a t =>
    let c := field a 0 2
    if 1024 ≤ c ∨ !bsnHasCluster t.sheets b (c / 8) then t.replyRefused b 0x01
    else if (t.core c).ctx = .idle then t.replyRefused b 0x03
    else (t.enterFault c 0x0110 (t.core c).pc).replyDone b []))

/-- CONTEXT_FAULT: what follows a context's entry into FAULTED, in the order of R149; a recovery of wider
scope that has begun takes it over. A host's reset command on the core is answered (R414). Log entry 69. -/
def execContextFault (c : CoreId) (s : State) : Host.Outcome State Fault Refusal :=
  let k := s.core c
  if k.ctx ≠ .faulted ∨ (s.cluster (c / 8)).fenced then .next s
  else
    let die := c.val / 256
    let code := k.fault.getD 0
    let e : LogEntry := ⟨code, 0, 1, die, k.basin, BitVec.ofNat 16 c, k.faultTime, 0, 0, 0⟩
    let t := s.endBegun c
    let t := t.storeLocal die (t.endpaper e 0 (t.contextMerged c) 0 [] [c] [])
    let t := (t.resetContext c).resolveContext c s.pkg.endpaperSeq
    let t := match k.started with
      | some x => t.complete x ⟨2, code.toNat, k.tag, 0, 0⟩
      | none => t
    .next (if t.deferred k.basin 9 c then t.replyDone k.basin [] else t)

/-- A count of ring entries: 0, or a power of two from 16 to 65,536. -/
def ringCountOk (n : Nat) : Bool := n == 0 || (List.range 13).any (fun i => n == 16 * 2 ^ i)

/-- RING_SETUP (R417): the ring restarts with its indices at zero; refused while an entry taken from it has not completed. -/
def execRingSetup (b : BasinId) (s : State) : Host.Outcome State Fault Refusal :=
  .next (s.command b 0x0007 false (fun a => a.length == 24 && zeroAt a 1 3) (fun a t =>
    let r := field a 0 1
    let n := field a 4 4
    if 15 < r ∨ !ringCountOk n ∨ field a 8 8 % 4096 ≠ 0 ∨ field a 16 8 % 4096 ≠ 0 then t.replyRefused b 0x01
    else if (t.ring b r).taken ≠ [] then t.replyRefused b 0x03
    else (t.setRing b r { Ring.reset with count := n, work := BitVec.ofNat 64 (field a 8 8),
                                           completion := BitVec.ofNat 64 (field a 16 8) }).replyDone b []))

/-- FLOW_RING (R366): name the receive ring of a flow and its control block, or close it. Log entry 48. -/
def execFlowRing (b : BasinId) (s : State) : Host.Outcome State Fault Refusal :=
  .next (s.command b 0x0008 false (fun a => a.length == 24 && zeroAt a 2 2) (fun a t =>
    let f := field a 0 2
    let n := field a 4 4
    let none' : RecvRing := ⟨0, 0, 0, 0⟩
    if !flowEnabled t.sheets f ∨ flowBasin t.sheets f ≠ b ∨ n % 4096 ≠ 0 ∨ field a 8 8 % 64 ≠ 0 ∨ field a 16 8 % 64 ≠ 0 then
      t.replyRefused b 0x01
    else
      let ring : RecvRing := if n = 0 then none' else ⟨n, BitVec.ofNat 64 (field a 8 8), BitVec.ofNat 64 (field a 16 8), 0⟩
      (t.setBasin b { t.basin b with recv := nset (fun _ => none') (t.basin b).recv f ring }).replyDone b []))

/-- A reset request of a scope: its arguments are four bytes with a zero reserved byte. Log entry 85. -/
def resetArgs (scope : Nat) (a : Bytes) : Bool := a.length == 4 && zeroAt a 1 1 && field a 0 1 == scope

/-- The three reset rows share command code 9; a row's event takes place when the scope is its own. A scope above 2 is an
argument out of range, which the context row reports. -/
def State.resetScope (s : State) (b : Nat) : Nat := leValue (s.request b 0x10 1)

/-- RESET_CONTEXT: the context of a core faults with 0x1007; the reply waits until the core accepts work. Log entry 85. -/
def execResetContext (b : BasinId) (s : State) : Host.Outcome State Fault Refusal :=
  .next (if s.requestCode b = 9 ∧ (s.resetScope b = 1 ∨ s.resetScope b = 2) then s
    else s.command b 0x0009 false (fun a => a.length == 4 && zeroAt a 1 1) (fun a t =>
      let c := field a 2 2
      if field a 0 1 ≠ 0 ∨ 1024 ≤ c ∨ !bsnHasCluster t.sheets b (c / 8) then t.replyRefused b 0x01
      else if (t.core c).ctx = .idle then t.replyRefused b 0x03
      else (t.deferOn b c).enterFault c 0x1007 (t.core c).pc))

/-- RESET_ENGINE: an engine recovery with code 0x1007; the reply waits until the cluster accepts work. -/
def execResetEngine (b : BasinId) (s : State) : Host.Outcome State Fault Refusal :=
  .next (if s.resetScope b ≠ 1 then s
    else s.command b 0x0009 false (resetArgs 1) (fun a t =>
      let k := field a 2 2
      if 128 ≤ k ∨ !bsnHasCluster t.sheets b k then t.replyRefused b 0x01
      else (t.deferOn b (0x10000 + k)).raise 0x1007 (k / 32) b k 1 0))

/-- RESET_BASIN: a basin recovery with code 0x1007; the reply waits until the basin is OPEN. -/
def execResetBasin (b : BasinId) (s : State) : Host.Outcome State Fault Refusal :=
  .next (if s.resetScope b ≠ 2 then s
    else s.command b 0x0009 false (resetArgs 2) (fun _ t => (t.deferOn b 0x20000).raise 0x1007 t.pkg.head b 0xFFFF 2 0))

/-- A command code of R414's table. -/
def knownCommand (c : Nat) : Bool := (decide (1 ≤ c) && decide (c ≤ 9)) || (decide (0x10 ≤ c) && decide (c ≤ 0x18))

/-- UNKNOWN_COMMAND: status 2. -/
def execUnknownCommand (b : BasinId) (s : State) : Host.Outcome State Fault Refusal :=
  let k := s.basin b
  let code := s.requestCode b
  .next (if k.mboxCmd.isSome ∨ k.st = .resetting ∨ knownCommand code then s
    else
      let c : MboxCmd := ⟨BitVec.ofNat 16 code, BitVec.ofNat 16 (leValue (s.request b 2 2)), 0⟩
      (s.setBasin b { k with mboxCmd := some c, mboxDone := false }).reply b 2 0 [])

/-- MBOX_OVERRUN: a doorbell during a command is ignored and flagged (R413, R504). -/
def execMboxOverrun (b : BasinId) (s : State) : Host.Outcome State Fault Refusal :=
  let k := s.basin b
  .next (if k.mboxCmd.isNone then s
    else
      let t := s.setBasin b { k with mboxOverrun := true }
      if k.mboxOverrun then t else t.vector b 1)

end Sys2Proof.Machine
end

