-- ==== Sys2Proof/Machine/Start.lean ====
section
/-!
DEFINITION. The start of the package (R86-R93): what survives a stop, the choice of a slot (R62, R63), the live map of
clusters (R30-R32), and the rows of R87 as events; ALERT_N (R532).
-/
namespace Sys2Proof.Machine

/-! ### ALERT_N (R532): one bit per row of its table -/

/-- Set or clear a condition: 0 no slot, 1 no reference, 2 lines shorted, 3 cap unattainable, 4 over-temperature, 5 held. -/
def State.alert (s : State) (i : Nat) (on : Bool) : State :=
  s.setPkg { s.pkg with alertBits := s.pkg.alertBits.set i on }

/-- ALERT_N is low. -/
def Pkg.alertLow (p : Pkg) : Bool := p.alertBits.any id

/-! ### The selector (R62) -/

def selectorAddr (i : Nat) : Nat := 0x08800000 + 0x10000 * i

/-- A selector copy: record sequence, active slot, pending. -/
def State.selector (s : State) (i : Nat) : Option (Nat × Nat × Bool) :=
  let r := s.flashRead (selectorAddr i) 32
  if field r 0 4 == 0x51454C53 && decide (field r 8 1 ≤ 1) && decide (field r 9 1 ≤ 1) && zeroAt r 10 6 && zeroAt r 0x18 4 &&
      field r 0x1C 4 == (crc32c (r.take 0x1C)).toNat then
    some (field r 4 4, field r 8 1, field r 9 1 == 1)
  else none

/-- The 32 bytes of a selector record. -/
def selectorBytes (seq slot : Nat) (pending : Bool) (quireSeq : W64) : Bytes :=
  let r := leBytes 4 0x51454C53 ++ leBytes 4 seq ++ leBytes 1 slot ++ leBytes 1 (boolBit pending) ++ List.replicate 6 0 ++
    leBytes 8 quireSeq.toNat ++ [0, 0, 0, 0]
  r ++ leBytes 4 (crc32c r).toNat

/-- Write a selector record over the older copy. -/
def State.writeSelector (s : State) (slot : Nat) (pending : Bool) (quireSeq : W64) : State :=
  let i := 1 - s.pkg.selectorCopy
  let seq := (s.pkg.selectorSeq + 1) % 2 ^ 32
  let t := (s.flashErase (selectorAddr i) 0x10000).flashWrite (selectorAddr i) (selectorBytes seq slot pending quireSeq)
  t.setPkg { t.pkg with selectorSeq := seq, selectorCopy := i, pendingSlot := pending }

/-- The copy that stands: the valid one with the higher sequence, and its number. Equal sequences give copy 0. Log entry 93. -/
def State.standingSelector (s : State) : Option (Nat × Nat × Nat × Bool) :=
  match s.selector 0, s.selector 1 with
  | some a, some b => if b.1 ≤ a.1 then some (0, a) else some (1, b)
  | some a, none => some (0, a)
  | none, some b => some (1, b)
  | none, none => none

/-! ### Slots -/

/-- What validation takes from the package; at package start neither the signing mask nor the sequence is checked. -/
def State.validateIn (s : State) (atStart : Bool) : ValidateIn :=
  { life := s.pkg.life, serial := s.pkg.serial, hashes := s.pkg.keyHash,
    signing := if atStart then none else some (trustSigning s.sheets), ownMask := false,
    activeSeq := if atStart then none else some s.pkg.quireSeq.toNat, readable := s.pkg.flashReadable }

/-- Validate a slot in flash. -/
def State.checkSlot (s : State) (v : ValidateIn) (slot : Nat) : ValidateOut :=
  validateSlot v (fun off n => s.flashRead (slotBase slot + off) n)

/-- The order in which slots are tried, and whether the first is a pending one (R63). In RETURNED only the active quire is
accepted (R99). With no valid selector and equal sequences slot A comes first. Log entries 93 and 94. -/
def State.slotOrder (s : State) : List Nat × Bool :=
  match s.standingSelector with
  | some (_, _, slot, pending) =>
    if s.pkg.life = .returned then ([slot], false)
    else if pending then ([1 - slot, slot], true) else ([slot, 1 - slot], false)
  | none =>
    let h := fun i => s.flashRead (slotBase i) 0x80
    let seq := fun i => if s.pkg.flashReadable && okHeader (h i) && okPart (h i) then field (h i) 0x10 8 else 0
    if seq 0 < seq 1 then ([1, 0], false) else ([0, 1], false)

/-! ### The stop and time 0 (R86, R87) -/

/-- What every stop leaves of a die: its retirement fuses, and what its reference monitors have found (R45). -/
def Die.afterStop (k : Die) : Die := { Die.reset with fuses := k.fuses, refQual0 := k.refQual0, refQual1 := k.refQual1 }

/-- What a stop leaves of the package: fuses, pins, the endpaper sets; the error history when the keepers kept power (R480). -/
def Pkg.stopped (p : Pkg) (keepHistory : Bool) : Pkg :=
  { Pkg.reset with
    pwrGood := p.pwrGood, resetN := p.resetN, cycleReq := p.cycleReq, thermTrip := p.thermTrip, tripDie := p.tripDie,
    tripTemp := p.tripTemp, testEn := p.testEn, mgAddr := p.mgAddr, life := p.life, serial := p.serial,
    keyHash := p.keyHash, setA := p.setA, setB := p.setB, flashReadable := p.flashReadable,
    flashDegraded := p.flashDegraded,
    mgStartSeen := keepHistory && p.mgStartSeen, mgSwapped := keepHistory && p.mgSwapped,
    history := if keepHistory then p.history else [], histCount := if keepHistory then p.histCount else 0
    histLost := if keepHistory then p.histLost else 0 }

/-- Everything stops: only fuses, flash, pins and what `Pkg.stopped` names is left. The shadow set is EMPTY after it, and a quire
left in the other slot is staged anew before it can be validated. Log entries 68 and 97. -/
def State.stopAll (s : State) (keepHistory : Bool) : State :=
  let t := { State.reset with pending := s.pending, lockCycle := s.lockCycle, cyc := s.cyc, freeCount := s.freeCount,
                              flash := s.flash, out := s.out, pkg := s.pkg.stopped keepHistory }
  t.forEach [0, 1, 2, 3, 4, 5] (fun t d => t.setDie d (s.die d).afterStop)

/-- PWR_GOOD_FALL: the package stops at once, without an endpaper; THERMTRIP_N and CYCLE_REQ_N are released (R443, R472). -/
def execPwrGoodFall (d : DieId) (s : State) : Host.Outcome State Fault Refusal :=
  let t := s.stopAll false
  .next (t.setPkg { t.pkg with pwrGood := t.pkg.pwrGood.set d false, thermTrip := false, cycleReq := false, tripDie := 0,
                               tripTemp := 0, phase := .off })

/-- RESET_N_LOW: every die is held in reset, without an endpaper. CYCLE_REQ_N and THERMTRIP_N stand (R443, R472). -/
def execResetNLow (s : State) : Host.Outcome State Fault Refusal :=
  let t := s.stopAll true
  .next (t.setPkg { t.pkg with resetN := false, phase := .held })

/-- The value of a die in the trim record (R444, R465); 0 when neither copy is valid. Log entries 8 and 78. -/
def State.trim (s : State) (d : Nat) : Nat :=
  let copy := fun i => s.flashRead (0x08000000 + 0x8000 * i) 64
  let ok := fun r => field r 0 4 == 0x4D495254 && zeroAt r 12 48 && field r 0x3C 4 == (crc32c (r.take 0x3C)).toNat
  match ok (copy 0), ok (copy 1) with
  | true, true => field (if field (copy 1) 4 4 ≤ field (copy 0) 4 4 then copy 0 else copy 1) (8 + d) 1
  | true, false => field (copy 0) (8 + d) 1
  | false, true => field (copy 1) (8 + d) 1
  | false, false => 0

/-- The set-points that take a die's VCORE from one freeboard to another, in 5 mV steps (R444, R520). -/
def vcoreSteps (old new : Nat) : List Nat :=
  if old ≤ new then (List.range ((new - old + 4) / 5)).map (fun i => 700 + min new (old + 5 * (i + 1)))
  else (List.range ((old - new + 4) / 5)).map (fun i => 700 + max new (old - 5 * (i + 1)))

/-- The keeper of a die sends its power module the set-points from one freeboard to another. -/
def State.sendVcore (s : State) (d old new : Nat) : State := s.forEach (vcoreSteps old new) (fun s mv => s.emit (.vcore d mv))

/-- A validated quire becomes the active set of every keeper: service mask, head role, clocks and freeboard follow it.
A power module stands at 0.775 V until its keeper sends it the set-point of the die (R520). -/
def State.adoptQuire (s : State) (slot : Nat) (v : ValidateOut) : State :=
  let t := v.sheets
  let top := topService t
  let s := s.setPkg { s.pkg with
    activeSlot := slot, quireSeq := BitVec.ofNat 64 v.seq, phase := .quire, lastCode := v.code, lastSheet := v.sheet,
    head := if bitOf top 4 then 4 else 5, standby := if bitOf top 4 then some 5 else none }
  let s := s.forEach [0, 1, 2, 3, 4, 5] (fun s d =>
    let k := s.die d
    let prim := clkPrimary t
    let primOk := if prim = 0 then k.refQual0 else k.refQual1
    s.setDie d { k with
      active := keeperSheets t, inService := bitOf top d, refInUse := if primOk then prim else 1 - prim
      freeboard := if s.trim d = 0 then powFreeboard t else s.trim d })
  let s := s.forEach [0, 1, 2, 3] (fun s d => s.sendVcore d 75 (s.die d).freeboard)
  let both := [0, 1, 2, 3, 4, 5].all (fun d => (s.die d).refQual0 && (s.die d).refQual1)
  let s := if both then s else s.raise 0x0C01 s.pkg.head 0xFF 0xFFFF 0 0
  s.alert 0 false

/-- SLOT_SELECTION (R63): the first slot of the order that validates becomes active. A pending slot that validates is
recorded; a fallback is reported. With no valid slot the package waits for a recovery quire. With no valid selector copy the
first record goes to copy 0 with sequence 1. Log entry 93. -/
def State.selectSlot (s : State) : State :=
  let sel := s.standingSelector
  let s := s.setPkg { s.pkg with
    selectorSeq := (sel.map (fun x => x.2.1)).getD 0, selectorCopy := (sel.map (fun x => x.1)).getD 1
    pendingSlot := (sel.map (fun x => x.2.2.2)).getD false }
  let order := s.slotOrder
  let first := order.1.headD 0
  let v1 := s.checkSlot (s.validateIn true) first
  let v2 := if order.1.length < 2 then v1 else s.checkSlot (s.validateIn true) (1 - first)
  if v1.code = 0 then
    let s := s.adoptQuire first v1
    if order.2 then s.writeSelector first false s.pkg.quireSeq else s
  else if v2.code = 0 then (s.adoptQuire (1 - first) v2).raise 0x0F01 s.pkg.head 0xFF 0xFFFF 0 0
  else
    ((s.setPkg { s.pkg with phase := .noSlot, lastCode := v1.code, lastSheet := v1.sheet }).raise 0x0F04 s.pkg.head 0xFF 0xFFFF 0 0).alert 0 true

/-- Every die has a qualified reference: all six root PLLs lock (R87, R93). -/
def State.referenced (s : State) : Bool := [0, 1, 2, 3, 4, 5].all (fun d => (s.die d).refQual0 || (s.die d).refQual1)

/-- The root PLLs lock to what their dies have qualified. -/
def State.lockPlls (s : State) : State :=
  s.forEach [0, 1, 2, 3, 4, 5] (fun s d => s.setDie d { s.die d with pllLock := (s.die d).refQual0 || (s.die d).refQual1 })

/-- The flash is discovered and a slot chosen (R62, R63, R93). -/
def State.readFlash (s : State) : State :=
  (if s.pkg.flashDegraded then s.raise 0x0F02 s.pkg.head 0xFF 0xFFFF 0 0 else s).selectSlot

/-- From time 0 to the quire row: the always-on domains are up. In SCRAPPED keepers run ROM only (R100); with TEST_EN high only
boundary scan answers (R518); with no reference the start waits, and the management endpoint reports it (R93). -/
def State.boot (s : State) : State :=
  let s := s.setPkg { s.pkg with
    resetN := true, pwrGood := [true, true, true, true, true, true],
    domains := List.replicate 32 false ++ List.replicate 6 true }
  let s := s.lockPlls
  if s.pkg.testEn then s.setPkg { s.pkg with phase := .boundaryScan }
  else if s.pkg.life = .scrapped then s.setPkg { s.pkg with phase := .scrapped }
  else if !s.referenced then ((s.setPkg { s.pkg with phase := .noReference }).alert 1 true).emit .noReference
  else s.readFlash

/-- The straps, the flash and the references as a start from power finds them. -/
def State.begin (s : State) (e : StartEnv) : State :=
  let s := s.setPkg { s.pkg with testEn := e.testEn, mgAddr := e.mgAddr, flashReadable := e.sfdp, flashDegraded := e.sfdp && !e.octal }
  (s.forEach [0, 1, 2, 3, 4, 5] (fun s d => s.setDie d { s.die d with refQual0 := e.ref0, refQual1 := e.ref1 })).boot

/-- POWER_ON_START: every PWR_GOOD and RESET_N are high. A package that is already started is not started again, and
THERMTRIP_N keeps it stopped (R443). Log entry 3. -/
def execPowerOnStart (env : StartEnv) (s : State) : Host.Outcome State Fault Refusal :=
  .next (if (s.pkg.phase = .off ∨ s.pkg.phase = .held) ∧ !s.pkg.thermTrip then (s.stopAll (s.pkg.phase = .held)).begin env else s)

/-- The start of a package reset (R94): the straps, the flash and each die's reference monitor stand as they are. -/
def State.restart (s : State) : State := (s.stopAll true).boot

/-- REFERENCE_RETRY: with no reference qualified at the start, the package looks again every 100 ms (R93). -/
def execReferenceRetry (ref0 ref1 : Bool) (s : State) : Host.Outcome State Fault Refusal :=
  .next (if s.pkg.phase ≠ .noReference ∨ !(ref0 || ref1) then s
    else
      let t := s.forEach [0, 1, 2, 3, 4, 5] (fun s d => s.setDie d { s.die d with refQual0 := ref0, refQual1 := ref1 })
      (t.lockPlls.alert 1 false).readFlash)

/-! ### The rows after the quire -/

/-- A die is isolated (R26) and out of service for this start (R91). -/
def State.dropDie (s : State) (d : Nat) : State :=
  let t := (s.setDie d { s.die d with inService := false, keeperUp := false }).divert d
  t.raise 0x0A04 s.pkg.head 0xFF d 0 0

/-- The head role after the loss of keepers: PW, else PE; with neither, CYCLE_REQ_N (R85, R91, R92). -/
def State.settleHead (s : State) : State :=
  let up := fun d => !(s.die d).isolated
  if up s.pkg.head then
    s.setPkg { s.pkg with standby := if up (9 - s.pkg.head) && s.pkg.standby.isSome then s.pkg.standby else none }
  else if up (9 - s.pkg.head) then
    s.setPkg { s.pkg with head := 9 - s.pkg.head, standby := none }
  else (s.setPkg { s.pkg with cycleReq := true, standby := none }).raise 0x0B04 0 0xFF 0xFFFF 0 0

/-- KEEPER_FIRMWARE_LOADED: the keepers run firmware, each the image of its kind of die at SRAM address 0 (R103); a die whose
keeper fails is isolated. Log entry 33. -/
def execKeeperFirmwareLoaded (failed : BitVec 6) (s : State) : Host.Outcome State Fault Refusal :=
  .next (if s.pkg.phase ≠ .quire then s
    else
      let t := s.forEach [0, 1, 2, 3, 4, 5] (fun s d =>
        if bitOf failed.toNat d then s.dropDie d else s.setDie d { s.die d with keeperUp := true, image := s.keeperImage d })
      let t := t.setPkg { t.pkg with phase := .firmware }
      let t := t.settleHead
      t.forEach (List.range 9) (fun t l => t.trainLink l (t.link l).bad))

/-- The width a link runs at when nothing is faulty: the sheet's limit, or the design width (R382, R398). -/
def linkLimit (t : Sheets) (l : Nat) : Nat := if stcWidth t l = 0 then designWidth l else stcWidth t l

/-- The switched domains of a die: a compute die's six, or a processor die's four. -/
def dieDomains (d : Nat) : List Nat :=
  if d < 4 then (List.range 6).map (fun i => 6 * d + i) else (List.range 4).map (fun i => 24 + 4 * (d - 4) + i)

/-- STITCH_START_TRAINED: a die whose stitch training failed is isolated; the other links are up, at the width their echoes
agreed or at their limit; the timebase is loaded and released on all dies, and the switched domains go on. Log entry 33. -/
def execStitchStartTrained (failed : BitVec 6) (timebase : W64) (s : State) : Host.Outcome State Fault Refusal :=
  .next (if s.pkg.phase ≠ .firmware then s
    else
      let t := s.forEach [0, 1, 2, 3, 4, 5] (fun s d => if bitOf failed.toNat d then s.dropDie d else s)
      let t := t.settleHead
      let t := t.forEach (List.range 9) (fun t l =>
        let k := t.link l
        let e := linkEnds l
        if (t.die e.1).isolated || (t.die e.2).isolated then t.setLink l { k with st := .down }
        else if k.st = .training then
          t.setLink l (Link.fresh { k with st := .active, width := linkLimit t.sheets l, firstModule := 0, attempts := 1, kettle := true,
                                           rate16 := stcRate t.sheets l == 1, goodMask := BitVec.ofNat 16 (2 ^ designWidth l - 1) } l)
        else t)
      let t := t.forEach [0, 1, 2, 3, 4, 5] (fun t d =>
        let t := t.setDie d { t.die d with timebase := timebase, running := true, slew := 0, sinceSlew := 0 }
        if t.dieIn d then t.forEach (dieDomains d) (fun t n => t.setDomain n true) else t)
      t.setPkg { t.pkg with phase := .stitched })

/-- HBM_TRAINING_COMPLETE: a failed stack holds its die's MEM domain off; the die runs as if out of service (R91). -/
def execHbmTrainingComplete (failed : BitVec 12) (s : State) : Host.Outcome State Fault Refusal :=
  .next (if s.pkg.phase ≠ .stitched then s
    else
      let t := s.forEach (bitsSet 12 failed.toNat) (fun s k =>
        let s := { s with hbmAbsent := s.hbmAbsent ++ [k] }
        let s := s.forEach (dieDomains (k / 3)) (fun s n => s.setDomain n false)
        (s.setDie (k / 3) { s.die (k / 3) with inService := false }).raise 0x0803 (k / 3) 0xFF k 0 0)
      t.setPkg { t.pkg with phase := .hbm })

/-- CLUSTER_SELF_TEST: failed clusters are retired, the live maps derived (R31, R91), and the lanes found shorted by the DC
check disabled (R356). Log entries 33 and 99. -/
def execClusterSelfTest (failed : List (BitVec 36)) (shorted : List Byte) (s : State) : Host.Outcome State Fault Refusal :=
  .next (if s.pkg.phase ≠ .hbm then s
    else
      let t := s.forEach [0, 1, 2, 3] (fun s d =>
        let bad := (failed.getD d 0).toNat
        (s.setDie d { s.die d with fuses := (s.die d).fuses ||| bad, testFailed := bad }).deriveMap d)
      let t := t.forEach (List.range 56) (fun t p =>
        if shorted.getD p 0 = 0 then t
        else (t.setPort p { t.port p with dcDisabled := shorted.getD p 0 }).raise 0x0902 (p / 14) 0xFF p 0 0)
      t.setPkg { t.pkg with phase := .selfTested })

/-- DDR_TRAINING_COMPLETE: failed channels are disabled, all DDR is marked clear-pending (R91, R97), and the Dalpa complexes
start from boot firmware (R87, R90). -/
def execDdrTrainingComplete (failed : BitVec 16) (dimmGib : List Nat) (s : State) : Host.Outcome State Fault Refusal :=
  .next (if s.pkg.phase ≠ .selfTested then s
    else
      let t := { s with ddrFailed := failed.toNat, dimms := (List.range 16).map (fun i => dimmGib.getD i 0) }
      let t := t.forEach (bitsSet 16 failed.toNat) (fun t c => t.raise 0x0804 (4 + c / 8) 0xFF c 0 0)
      let t := t.wipeDdr 0x40000000000 0x40000000000
      let t := t.forEach basinIds (fun t b => if bsnEnabled t.sheets b then t.prepareBasin b else t)
      t.setPkg { t.pkg with phase := .ddr })

/-! ### PKG_READY -/

/-- The domains the rules of R446 hold on after the start. -/
def State.settleDomains (s : State) : State :=
  let t := s.sheets
  let s := s.forEach [0, 1, 2, 3] (fun s d =>
    let quads := fun q => (List.range 32).any (fun l => let p := (s.die d).map.getD l 0xFF
      p != 0xFF && p / 9 == q && (s.cluster (32 * d + l)).granted)
    let s := s.forEach [0, 1, 2, 3] (fun s q => s.setDomain (6 * d + q) (s.dieIn d && quads q))
    s.setDomain (6 * d + 4) (s.dieIn d && (List.range 14).any (fun i =>
      towMode t (14 * d + i) != 0 && (portOwner t (14 * d + i)).isSome)))
  let s := s.forEach [0, 1, 2, 3] (fun s x => s.setDomain (complexDomain x) (s.dieIn (complexDie x) && (complexOwner t x).isSome))
  s.forEach [0, 1] (fun s pd =>
    let ddr := (List.range 8).any (fun c => basinIds.any (fun b => bsnEnabled t b && bitOf (bsnChannelMask t b) (8 * pd + c)))
    let hio := (List.range 16).any (fun g => (segmentOwner t (16 * pd + g)).isSome)
    (s.setDomain (26 + 4 * pd) (s.dieIn (4 + pd) && ddr)).setDomain (27 + 4 * pd) (s.dieIn (4 + pd) && hio))

/-- A die's sluice may work: the die in service, its MEM domain on (R42). -/
def State.sluicePresent (s : State) (d : Nat) : Bool := s.dieIn d && s.domainOn (6 * d + 5)

/-- The scale of a die's sluice: the lowest among the basins with sluice use (R438). -/
def State.sluiceScale (s : State) (d : Nat) : Nat :=
  ((basinIds.filter (slcEnabled (s.sheetsOn d))).map (fun b => s.unitScale b d)).foldl min 256

/-- A basin is held below its sheet values (R440). -/
def State.heldBelow (s : State) (b : Nat) : Bool :=
  let units := ((List.range 128).filter (bsnHasCluster s.sheets b)).map (fun c => c / 32) ++
    (if slcEnabled s.sheets b then [0, 1, 2, 3].filter s.dieIn else [])
  decide ((s.basin b).scale < 256) || units.any (fun d => decide (s.thermalFor b d < 256))

/-- Grant the sluices of the dies in service that some basin uses. -/
def State.grantSluice (s : State) (d : Nat) : State :=
  if basinIds.any (slcEnabled (s.sheetsOn d)) && s.sluicePresent d then
    s.setSluice d { s.sluice d with granted := true, ramp := 1, quiet := 0, scale := s.sluiceScale d, next := s.sluiceScale d }
  else s

/-- A port of a mode other than off that a basin owns is DOWN, any other or one whose TP domain is off OFF (R354, R359). -/
def State.initPort (s : State) (p : Nat) : State :=
  let t := s.sheetsOn (p / 14)
  let on := towMode t p != 0 && (portOwner t p).isSome && s.dieIn (p / 14) && s.domainOn (6 * (p / 14) + 4)
  s.setPort p { s.port p with st := if on then .down else .off }

/-- The state of the segments and CXL ports once trained (R401, R423). -/
def State.initSegments (s : State) (cxlGib : List Nat) : State :=
  let t := s.sheets
  let s := s.forEach (List.range 32) (fun s g =>
    let up := (segmentOwner t g).isSome && s.dieIn (4 + g / 16) && !(s.segment g).perst
    s.setSegment g { s.segment g with linkUp := up, released := (segmentOwner t g).isSome && pcieRole t g == 2 })
  s.forEach (List.range 8) (fun s p =>
    let up := (List.range 4).any (fun i => pcieRole t (4 * p + i) == 2 && (s.segment (4 * p + i)).linkUp)
    let gib := if up then min 1024 (cxlGib.getD p 0) else 0
    s.setCxlPort p ⟨gib, decide (0 < gib)⟩)

/-- PKG_READY: allotments granted, mailboxes open, PKG_READY asserted (R87, R90). With no processor die
it is not reached (R92). -/
def execPkgReady (cxlGib : List Nat) (s : State) : Host.Outcome State Fault Refusal :=
  .next (if s.pkg.phase ≠ .ddr ∨ (s.die s.pkg.head).isolated then s
    else
      let t := s.initSegments cxlGib
      let t := t.forEach basinIds (fun t b => if bsnEnabled t.sheets b then (t.grantBasin b).endOpen b else t)
      let t := t.forEach [0, 1, 2, 3] (fun t d => t.grantSluice d)
      let t := t.forEach ((List.range 128).filter (fun c => (t.cluster c).granted)) (fun t c =>
        t.setCluster c { t.cluster c with express := 4096 })
      let t := t.settleDomains
      let t := t.forEach (List.range 56) (fun t p => t.initPort p)
      t.setPkg { t.pkg with phase := .ready, pkgReady := true, resetRec := none, f := 256, c := min (powCap t.sheets) t.pkg.trayCap })

/-- PCIE_CONFIG_BEFORE_READY: Request Retry Status (R88). -/
def execPcieConfigBeforeReady (g : SegId) (s : State) : Host.Outcome State Fault Refusal :=
  .next (if s.pkg.pkgReady then s else s.emit (.rrs g))

end Sys2Proof.Machine
end

