-- ==== Sys2Proof/Machine/Clock.lean ====
section
/-!
DEFINITION. References, root PLLs, V/F steps of the Dalpa complexes (02_clocks), the management lines (R93), and the hart
registers that a hart writes (R409).
-/
namespace Sys2Proof.Machine

/-! ### References and PLLs (R45-R50) -/

def Die.setRef (k : Die) (i : Nat) (v : Bool) : Die := if i = 0 then { k with refQual0 := v } else { k with refQual1 := v }

/-- REFERENCE_QUALIFIED. -/
def execReferenceQualified (d : DieId) (ref : Fin 2) (s : State) : Host.Outcome State Fault Refusal :=
  .next (s.setDie d ((s.die d).setRef ref true))

/-- REFERENCE_DISQUALIFIED: the input in use takes the PLL into holdover (R46); the loss is reported, and with neither input
left the loss of both (R47). -/
def execReferenceDisqualified (d : DieId) (ref : Fin 2) (s : State) : Host.Outcome State Fault Refusal :=
  let k := s.die d
  .next (if !k.refQual ref then s
    else
      let k' := (k.setRef ref false)
      let k' := if k.refInUse = ref.val then { k' with holdover := true } else k'
      let t := (s.setDie d k').raise 0x0C01 d 0xFF 0xFFFF ref 0
      if k'.refQual0 || k'.refQual1 then t else t.raise 0x0C02 d 0xFF 0xFFFF 0 0)

/-- PLL_RELOCK: out of holdover to a qualified input, the one in use when it has come back (R46, R47). -/
def execPllRelock (d : DieId) (s : State) : Host.Outcome State Fault Refusal :=
  let k := s.die d
  .next (if !k.holdover ∨ !(k.refQual0 || k.refQual1) then s
    else s.setDie d { k with holdover := false, refInUse := if k.refQual k.refInUse then k.refInUse else 1 - k.refInUse })

/-- REVERT_TO_PRIMARY (R47). -/
def execRevertToPrimary (d : DieId) (s : State) : Host.Outcome State Fault Refusal :=
  let k := s.die d
  let prim := clkPrimary k.active
  .next (if !clkRevertive k.active ∨ k.holdover ∨ k.refInUse = prim ∨ !k.refQual prim then s
    else s.setDie d { k with refInUse := prim })

/-- The dies joined to a die by a stitch link. -/
def neighbours (d : Nat) : List Nat :=
  (List.range 9).filterMap (fun l => if (linkEnds l).1 = d then some (linkEnds l).2 else if (linkEnds l).2 = d then some (linkEnds l).1 else none)

/-- A die's keeper sends isolation notices on every link (R393). -/
def State.sendIsolation (s : State) (d reason : Nat) : State :=
  s.forEach (neighbours d) (fun s n => s.emit (.isolation n reason))

/-- ROOT_PLL_LOSS_OF_LOCK outside holdover: every clock of the die stops, so its units do nothing more until its reset; notices
go out, and the die is to be reset (R50). -/
def execRootPllLossOfLock (d : DieId) (s : State) : Host.Outcome State Fault Refusal :=
  let k := s.die d
  .next (if k.holdover ∨ !k.pllLock then s
    else ((s.setDie d { k with pllLock := false, running := false, stopped := true }).sendIsolation d 1).raise 0x0C03 d 0xFF 0xFFFF 0 0)

/-! ### Management lines (R93) -/

/-- MGMT_START_CONDITION: the first START after power-up shows whether the lines are swapped. -/
def execMgmtStartCondition (swapped : Bool) (s : State) : Host.Outcome State Fault Refusal :=
  .next (if s.pkg.mgStartSeen then s else s.setPkg { s.pkg with mgStartSeen := true, mgSwapped := swapped })

/-- MGMT_LINES_SHORTED and MGMT_LINES_CLEARED: the condition of R532; while it holds the bus is unusable (`State.mgmtUp`). -/
def execMgmtLinesShorted (s : State) : Host.Outcome State Fault Refusal := .next (s.alert 2 true)
def execMgmtLinesCleared (s : State) : Host.Outcome State Fault Refusal := .next (s.alert 2 false)

/-! ### V/F steps (R51, R52, R59, R409, R439) -/

/-- A request clamped to the sheet's limits; 6 and 7 request the lowest step allowed. -/
def clampStep (t : Sheets) (x r : Nat) : Nat :=
  if 6 ≤ r then clkLow t x else max (clkHigh t x) (min (clkLow t x) r)

/-- A change begins: on the way to a faster step, whose number is lower, the voltage rises first (R52). -/
def Complex.begin (k : Complex) (step : Nat) : Complex := { k with changing := some step, volt := min k.volt step }

/-- A change ends: the divider is that of the new step. On the way to a slower step the voltage follows it (R52). -/
def Complex.finish (k : Complex) (step : Nat) : Complex := { k with step := step, volt := step, changing := none, queued := none }

/-- Head for a step: it begins a change, or waits for the one in progress. -/
def Complex.headFor (k : Complex) (step : Nat) : Complex :=
  match k.changing with
  | some _ => { k with queued := some step }
  | none => if step = k.step then k else k.begin step

/-- The complex runs at the slower of its clamped request and the governor's ceiling. -/
def State.retarget (s : State) (x : Nat) : State :=
  let k := s.complex x
  if k.running then s.setComplex x (k.headFor (max (clampStep (s.sheetsOn (complexDie x)) x k.request) k.ceiling)) else s

/-- GOV of CLK_VFSTAT: the ceiling holds the complex below its request. -/
def State.govHolds (s : State) (x : Nat) : Bool := decide (clampStep (s.sheetsOn (complexDie x)) x (s.complex x).request < (s.complex x).ceiling)

/-- CLK_VFSTAT (R409). -/
def State.vfstat (s : State) (x : Nat) : W64 :=
  let k := s.complex x
  let t := s.sheetsOn (complexDie x)
  BitVec.ofNat 64 (clkLow t x * 512 + clkHigh t x * 64 + k.step * 8 + boolBit k.changing.isSome * 4 +
    boolBit (s.govHolds x) * 2)

/-- STEP_CHANGE_COMPLETE: the step is in force; a request that arrived meanwhile begins its own change (R52). -/
def execStepChangeComplete (x : ComplexId) (s : State) : Host.Outcome State Fault Refusal :=
  let k := s.complex x
  .next (match k.changing with
    | none => s
    | some n =>
      s.setComplex x (match k.queued with | some q => (k.finish n).headFor q | none => k.finish n))

/-! ### CSR writes of a hart (R409) -/

/-- An access from VS-mode raises exception 22, from U- or VU-mode exception 2; the value of xtval is open. -/
def State.csrTrap (s : State) (h cause : Nat) : State :=
  let f := s.free
  f.2.setHart h { f.2.hart h with cause := some cause, xtval := BitVec.ofNat 64 f.1 }

/-- A non-zero write to a reserved field sets MISUSE in the writing basin (R12). -/
def State.misuseOf (s : State) (b : Option Nat) (bad : Bool) : State :=
  match b with
  | some b => if bad then s.misuse b else s
  | none => s

/-- VFREQ_WRITE: CLK_VFREQ of the hart's complex; the last write stands. A hart acts only while its complex runs.
Log entry 83. -/
def execVfreqWrite (h : HartId) (p : Priv) (v : W64) (s : State) : Host.Outcome State Fault Refusal :=
  let x := h.val / 36
  .next (if !(s.complex x).running then s
    else match p with
      | .vs => s.csrTrap h 22
      | .u => s.csrTrap h 2
      | .vu => s.csrTrap h 2
      | _ =>
        let t := s.misuseOf (complexOwner (s.sheetsOn (complexDie x)) x) (v.toNat / 8 != 0)
        (t.setComplex x { t.complex x with request := v.toNat % 8 }).retarget x)

/-- ERR_HWADDR_WRITE: VALID is cleared by writing 1. Log entry 83. -/
def execErrHwaddrWrite (h : HartId) (p : Priv) (v : W64) (s : State) : Host.Outcome State Fault Refusal :=
  let x := h.val / 36
  .next (if !(s.complex x).running then s
    else match p with
      | .vs => s.csrTrap h 22
      | .u => s.csrTrap h 2
      | .vu => s.csrTrap h 2
      | _ =>
        let t := s.misuseOf (complexOwner (s.sheetsOn (complexDie x)) x) (bitsOf v.toNat 62 48 != 0)
        let k := t.hart h
        t.setHart h { k with hwValid := k.hwValid && !bitOf v.toNat 63 })

end Sys2Proof.Machine
end

