-- ==== Sys2Proof/Machine/Optimiser.lean ====
section
/-!
DEFINITION. The sluice's arithmetic: slices (R313), the encoding and decoding of contributions (R321-R324, R329), the norm
(R333), and the optimiser (R334-R336).
-/
namespace Sys2Proof.Machine

/-! ### Slices (R313) -/

def sliceLo (p n s : Nat) : Nat := s * (n / 1024) / (4 * p) * 1024
def sliceHi (p n s : Nat) : Nat := (s + 1) * (n / 1024) / (4 * p) * 1024
/-- The length of slice s, 0 for an empty one. -/
def sliceLen (p n s : Nat) : Nat := sliceHi p n s - sliceLo p n s
/-- Lmax of R318. -/
def sliceMax (p n : Nat) : Nat := 1024 * ((n / 1024 + 4 * p - 1) / (4 * p))

/-! ### Elements -/

/-- BF16 bits as FP32 bits: exact. -/
def bf16Up (w : Nat) : W32 := BitVec.ofNat 32 (w * 65536)

/-- Elements of a byte string: FP32 (0) or BF16 (1). -/
def elems (fmt : Nat) (bs : Bytes) : List W32 :=
  if fmt = 0 then (List.range (bs.length / 4)).map (fun i => BitVec.ofNat 32 (field bs (4 * i) 4))
  else (List.range (bs.length / 2)).map (fun i => bf16Up (field bs (2 * i) 2))

def f32Bytes (xs : List W32) : Bytes := xs.flatMap (fun x => leBytes 4 x.toNat)

/-- One FP32 operation rounded to nearest even. -/
def addF (a b : W32) : W32 := f32 .rne ((vF32 a).add (vF32 b))
def subF (a b : W32) : W32 := f32 .rne ((vF32 a).add (vF32 b).neg)
def mulF (a b : W32) : W32 := f32 .rne ((vF32 a).mul (vF32 b))
def divF (a b : W32) : W32 := BitVec.ofNat 32 (fp32L.div .rne (vF32 a) (vF32 b))
def sqrtF (a : W32) : W32 := BitVec.ofNat 32 (fp32L.sqrt .rne (vF32 a))

def nanF (a : W32) : Bool := (vF32 a).isNan
def infF (a : W32) : Bool := (vF32 a).isInf

/-- FP64 sums (R322, R333). -/
def v64 (w : W64) : Val := fp64L.decode w.toNat
def add64 (a b : W64) : W64 := BitVec.ofNat 64 (fp64L.fromVal .rne ((v64 a).add (v64 b)))
def sum64 (vs : List Val) : W64 := vs.foldl (fun a v => BitVec.ofNat 64 (fp64L.fromVal .rne ((v64 a).add v))) 0

/-! ### Thinning (R321-R324) -/

/-- What a sender makes of a slice: the encoding code and form, and the new memory; `none` for a quarantine marker, whose
memory is +0. -/
structure Encoded where
  form : Option (Nat × Bytes)
  memory : List W32

/-- One bit (R322). -/
def encodeOneBit (v : List W32) : Encoded :=
  let sum := sum64 (v.map (fun x => (vF32 x).abs))
  let s : W32 := BitVec.ofNat 32 (fp32L.div .rne (v64 sum) (Val.ofInt v.length 0))
  let neg := fun (x : W32) => (vF32 x).sign && !(vF32 x).isZero
  let bits := (List.range (v.length / 8)).map (fun i =>
    BitVec.ofNat 8 (((List.range 8).filter (fun j => neg (v.getD (8 * i + j) 0))).foldl setBit 0))
  ⟨some (2, leBytes 4 s.toNat ++ bits), v.map (fun x => if neg x then addF x s else subF x s)⟩

/-- a ranks before b: NaN above every value, then larger magnitude, then lower index (R323). -/
def ranksBefore (a b : W32 × Nat) : Bool :=
  let x := (vF32 a.1).abs
  let y := (vF32 b.1).abs
  if x.isNan || y.isNan then (x.isNan && !y.isNan) || (x.isNan == y.isNan && decide (a.2 < b.2))
  else y.lt x || (x.eqv y && decide (a.2 < b.2))

/-- Top-k with shift t (R323). -/
def encodeTopK (t : Nat) (v : List W32) : Encoded :=
  let k := max 1 (v.length / 2 ^ t)
  let sent := ((v.zipIdx.mergeSort ranksBefore).take k).map (fun e => e.2)
  let idx := (List.range v.length).filter (fun i => sent.contains i)
  ⟨some (3, leBytes 4 k ++ idx.flatMap (fun i => leBytes 4 i ++ leBytes 4 (v.getD i 0).toNat)),
    v.zipIdx.map (fun e => if sent.contains e.2 then 0 else e.1)⟩

/-- Encode a slice: its gradient bytes, its format, its memory, the thinning mode, the shift, and whether NaN quarantines. -/
def encodeSlice (mode shift fmt : Nat) (quarantine : Bool) (grad : Bytes) (memory : List W32) : Encoded :=
  if mode = 0 then ⟨some (fmt, grad), memory⟩
  else
    let v := ((elems fmt grad).zip memory).map (fun p => addF p.1 p.2)
    if quarantine && v.any nanF then ⟨none, memory.map (fun _ => 0)⟩
    else if mode = 1 then encodeOneBit v
    else encodeTopK shift v

/-- Decode a contribution of L elements; none when it is undecodable (R325, R329). -/
def decodeForm (encoding l : Nat) (bs : Bytes) : Option (List W32) :=
  match encoding with
  | 0 => if bs.length = 4 * l then some (elems 0 bs) else none
  | 1 => if bs.length = 2 * l then some (elems 1 bs) else none
  | 2 =>
    if bs.length ≠ 4 + l / 8 then none
    else
      let s := field bs 0 4
      some ((List.range l).map (fun j =>
        BitVec.ofNat 32 (if bitOf (field bs (4 + j / 8) 1) (j % 8) then s ^^^ 0x80000000 else s)))
  | 3 =>
    let k := field bs 0 4
    let idx := (List.range k).map (fun i => field bs (4 + 8 * i) 4)
    if bs.length ≠ 4 + 8 * k ∨ l < k ∨ idx.any (fun i => decide (l ≤ i)) then none
    else
      let m : NMap W32 := (List.range k).foldl (fun m i =>
        nset (fun _ => 0) m (field bs (4 + 8 * i) 4) (BitVec.ofNat 32 (field bs (8 + 8 * i) 4))) []
      some ((List.range l).map (nget (fun _ => 0) m))
  | _ => none

/-- The encoding a thinning mode and gradient format use. -/
def encodingOf (mode fmt : Nat) : Nat := if mode = 0 then fmt else mode + 1

/-- Units of 32 elements. -/
def units32 (l : Nat) : Nat := (l + 31) / 32

/-- The charge of encoding one unit (R343). -/
def encodeCharge (mode : Nat) : Nat := if mode = 0 then 1 else if mode = 1 then 3 else 6

/-- The charge of updating one unit (R343). -/
def updateCharge (opt : Nat) : Nat := if opt = 0 then 2 else if opt = 1 then 4 else 12

/-! ### Norm (R333) -/

/-- q of a slice: the FP64 sum of squares of the scaled gradient, before clipping. -/
def sliceNorm (gs : W32) (acc : List W32) : W64 :=
  acc.foldl (fun a x =>
    let g := vF32 (mulF x gs)
    BitVec.ofNat 64 (fp64L.fromVal .rne ((v64 a).add (v64 (BitVec.ofNat 64 (fp64L.fromVal .rne (g.mul g))))))) 0

/-- The clip factor (R333): M ÷ √Q in FP64 when √Q exceeds M, rounded once to FP32. -/
def clipFactor (m : W32) (q : W64) : W32 :=
  let root : W64 := BitVec.ofNat 64 (fp64L.sqrt .rne (v64 q))
  if (vF32 m).lt (v64 root) then
    f32 .rne (v64 (BitVec.ofNat 64 (fp64L.div .rne (vF32 m) (v64 root))))
  else 0x3F800000

/-! ### One element (R334) -/

/-- The hyperparameters of R317. -/
structure Hyper where
  opt : Nat
  lr : W32
  b1 : W32
  b2 : W32
  eps : W32
  wd : W32
  gs : W32
  bc1 : W32
  bc2 : W32
  clip : Option W32
  deriving DecidableEq, Repr

def StepDesc.hyper (x : StepDesc) (clip : Option W32) : Hyper :=
  ⟨x.opt, x.lr, x.beta1, x.beta2, x.eps, x.wd, x.gscale, x.bc1, x.bc2, clip⟩

/-- The scaled gradient, clipped. -/
def Hyper.grad (h : Hyper) (acc : W32) : W32 :=
  let g := mulF acc h.gs
  match h.clip with
  | some c => mulF g c
  | none => g

/-- The new parameter and moments in FP32, before their rounding to BF16. -/
def Hyper.update (h : Hyper) (g p m1 m2 : W32) : W32 × W32 × W32 :=
  let one : W32 := 0x3F800000
  match h.opt with
  | 0 => (g, m1, m2)
  | 1 =>
    let g := addF g (mulF h.wd p)
    let m1 := addF (mulF h.b1 m1) g
    (subF p (mulF h.lr m1), m1, m2)
  | _ =>
    let g := if h.opt = 2 then addF g (mulF h.wd p) else g
    let m1 := addF (mulF h.b1 m1) (mulF (subF one h.b1) g)
    let m2 := addF (mulF h.b2 m2) (mulF (subF one h.b2) (mulF g g))
    let u := divF (mulF m1 h.bc1) (addF (sqrtF (mulF m2 h.bc2)) h.eps)
    let u := if h.opt = 3 then addF u (mulF h.wd p) else u
    (subF p (mulF h.lr u), m1, m2)

/-- Round to BF16 stochastically (R335). -/
def toBf16 (r : Rnd) (x : W32) : Nat := bf16L.fromVal r (vF32 x)

/-- What the update of a slice makes: parameters, first and second moments as BF16 bits, and how many elements were kept. -/
structure Updated where
  params : List Nat
  mom1 : List Nat
  mom2 : List Nat
  kept : Nat
  deriving DecidableEq, Repr

/-- Update a slice that begins at element `first` of its bucket. Under the quarantine policy an element whose scaled gradient
is not finite keeps its values (R336). -/
def updateSlice (h : Hyper) (quarantine : Bool) (seed step : W64) (bucket die first : Nat)
    (acc : List W32) (params mom1 mom2 : List Nat) : Updated :=
  let rnd := fun (stream j : Nat) => rndAt (some ⟨seed, 1024 + 4 * die + stream, step, bucket, 0⟩) (j / 1024) (j % 1024)
  let rows := acc.zipIdx.map (fun e =>
    let p := params.getD e.2 0
    let a := mom1.getD e.2 0
    let b := mom2.getD e.2 0
    let g := h.grad e.1
    if quarantine && (nanF g || infF g) then (p, a, b, 1)
    else
      let u := h.update g (bf16Up p) (bf16Up a) (bf16Up b)
      let j := first + e.2
      (toBf16 (rnd 0 j) u.1, if h.opt = 0 then a else toBf16 (rnd 1 j) u.2.1,
        if 2 ≤ h.opt then toBf16 (rnd 2 j) u.2.2 else b, 0))
  ⟨rows.map (fun r => r.1), rows.map (fun r => r.2.1), rows.map (fun r => r.2.2.1), (rows.map (fun r => r.2.2.2)).sum⟩

def bf16Bytes (xs : List Nat) : Bytes := xs.flatMap (fun x => leBytes 2 x)
def bf16List (bs : Bytes) : List Nat := (List.range (bs.length / 2)).map (fun i => field bs (2 * i) 2)

end Sys2Proof.Machine
end

