-- ==== Sys2Proof/Machine/SluiceOps.lean ====
section
/-!
DEFINITION. What the sluice's commands share: descriptors and their check (R316-R320), work areas with the carry directory
and the collation ring (R330, R339, R340), and the charges of a sluice's work (R343).
-/
namespace Sys2Proof.Machine

/-! ### Charges (R343) -/

/-- Pay the charge of a sluice's first piece of work as far as its balance covers it, beat by beat (R343). -/
def State.paySluice (s : State) (d : Nat) : State :=
  let k := s.sluice d
  match k.work with
  | [] => s
  | j :: js =>
    let refill := if k.granted then refill16 (powSluice (s.sheetsOn d) d) k.scale k.ramp else 0
    let r := payUnits refill j.left (unitsLeft j.left) ⟨0, k.unreserved, 0⟩
    s.setSluice d { k with work := { j with left := r.left } :: js, unreserved := r.purse.un, charged := k.charged + r.purse.paid
                           waited := k.waited || r.short }

/-- Give a sluice a piece of work, after what it has: it is done once its units are charged. -/
def State.addJob (s : State) (d b units each : Nat) (act : SluiceAct) : State :=
  s.setSluice d { s.sluice d with work := (s.sluice d).work ++ [⟨b, charge units each 1 false, act⟩] }

/-- Late forms are added before other work, in the order in which they came. -/
def State.addCarryJob (s : State) (d b units : Nat) (act : SluiceAct) : State :=
  let isCarry := fun (j : SluiceJob) => match j.act with | .carry .. => true | _ => false
  let w := (s.sluice d).work
  s.setSluice d { s.sluice d with work := w.takeWhile isCarry ++ ⟨b, charge units 3 1 false, act⟩ :: w.dropWhile isCarry }

/-- The 64-byte beats of n bytes. -/
def pieces64 (n : Nat) : Nat := (n + 63) / 64

/-- A piece of work of a sluice is still to be done. -/
def State.hasWork (s : State) (d : Nat) (act : SluiceAct) : Bool := (s.sluice d).work.any (fun j => j.act == act)

/-! ### Basin memory with open values -/

/-- Read a basin's memory; where it cannot be read, the bytes are open values. Log entry 38. -/
def State.openRead (s : State) (b va n : Nat) : Bytes × State :=
  match s.basinRead b va n with
  | .ok bs => (bs, s)
  | .error _ =>
    ((List.range n).map (fun i => BitVec.ofNat 8 (Config.freeNat (s.freeCount + i))), { s with freeCount := s.freeCount + n })

/-- Write a basin's memory as far as it can be reached. Log entry 38. -/
def State.put (s : State) (b va : Nat) (bs : Bytes) : State := (s.basinWrite b va bs).1

/-! ### Events (R344) -/

structure SlcAt where
  basin : Nat
  die : Nat
  bucket : W32
  step : W64
  slice : Nat
  deriving DecidableEq, Repr

/-- A numeric event of a sluice. -/
def State.slcEvent (s : State) (a : SlcAt) (kind member : Nat) (slow : Bool) (count : Nat) : State :=
  s.numEvent a.basin ⟨kind, 1, 1024 + a.die, member, boolBit slow, 0xFF, a.step, a.die,
    a.bucket.toNat + a.slice * 2 ^ 32 + min count 65535 * 2 ^ 48⟩

/-- Count a dropped message. Log entry 41. -/
def State.countDrop (s : State) (d : Nat) : State :=
  s.setSluice d { s.sluice d with dropped := satCount ((s.sluice d).dropped + 1) }

/-! ### Descriptors -/

/-- The active descriptors of a basin, oldest first. -/
def State.stepsOf (s : State) (b : Nat) : List StepDesc := s.steps.filter (fun x => x.basin == b)

def StepDesc.low (x : StepDesc) : W32 := x.step.setWidth 32

/-- The active descriptor of a step. -/
def State.stepAt (s : State) (b : Nat) (step : W32) : Option StepDesc := (s.stepsOf b).find? (fun x => x.low == step)

/-- The index of a bucket in a table. -/
def StepDesc.indexOf (x : StepDesc) (bucket : W32) : Option Nat :=
  let i := x.table.findIdx (fun e => e.id == bucket)
  if i < x.table.length then some i else none

def StepDesc.entryOf (x : StepDesc) (bucket : W32) : Option BucketEntry := x.table.find? (fun e => e.id == bucket)

/-- The step number of which these are the low bits: an active descriptor's, else the bits themselves. -/
def State.fullStep (s : State) (b : Nat) (step : W32) : W64 :=
  match s.stepAt b step with
  | some x => x.step
  | none => step.setWidth 64

/-- What is known of a bucket: the entry of an active descriptor, of the last one retired, or the one a ward copy keeps; of the
step asked for where a descriptor serves it. Log entry 40. -/
def State.entryFor (s : State) (b : Nat) (bucket step : W32) : Option BucketEntry :=
  let known := s.stepsOf b ++ s.retired.filter (fun x => x.basin == b)
  match known.find? (fun x => x.low == step && (x.entryOf bucket).isSome), known.findSome? (fun x => x.entryOf bucket) with
  | some x, _ => x.entryOf bucket
  | none, some e => some e
  | none, none => (s.wards.find? (fun w => w.basin == b && w.entry.id == bucket)).map (fun w => w.entry)

/-- A bucket's slice by its index (R313). -/
def State.lenOf (s : State) (b : Nat) (e : BucketEntry) (i : Nat) : Nat := sliceLen (slcP (s.sheetsOn (i % 4)) b) e.n i
def State.loOf (s : State) (b : Nat) (e : BucketEntry) (i : Nat) : Nat := sliceLo (slcP (s.sheetsOn (i % 4)) b) e.n i

/-- The slice of this member on a die (R314). -/
def State.ownSlice (s : State) (b d : Nat) : Nat := 4 * slcMember (s.sheetsOn d) b + d

/-- The slices of a die index that are not empty. -/
def State.dieSlices (s : State) (b d : Nat) (e : BucketEntry) : List Nat :=
  ((List.range (slcP (s.sheetsOn d) b)).map (fun m => 4 * m + d)).filter (fun i => decide (0 < s.lenOf b e i))

/-- The address of the moments of a slice on die d in an area laid out by R318. -/
def State.momentsAt (s : State) (b d : Nat) (area : W64) (e : BucketEntry) : Nat :=
  area.toNat + d * 4 * sliceMax (slcP (s.sheetsOn d) b) e.n

/-- Read or write the moments of a slice of length l on die d. -/
def State.readMoments (s : State) (b d l : Nat) (area : W64) (e : BucketEntry) : Bytes × State :=
  let at1 := s.momentsAt b d area e
  let r1 := s.openRead b at1 (2 * l)
  let r2 := r1.2.openRead b (at1 + 2 * sliceMax (slcP (s.sheetsOn d) b) e.n) (2 * l)
  (r1.1 ++ r2.1, r2.2)

def State.writeMoments (s : State) (b d l : Nat) (area : W64) (e : BucketEntry) (bs : Bytes) : State :=
  let at1 := s.momentsAt b d area e
  (s.put b at1 (bs.take (2 * l))).put b (at1 + 2 * sliceMax (slcP (s.sheetsOn d) b) e.n) (bs.drop (2 * l))

/-! ### The check of a descriptor (R320) -/

def finiteF (w : W32) : Bool := !nanF w && !infF w

def w32At (bs : Bytes) (off : Nat) : W32 := BitVec.ofNat 32 (field bs off 4)
def w64At (bs : Bytes) (off : Nat) : W64 := BitVec.ofNat 64 (field bs off 8)

/-- An entry of the bucket table from its 64 bytes. -/
def entryAt (bs : Bytes) : BucketEntry :=
  ⟨w32At bs 0, field bs 4 4, BitVec.ofNat 8 (field bs 8 1), w64At bs 0x10, w64At bs 0x18, w64At bs 0x20, w64At bs 0x28,
    w64At bs 0x30⟩

/-- A descriptor from its 128 bytes and the bytes of its table. -/
def descOf (b : Nat) (ref : RingRef) (x table : Bytes) : StepDesc :=
  { basin := b, ring := ref, opt := field x 2 1, normGate := bitOf (field x 3 1) 0, replay := bitOf (field x 3 1) 1,
    refetch := bitOf (field x 3 1) 2, step := w64At x 8,
    table := (List.range (field x 4 4)).map (fun i => entryAt (slice table (64 * i) 64)),
    signals := [w64At x 0x18, w64At x 0x20, w64At x 0x28, w64At x 0x30], lr := w32At x 0x38, beta1 := w32At x 0x3C,
    beta2 := w32At x 0x40, eps := w32At x 0x44, wd := w32At x 0x48, gscale := w32At x 0x4C, bc1 := w32At x 0x50,
    bc2 := w32At x 0x54, maxNorm := w32At x 0x58, refetchMask := field x 0x5C 1, replayTable := w64At x 0x60 }

/-- Every 64-byte piece of a range is readable and lies in the HBM of die d. -/
def State.onDie (s : State) (b d va n : Nat) : Bool :=
  (List.range ((n + 63) / 64)).all (fun i =>
    match s.access b false (va + 64 * i) with
    | .error _ => false
    | .ok pa => match placeOf pa with
      | .hbm e _ => e == d && !s.poisoned pa
      | _ => false)

/-- An entry keeps R313 and R318. Log entry 39. -/
def entryGood (t : Sheets) (b opt : Nat) (bs : Bytes) : Bool :=
  let e := entryAt bs
  e.n % 1024 == 0 && decide (1024 ≤ e.n) && decide (e.n ≤ 67108864) && decide (e.fmt.toNat ≤ 1) && zeroAt bs 9 7 &&
  zeroAt bs 0x38 8 && e.grad.toNat % 64 == 0 && e.params.toNat % 64 == 0 && (opt != 0 || e.moments == 0) &&
  (slcThinning t b != 0 || e.memory == 0) && (slcBuddy t b || e.ward == 0)

/-- The hyperparameters are finite and the maximum norm is as the gate wants it. -/
def hyperGood (x : StepDesc) : Bool :=
  [x.lr, x.beta1, x.beta2, x.eps, x.wd, x.gscale, x.bc1, x.bc2, x.maxNorm].all finiteF &&
  (if x.normGate then (Val.fin false 0 0).lt (vF32 x.maxNorm) else (vF32 x.maxNorm).isZero)

/-- Replay and refetch fields agree, and the replay table can be read. A refetch needs a buddy to fetch from. Log entry 39. -/
def State.modesGood (s : State) (b : Nat) (x : StepDesc) : Bool :=
  !(x.replay && x.refetch) && decide (x.refetchMask ≤ 15) && (x.refetch || x.refetchMask == 0) &&
  (!x.refetch || slcBuddy s.sheets b) &&
  (if x.replay then x.replayTable.toNat % 64 == 0 && (match s.basinRead b x.replayTable.toNat 64 with | .ok _ => true | .error _ => false)
   else x.replayTable == 0)

/-- The first check of R320 that a descriptor fails, with the entry of the table that a record names; none when it passes.
Log entry 39. -/
def State.stepRefusal (s : State) (b : Nat) (x : Bytes) (ref : RingRef) : Option (Nat × Nat) × StepDesc :=
  let t := s.sheets
  let n := field x 4 4
  let act := s.stepsOf b
  let step := w64At x 8
  let bare := descOf b ref x []
  let base := field x 0x10 8
  if field x 0 2 ≠ 1 ∨ 3 < field x 2 1 ∨ 7 < field x 3 1 ∨ !zeroAt x 0x5D 3 ∨ !zeroAt x 0x68 24 ∨ n = 0 ∨ 65536 < n then
    (some (1, 0), bare)
  else if !slcEnabled t b ∨ !([0, 1, 2, 3]).all s.sluicePresent then (some (2, 0), bare)
  else if step ≠ (s.basin b).step ∨ act.getLast?.any (fun y => step != y.step + 1) then
    (some (3, 0), bare)
  else if 2 ≤ act.length ∨ (bare.refetch ∧ act ≠ []) ∨ act.any (fun y => y.refetch) then (some (4, 0), bare)
  else if base % 64 ≠ 0 ∨ !([0, 1, 2, 3].all (fun d =>
      let a := field x (0x18 + 8 * d) 8
      a % 64 == 0 && s.onDie b d a (16 * n))) then (some (5, 0), bare)
  else match s.basinRead b base (64 * n) with
    | .error _ => (some (5, 0), bare)
    | .ok table =>
      let desc := descOf b ref x table
      let bad := (List.range n).find? (fun i => !entryGood t b desc.opt (slice table (64 * i) 64))
      match bad with
      | some i => (some (6, i), desc)
      | none =>
        if !noRepeat (desc.table.map (fun e => e.id.toNat)) then (some (7, 0), desc)
        else if !hyperGood desc then (some (8, 0), desc)
        else if !s.modesGood b desc then (some (9, 0), desc)
        else (none, desc)

/-! ### Work areas (R346): the directory, carry buffers, the collation ring -/

def State.workBase (s : State) (b d : Nat) : Nat := slcWorkFirst (s.sheetsOn d) b d * 0x40000000
def State.workSize (s : State) (b d : Nat) : Nat := slcWorkCount (s.sheetsOn d) b d * 0x40000000

/-- An address of a work area answers and is not poisoned. -/
def State.workOk (s : State) (pa : Nat) : Bool := s.accStat pa == .ok && !s.poisoned pa

/-- A work area that cannot be reached is a sluice error (R452). Log entry 39. -/
def State.workLost (s : State) (b d : Nat) : State := s.raise 0x0701 d b 0xFFFF d 0

/-- A directory entry: bucket, step, offset in pages of 4 KiB, length in bytes; a length of 0 is a free entry. -/
structure Carry where
  slot : Nat
  bucket : W32
  step : W32
  page : Nat
  length : Nat
  deriving DecidableEq, Repr

def State.carryAt (s : State) (b d slot : Nat) : Carry :=
  let a := s.workBase b d + 16 * slot
  ⟨slot, BitVec.ofNat 32 (s.readLe a 4), BitVec.ofNat 32 (s.readLe (a + 4) 4), s.readLe (a + 8) 4, s.readLe (a + 12) 4⟩

/-- The entries of a directory that hold a buffer. -/
def State.carries (s : State) (b d : Nat) : List Carry :=
  ((List.range 4096).map (s.carryAt b d)).filter (fun c => c.length != 0)

def State.setCarry (s : State) (b d : Nat) (c : Carry) : State :=
  s.writeBytes (s.workBase b d + 16 * c.slot)
    (leBytes 4 c.bucket.toNat ++ leBytes 4 c.step.toNat ++ leBytes 4 c.page ++ leBytes 4 c.length)

/-- Free a directory entry. -/
def State.dropCarry (s : State) (b d : Nat) (c : Carry) : State := s.setCarry b d ⟨c.slot, 0, 0, 0, 0⟩

/-- The carry of a bucket. -/
def State.carryOf (s : State) (b d : Nat) (bucket : W32) : Option Carry :=
  (s.carries b d).find? (fun c => c.bucket == bucket)

def State.carryBytes (s : State) (b d : Nat) (c : Carry) : Bytes := s.readBytes (s.workBase b d + 4096 * c.page) c.length

/-- The first pages of a work area that hold n bytes between the directory, the other buffers and the ring. -/
def State.carryRoom (s : State) (b d n : Nat) : Option Nat :=
  let used := s.carries b d
  let pages := (n + 4095) / 4096
  let last := (s.workSize b d - slcRing (s.sheetsOn d) b d) / 4096
  let fits := fun (p : Nat) => decide (p + pages ≤ last) &&
    used.all (fun c => decide (p + pages ≤ c.page) || decide (c.page + (c.length + 4095) / 4096 ≤ p))
  let starts := (16 :: used.map (fun c => c.page + (c.length + 4095) / 4096)).filter fits
  match starts with
  | [] => none
  | p :: ps => some (ps.foldl min p)

/-- The carry buffer of a bucket, of len elements, is there: the one it has, or a new one of +0; none when none can be had (R330).
Log entry 41. -/
def State.openCarry (s : State) (b d : Nat) (bucket step : W32) (len : Nat) : Option State :=
  match s.carryOf b d bucket with
  | some c => some (s.setCarry b d { c with step := step })
  | none =>
    match s.carryRoom b d (4 * len), (List.range 4096).find? (fun i => (s.carryAt b d i).length == 0) with
    | some p, some slot =>
      some ((s.writeBytes (s.workBase b d + 4096 * p) (List.replicate (4 * len) 0)).setCarry b d ⟨slot, bucket, step, p, 4 * len⟩)
    | _, _ => none

/-- Add a form into a bucket's carry buffer, after the carries already there (R330). -/
def State.addCarry (s : State) (b d : Nat) (bucket step : W32) (x : List W32) : State :=
  match s.openCarry b d bucket step x.length with
  | none => s
  | some t =>
    match t.carryOf b d bucket with
    | none => t
    | some c =>
      let new := ((elems 0 (t.carryBytes b d c)).zip x).map (fun p => addF p.1 p.2)
      t.writeBytes (t.workBase b d + 4096 * c.page) (f32Bytes new)

/-! ### The collation ring -/

def State.collBase (s : State) (b d : Nat) : Nat := s.workBase b d + s.workSize b d - slcRing (s.sheetsOn d) b d

def State.collRing (s : State) (b d : Nat) : CollRing := nget (fun _ => ⟨0, 0⟩) (s.basin b).coll d
def State.setCollRing (s : State) (b d : Nat) (c : CollRing) : State :=
  s.setBasin b { s.basin b with coll := nset (fun _ => ⟨0, 0⟩) (s.basin b).coll d c }

/-- A byte offset of the ring, modulo its size. -/
def State.writeColl (s : State) (b d : Nat) (off : Nat) : Bytes → State
  | [] => s
  | x :: xs =>
    State.writeColl (s.setByte (s.collBase b d + off % slcRing (s.sheetsOn d) b d) x) b d (off + 1) xs

/-- Append a record when the ring has room: the state and the record's offset. -/
def State.appendColl (s : State) (b d : Nat) (record : Bytes) : Option (State × Nat) :=
  let c := s.collRing b d
  if slcRing (s.sheetsOn d) b d - (c.head - c.tail).toNat < record.length then none
  else
    let t := s.writeColl b d c.head.toNat record
    some (t.setCollRing b d { c with head := c.head + BitVec.ofNat 32 record.length }, c.head.toNat)

/-- A collation event (R339). -/
def collEvent (kind member : Nat) (slow : Bool) : W32 :=
  BitVec.ofNat 32 (kind * 2 ^ 29 + boolBit slow * 2 ^ 28 + member)

def eventKind (e : W32) : Nat := bitsOf e.toNat 31 29
def eventMember (e : W32) : Nat := bitsOf e.toNat 15 0

/-- The bytes of a record: its header and events, padded to a multiple of 16. -/
def collRecord (bucket : W32) (step seed q : W64) (slice flags thinning shift admitted : Nat) (events : List W32) : Bytes :=
  let body := leBytes 4 bucket.toNat ++ leBytes 4 0 ++ leBytes 8 step.toNat ++ leBytes 8 seed.toNat ++ leBytes 8 q.toNat ++
    leBytes 2 slice ++ leBytes 2 flags ++ leBytes 1 thinning ++ leBytes 1 shift ++ leBytes 2 admitted ++
    leBytes 2 events.length ++ List.replicate 6 0 ++ events.flatMap (fun e => leBytes 4 e.toNat)
  body ++ List.replicate ((16 - body.length % 16) % 16) 0

/-- The records of a replay table that belong to a slice, in order: Q of the first, and all their events. The table ends at
the first record of another step, or where it cannot be read. Log entry 42. -/
def State.replayScan (s : State) (b : Nat) (step : W64) (bucket : W32) (slice : Nat) :
    Nat → Nat → Option (W64 × List W32) → Option (W64 × List W32)
  | 0, _, acc => acc
  | f + 1, va, acc =>
    match s.basinRead b va 48 with
    | .error _ => acc
    | .ok h =>
      if w64At h 8 ≠ step then acc
      else
        let n := field h 0x28 2
        let next := va + (48 + 4 * n + 15) / 16 * 16
        if w32At h 0 ≠ bucket ∨ field h 0x20 2 ≠ slice then State.replayScan s b step bucket slice f next acc
        else match s.basinRead b (va + 48) (4 * n) with
          | .error _ => acc
          | .ok evs =>
            let es := (List.range n).map (fun i => w32At evs (4 * i))
            let acc := match acc with
              | none => some (w64At h 0x18, es)
              | some a => some (a.1, a.2 ++ es)
            State.replayScan s b step bucket slice f next acc

/-- The record of a slice in the replay table of a step. Log entry 42. -/
def State.replayRecord (s : State) (x : StepDesc) (bucket : W32) (slice : Nat) : Option (W64 × List W32) :=
  s.replayScan x.basin x.step bucket slice (4 * x.table.length * (slcP (s.sheetsOn (slice % 4)) x.basin + 2)) x.replayTable.toNat none

end Sys2Proof.Machine
end

