-- ==== Sys2Proof/Machine/Wire.lean ====
section
/-!
DEFINITION. The bytes of the towpath: native frames (R361, R362) and their control payloads, the datagrams of an Ethernet port
(R371, R372), and the header that begins each frame of sluice traffic (R325).
-/
namespace Sys2Proof.Machine

/-! ### Native frames (R361) -/

/-- Bytes 0x00 to 0x0B of a frame. -/
def frameHead (f : TowFrame) : Bytes :=
  leBytes 1 f.kind.toNat ++ leBytes 1 (f.cls.toNat + 4 * boolBit f.slow) ++ leBytes 2 f.payload.length ++
    leBytes 2 f.seq.toNat ++ leBytes 2 f.flow.toNat ++ leBytes 2 f.alive.toNat ++ leBytes 1 f.epoch.toNat ++ leBytes 1 0

/-- A frame without its padding. -/
def frameBytes (f : TowFrame) : Bytes :=
  frameHead f ++ leBytes 4 (crc32c (frameHead f ++ f.payload)).toNat ++ f.payload

/-- A frame as the native stream carries it, padded with zero bytes to a multiple of 16. -/
def frameStream (f : TowFrame) : Bytes := frameBytes f ++ List.replicate ((16 - (frameBytes f).length % 16) % 16) 0

/-- The frame that bytes hold; none when it is too short, its CRC fails or a reserved field is not zero (R362). Padding after
the payload is not looked at. -/
def parseFrame (bs : Bytes) : Option TowFrame :=
  let n := field bs 2 2
  let payload := (bs.drop 16).take n
  if bs.length < 16 + n ∨ 4096 < n ∨ 8 ≤ field bs 1 1 ∨ field bs 0xB 1 ≠ 0 ∨
      crc32c (bs.take 12 ++ payload) ≠ BitVec.ofNat 32 (field bs 12 4) then none
  else some
    { kind := BitVec.ofNat 8 (field bs 0 1), cls := BitVec.ofNat 2 (field bs 1 1), slow := bitOf (field bs 1 1) 2
      seq := BitVec.ofNat 16 (field bs 4 2), flow := BitVec.ofNat 16 (field bs 6 2), alive := BitVec.ofNat 16 (field bs 8 2)
      epoch := BitVec.ofNat 8 (field bs 10 1), payload := payload }

/-- A control frame: class 0, with a payload. Log entry 101. -/
def controlFrame (kind : Nat) (seq flow alive : W16) (payload : Bytes) : TowFrame :=
  ⟨BitVec.ofNat 8 kind, 0, false, seq, flow, alive, 0, payload⟩

/-- The 24 bytes of a time request or response: the times it carries and, in a response, the stratum (R369). Log entry 101. -/
def timePayload (a b : W64) (stratum : Nat) : Bytes := leBytes 8 a.toNat ++ leBytes 8 b.toNat ++ leBytes 8 stratum

/-- The 8 bytes of a resume query or answer: flow, counter, epoch, and in a query whether it is the first of its epoch (R366,
R470). Log entry 45. -/
def resumePayload (flow last : W16) (epoch : Byte) (first : Bool) : Bytes :=
  leBytes 2 flow.toNat ++ leBytes 2 last.toNat ++ leBytes 1 epoch.toNat ++ leBytes 3 (boolBit first)

/-! ### Datagrams (R371, R372) -/

/-- The ones' complement sum of 16-bit words that IPv4 and UDP check by. -/
def onesSum : Bytes → Nat
  | a :: b :: rest => 256 * a.toNat + b.toNat + onesSum rest
  | [a] => 256 * a.toNat
  | [] => 0

/-- The checksum of a byte string: the complement of its sum with the carries added in. -/
def onesCheck (bs : Bytes) : Nat :=
  let fold := fun (v : Nat) => v % 65536 + v / 65536
  65535 - fold (fold (onesSum bs))

/-- The IPv4 header of R371: no options, DF set, TTL 64, UDP. Log entry 102. -/
def ip4Header (dscp id length : Nat) (src dst : Bytes) : Bytes :=
  let head := fun (check : Nat) => beBytes 1 0x45 ++ beBytes 1 (4 * dscp) ++ beBytes 2 length ++ beBytes 2 id ++ beBytes 2 0x4000 ++
    beBytes 1 64 ++ beBytes 1 17 ++ beBytes 2 check ++ src.take 4 ++ dst.take 4
  head (onesCheck (head 0))

/-- The IPv6 header of R371: traffic class from the class map, flow label zero, hop limit 64, UDP. Log entry 102. -/
def ip6Header (dscp length : Nat) (src dst : Bytes) : Bytes :=
  beBytes 4 (0x60000000 + 4 * dscp * 2 ^ 20) ++ beBytes 2 length ++ beBytes 1 17 ++ beBytes 1 64 ++ src ++ dst

/-- The UDP datagram of a frame: its checksum is zero under IPv4 and computed under IPv6. -/
def udpBytes (v6 : Bool) (src dst : Bytes) (flow port : Nat) (inner : Bytes) : Bytes :=
  let n := 8 + inner.length
  let head := fun (check : Nat) => beBytes 2 (0xC000 + flow % 0x4000) ++ beBytes 2 port ++ beBytes 2 n ++ beBytes 2 check
  let sum := onesCheck (src ++ dst ++ beBytes 4 n ++ beBytes 4 17 ++ head 0 ++ inner)
  head (if v6 then (if sum = 0 then 0xFFFF else sum) else 0) ++ inner

/-- The datagram in which an Ethernet port sends a frame to an address, with the IPv4 identification `id` (R371). -/
def datagram (t : Sheets) (p : Nat) (dst : Bytes) (id : Nat) (f : TowFrame) : Bytes :=
  let v6 := towV6 t p
  let c := f.cls.toNat
  let udp := udpBytes v6 (towIp t p) dst f.flow.toNat (towUdp t) (frameBytes f)
  let tag := if Config.vlanTag p then beBytes 2 0x8100 ++ beBytes 2 (towPcp t c * 0x2000) else []
  let packet := towNextHop t p ++ beBytes 6 (Config.portMac p).toNat ++ tag ++
    (if v6 then beBytes 2 0x86DD ++ ip6Header (towDscp t c) udp.length (towIp t p) dst
     else beBytes 2 0x0800 ++ ip4Header (towDscp t c) id (20 + udp.length) (towIp t p) dst) ++ udp
  let packet := packet ++ List.replicate (60 - packet.length) 0
  packet ++ leBytes 4 (crc32 packet).toNat

/-- What an accepted datagram holds: the sender's address, in the 16 bytes of the sheet, and the bytes of its frame. -/
structure Accepted where
  src : Bytes
  frame : Bytes
  deriving DecidableEq, Repr

/-- What a packet holds, from its Ethernet type on, when it is UDP for the port's own address and the sheet's UDP port (R372). -/
def acceptPacket (t : Sheets) (p : Nat) (bs : Bytes) : Option Accepted :=
  let v6 := towV6 t p
  let be := fun (off n : Nat) => beValue ((bs.drop off).take n)
  let l3 := if be 0 2 = 0x8100 then 6 else 2
  let ip := bs.drop l3
  let n := ipLen v6
  let at4 := l3 + if v6 then 40 else 4 * (be l3 1 % 16)
  let srcAt := if v6 then 8 else 12
  let len := be (at4 + 4) 2
  if be (l3 - 2) 2 ≠ (if v6 then 0x86DD else 0x0800) ∨ be l3 1 / 16 ≠ (if v6 then 6 else 4) then none
  else if be (l3 + if v6 then 6 else 9) 1 ≠ 17 ∨ (ip.drop (srcAt + n)).take n ≠ (towIp t p).take n ∨ be (at4 + 2) 2 ≠ towUdp t ∨
      len < 8 ∨ bs.length < at4 + len then none
  else some ⟨(ip.drop srcAt).take n ++ List.replicate (16 - n) 0, (bs.drop (at4 + 8)).take (len - 8)⟩

/-- An Ethernet port takes a datagram that carries its own MAC (R372). One whose frame check sequence fails reaches no port. Log
entry 102. Log entry 102. -/
def acceptDatagram (t : Sheets) (p : Nat) (bs : Bytes) : Option Accepted :=
  let body := bs.take (bs.length - 4)
  if bs.length < 64 ∨ field bs (bs.length - 4) 4 ≠ (crc32 body).toNat ∨ beValue (body.take 6) ≠ (Config.portMac p).toNat then none
  else acceptPacket t p (body.drop 12)

/-! ### The sluice header (R325) -/

/-- The largest part of an encoded form that one frame carries. -/
def pieceMax : Nat := 4064

/-- The payload of a piece. -/
def pieceBytes (x : SlcPiece) : Bytes :=
  leBytes 4 x.bucket.toNat ++ leBytes 4 x.step.toNat ++ leBytes 2 x.member.toNat ++ leBytes 2 x.slice.toNat ++
    leBytes 1 x.kind ++ leBytes 1 x.encoding ++ leBytes 2 (boolBit x.last) ++ leBytes 4 x.offset ++ leBytes 4 x.length ++
    leBytes 4 x.crc.toNat ++ leBytes 4 0 ++ x.data

/-- The piece that a payload holds; none when it has no header, its kind or encoding is not listed or a reserved field is not
zero. Log entry 35. -/
def parsePiece (bs : Bytes) : Option SlcPiece :=
  if bs.length < 32 ∨ 8 ≤ field bs 0xC 1 ∨ 4 ≤ field bs 0xD 1 ∨ 2 ≤ field bs 0xE 2 ∨ field bs 0x1C 4 ≠ 0 then none
  else some
    { bucket := BitVec.ofNat 32 (field bs 0 4), step := BitVec.ofNat 32 (field bs 4 4), member := BitVec.ofNat 16 (field bs 8 2)
      slice := BitVec.ofNat 16 (field bs 10 2), kind := field bs 0xC 1, encoding := field bs 0xD 1
      last := field bs 0xE 2 == 1, offset := field bs 0x10 4, length := field bs 0x14 4
      crc := BitVec.ofNat 32 (field bs 0x18 4), data := bs.drop 32 }

/-- The pieces of a message of one kind from an offset on. -/
def cutPieces (kind : Nat) (m : SluiceMsg) : Nat → Nat → List SlcPiece
  | 0, _ => []
  | n + 1, off =>
    let last := decide (m.data.length ≤ off + pieceMax)
    ⟨m.bucket, m.step, m.member, m.slice, kind, m.encoding.toNat, last, off, m.data.length, m.crc,
      (m.data.drop off).take pieceMax⟩ :: (if last then [] else cutPieces kind m n (off + pieceMax))

/-- The pieces in which a message travels: at least one (R325). -/
def msgPieces (kind : Nat) (m : SluiceMsg) : List SlcPiece := cutPieces kind m (m.data.length / pieceMax + 1) 0

/-- The class in which a kind of message travels (R325). -/
def slcClass (kind : Nat) : Nat := if kind ≤ 2 then 1 else if kind ≤ 4 then 0 else 2

end Sys2Proof.Machine
end

