-- ==== Sys2Proof/Machine/Ports.lean ====
section
/-!
DEFINITION. The sending side of the towpath: widths (R358), flow records and the ports they choose from (R366, R368), the order
in which a port sends (R364), replay (R365, R373), failover (R366), and the changes of a port's state.
-/
namespace Sys2Proof.Machine

/-! ### Ports -/

def portDie (p : Nat) : Nat := p / 14
def PortState.carries (st : PortState) : Bool := st == .up || st == .probation

/-- The port is native, or Ethernet. -/
def State.portNative (s : State) (p : Nat) : Bool := towMode (s.sheetsOn (portDie p)) p == 1
def State.portEthernet (s : State) (p : Nat) : Bool := towMode (s.sheetsOn (portDie p)) p == 2

/-- The basin an error of a port names. -/
def State.portBasin (s : State) (p : Nat) : Nat := (portOwner (s.sheetsOn (portDie p)) p).getD 0xFF

def State.portError (s : State) (code p : Nat) : State := s.raise code (portDie p) (s.portBasin p) p 0 0

/-- The widest lane group within the limit whose lanes are all good: its width code and first lane (R358). -/
def widestGroup (limit good : Nat) : Option (Nat × Nat) :=
  let fits := fun (w : Nat × Nat) => decide (limit ≤ w.1) && (List.range (8 / 2 ^ w.1)).all (fun i => bitOf good (w.2 + i))
  ((List.range 4).flatMap (fun w => (List.range (2 ^ w)).map (fun i => (w, i * (8 / 2 ^ w))))).find? fits

/-- The credits of a data frame, in units of 256 bytes (R363). -/
def frameCost (f : TowFrame) : Nat := (16 + f.payload.length + 255) / 256

/-! ### Flow records -/

/-- The record of a basin's sluice traffic with a member on a die (R367, R368). -/
def sluiceFlow (b d member : Nat) : Nat := 0x10000 * (1 + 4 * b + d) + 0x4000 + member

def keyDie (key : Nat) : Nat := (key / 0x10000 - 1) % 4
def keyMember (key : Nat) : Nat := key % 0x10000 - 0x4000
def keyBasin (t : Sheets) (key : Nat) : Nat := if key < 1024 then flowBasin t key else (key / 0x10000 - 1) / 4

/-- The sluice-set ports of a die that a basin owns, in order of index. Log entry 100. -/
def basinSet (t : Sheets) (b d : Nat) : List Nat :=
  (List.range 16).filterMap (fun i => (sluicePorts t d).find? (fun p => setIndex t p == i && portOwner t p == some b))

/-- The ports a flow may send on, in order of preference: a basin flow's list; for a member's sluice traffic the set port of
its index, then the next ones cyclically (R366, R368). -/
def State.keyPorts (s : State) (key : Nat) : List Nat :=
  if key < 1024 then flowPorts s.sheets key
  else
    let set := basinSet (s.sheetsOn (keyDie key)) (keyBasin s.sheets key) (keyDie key)
    let i := keyMember key % set.length
    set.drop i ++ set.take i

/-- The flow identifier of the frames of a record: sluice frames carry their sender's (R368). -/
def State.keyFlow (s : State) (key : Nat) : W16 :=
  BitVec.ofNat 16 (if key < 0x10000 then key else 0x4000 + slcMember (s.sheetsOn (keyDie key)) (keyBasin s.sheets key))

/-- The record to which a flow identifier received on a port belongs. -/
def State.recvKey (s : State) (p flow : Nat) : Nat :=
  if 0x4000 ≤ flow ∧ flow < 0x8000 then sluiceFlow (s.portBasin p) (portDie p) (flow - 0x4000) else flow

/-- The address that the datagrams of a record go to: the peer of a basin flow; of a member, its set port whose index is this
member's place (R368). Log entry 103. -/
def State.peerIp (s : State) (p key : Nat) : Bytes :=
  let t := s.sheetsOn (portDie p)
  if key < 1024 then flowPeerIp t key
  else if key < 0x10000 then Config.keeperPeer p
  else
    let b := keyBasin t key
    let set := basinSet t b (keyDie key)
    let index := match set[slcMember t b % set.length]? with | some q => setIndex t q | none => 0
    ipAfter (towV6 t p) (towBase t (keyDie key)) (16 * keyMember key + index)

/-! ### What leaves a port -/

/-- The bytes in which a port sends a frame of a record: the native stream, or a datagram (R361, R371). -/
def State.wireBytes (s : State) (p key : Nat) (f : TowFrame) : Bytes :=
  if s.portNative p then frameStream f
  else datagram (s.sheetsOn (portDie p)) p (s.peerIp p key) (Config.ipIdent p (s.port p).txFrames) { f with seq := 0 }

/-- Send a frame that is not numbered: acknowledgements, NAKs, times, queries and answers. -/
def State.sendControl (s : State) (p key : Nat) (f : TowFrame) : State := s.emit (.frame p (s.wireBytes p key f))

/-- Bytes of the replay buffer that unacknowledged frames take, in units of 256 (R365). -/
def replayBytes (fs : List Sent) : Nat := (fs.map (fun x => 256 * frameCost x.frame)).sum

/-- A class may be sent on an Ethernet port: its priority is not paused (R373). -/
def State.classOpen (s : State) (p : Nat) (cls : Nat) : Bool := !bitOf (s.port p).paused.toNat (towPcp (s.sheetsOn (portDie p)) cls)

/-- A frame may be sent now: a native port holds its credits and room to replay it (R363, R365), an Ethernet port is not
paused and has room in its 4 MiB (R373). A port in PROBATION carries class 3 only (R370). Log entry 44. -/
def State.sendable (s : State) (p : Nat) (f : TowFrame) : Bool :=
  let k := s.port p
  let c := f.cls.toNat
  let size := replayBytes k.replay + 256 * frameCost f
  (k.st == .up || (k.st == .probation && c == 3)) &&
  (if s.portNative p then decide (frameCost f ≤ k.credits.getD c 0) && decide (size ≤ 0x80000)
   else s.classOpen p c && decide (size ≤ 0x400000))

/-- A frame carries the slow-water flag of its basin as it is sent (R368). -/
def State.flagged (s : State) (x : Sent) : Sent :=
  if 0xFF00 ≤ x.key ∧ x.key < 0x10000 then x
  else { x with frame := { x.frame with slow := (s.basin (keyBasin s.sheets x.key)).slow } }

/-- Put a frame on the wire: a native port numbers it; it is kept for replay. The keepers' test frames of an Ethernet port, which
nothing acknowledges, are not kept. -/
def State.sendFrame (s : State) (p : Nat) (x : Sent) : State :=
  let x := s.flagged x
  let k := s.port p
  let sent := { k with txFrames := satCount (k.txFrames + 1) }
  if s.portNative p then
    let f := { x.frame with seq := k.sendSeq }
    let c := f.cls.toNat
    (s.setPort p { sent with
      sendSeq := k.sendSeq + 1, replay := k.replay ++ [{ x with frame := f }]
      credits := k.credits.set c (k.credits.getD c 0 - frameCost f) }).emit (.frame p (s.wireBytes p x.key f))
  else (s.setPort p { sent with replay := if 0xFF00 ≤ x.key ∧ x.key < 0x10000 then k.replay else k.replay ++ [x] }).emit
    (.frame p (s.wireBytes p x.key x.frame))

/-! ### The order of frames (R364) -/

/-- The first waiting frame of a class, where it can be sent. -/
def State.headFrame (s : State) (p c : Nat) : Option Sent :=
  ((s.port p).waiting.find? (fun x => x.frame.cls.toNat == c)).filter (fun x => s.sendable p x.frame)

/-- The next frame of a port. Log entry 44. -/
def State.nextFrame (s : State) (p : Nat) : Option Sent :=
  ((s.port p).shares.turn (fun c => (s.headFrame p c).map (fun x => frameCost x.frame))).bind (s.headFrame p)

/-- A frame leaves the queue, accounted in the shares of its port. -/
def Port.account (k : Port) (x : Sent) : Port :=
  { k with
    shares := k.shares.account (fun c => k.waiting.any (fun y => y.frame.cls.toNat == c)) x.frame.cls.toNat (frameCost x.frame)
    waiting := k.waiting.erase x }

/-- Send what the port can, up to n frames. -/
def State.pumpFuel (p : Nat) : Nat → State → State
  | 0, s => s
  | n + 1, s =>
    match s.nextFrame p with
    | none => s
    | some x => State.pumpFuel p n ((s.setPort p ((s.port p).account x)).sendFrame p x)

/-- A keeper's test frame of a port in probation: 4,096 bytes of payload in class 3 (R370). Log entry 103. -/
def testFrame (p : Nat) (alive : W16) : TowFrame :=
  ⟨1, 3, false, 0, BitVec.ofNat 16 (0xFF00 + p), alive, 0, (List.range 4096).map Config.testByte⟩

/-- The keepers of a port in probation send test frames as long as it takes them; on Ethernet, which has no credits, one at a
time. Log entry 103. -/
def State.sendTests (p : Nat) : Nat → State → State
  | 0, s => s
  | n + 1, s =>
    let key := 0xFF00 + p
    let f := testFrame p (s.flow key).next
    if (s.port p).st ≠ .probation ∨ (s.port p).quiesced ∨ !s.sendable p f then s
    else
      let s := (s.setFlow key { s.flow key with next := f.alive + 1 }).sendFrame p ⟨key, f⟩
      if s.portNative p then State.sendTests p n s else s

/-- A port sends what waits, and its test frames. Log entry 44. -/
def State.pump (s : State) (p : Nat) : State := State.sendTests p 8 (s.pumpFuel p (s.port p).waiting.length)

/-! ### Flows: sending -/

/-- The first port of a flow's list that is UP and whose peer matches (R366). -/
def State.eligible (s : State) (key : Nat) : Option Nat :=
  let peer := if key < 1024 then flowPeer s.sheets key else 0
  (s.keyPorts key).find? (fun p => (s.port p).st == .up && (peer == 0 || (s.port p).peerSerial.toNat == peer))

/-- The counter before the first frame not yet known to be delivered. -/
def Flow.lastKnown (f : Flow) : W16 :=
  match f.unacked with
  | x :: _ => x.alive - 1
  | [] => f.next - BitVec.ofNat 16 f.pendingTx.length - 1

/-- Hand the flow's waiting frames to its port. -/
def State.kick (s : State) (key : Nat) : State :=
  let k := s.flow key
  match k.port with
  | none => s
  | some p =>
    if k.resuming ∨ k.pendingTx = [] then s
    else
      let s := s.setFlow key { k with unacked := k.unacked ++ k.pendingTx, pendingTx := [] }
      (s.setPort p { s.port p with waiting := (s.port p).waiting ++ k.pendingTx.map (fun f => ⟨key, f⟩) }).pump p

/-- The frames of a flow leave a port's queue and, end to end as they are on Ethernet, its replay buffer. -/
def State.takeBack (s : State) (p key : Nat) : State :=
  let mine := fun (x : Sent) => x.key == key
  let k := s.port p
  s.setPort p { k with waiting := k.waiting.filter (fun x => !mine x)
                       replay := if s.portEthernet p then k.replay.filter (fun x => !mine x) else k.replay }

/-- Bring a flow to the port it should send on: a resume query opens the exchange, in class 0 (R366). A flow that is there
sends on; with no eligible port it waits. Log entry 45. -/
def State.reroute (s : State) (key : Nat) : State :=
  let k := s.flow key
  let b := keyBasin s.sheets key
  let want := s.eligible key
  if want = k.port then s.kick key
  else
    let s := match k.port with
      | some p => s.takeBack p key
      | none => s
    match want with
    | none => (s.setFlow key { k with port := none, resuming := false }).raise 0x0905 (match k.port with | some p => portDie p | none => 0)
        b (k.port.getD 0xFFFF) (s.keyFlow key).toNat 0
    | some p =>
      (s.setFlow key { k with port := some p, resuming := true }).sendControl p key
        (controlFrame 6 0 (s.keyFlow key) 0 (resumePayload (s.keyFlow key) k.lastKnown (s.basin b).epoch (!k.told)))

/-- The basin flows and sluice flows that list a port. -/
def State.flowsOf (s : State) (p : Nat) : List Nat :=
  let t := s.sheetsOn (portDie p)
  (List.range 1024).filter (fun f => flowEnabled t f && (flowPorts t f).contains p) ++
    (s.flows.map (fun e => e.1)).filter (fun key => decide (0x10000 ≤ key) && keyDie key == portDie p && (s.keyPorts key).contains p)

/-- A flow here has something to send. -/
def Flow.sends (k : Flow) : Bool := k.port.isSome || !k.pendingTx.isEmpty || !k.unacked.isEmpty

/-- The flows of a port look for their port again. Log entry 45. -/
def State.rerouteAll (s : State) (p : Nat) : State :=
  s.forEach ((s.flowsOf p).filter (fun f => (s.flow f).sends)) (fun s f => s.reroute f)

/-- A frame of a flow is acknowledged: it leaves the replay buffer of an Ethernet port, and a message whose every frame is
acknowledged completes its entry (R373, R419). -/
def State.ackFrame (s : State) (key : Nat) (alive : W16) : State :=
  let k := s.flow key
  if !(k.unacked.any (fun x => x.alive == alive)) then s
  else
    let msgs := match k.msgs with
      | [] => []
      | m :: ms => { m with acked := m.acked + 1 } :: ms
    let s := s.setFlow key { k with unacked := k.unacked.filter (fun x => x.alive != alive), msgs := msgs }
    let s := match k.port with
      | some p => if s.portEthernet p then
          s.setPort p { s.port p with replay := (s.port p).replay.filter (fun x => x.key != key || x.frame.alive != alive) }
        else s
      | none => s
    match msgs with
    | m :: ms =>
      if m.acked < m.frames then s
      else (s.setFlow key { s.flow key with msgs := ms }).complete m.ring (.done m.bytes)
    | [] => s

/-- Every frame of a flow up to a counter is acknowledged. -/
def State.ackThrough (s : State) (key : Nat) (last : W16) : State :=
  s.forEach ((s.flow key).unacked.filter (fun x => (last - x.alive).toNat < 0x8000)) (fun s x => s.ackFrame key x.alive)

/-- A flow is asked to replay from a counter on: its frames go before any new one, under pause as any other (R373). -/
def State.replayFlow (s : State) (p key : Nat) (alive : W16) : State :=
  let k := s.port p
  let again := fun (x : Sent) => x.key == key && decide ((x.frame.alive - alive).toNat < 0x8000)
  (s.setPort p { k with replay := k.replay.filter (fun x => !again x), waiting := k.replay.filter again ++ k.waiting }).pump p

/-- The sending side of a flow starts afresh, with counter 0 (R367, R470). Messages not acknowledged fail with a code. -/
def State.resetFlow (s : State) (key code : Nat) : State :=
  let k := s.flow key
  let s := s.forEach k.msgs (fun s m => s.complete m.ring ⟨3, code, 0, 0, 0⟩)
  let s := match k.port with
    | some p => s.takeBack p key
    | none => s
  s.setFlow key { k with port := none, resuming := false, told := false, next := 0, pendingTx := [], unacked := [], msgs := [] }

/-- Append payloads to a flow as data frames of its next counters, and let it send. -/
def State.sendPayloads (s : State) (key : Nat) (cls : Nat) (epoch : Byte) (payloads : List Bytes) : State :=
  let k := s.flow key
  let flow := s.keyFlow key
  let frames := payloads.zipIdx.map (fun e =>
    (⟨1, BitVec.ofNat 2 cls, false, 0, flow, k.next + BitVec.ofNat 16 e.2, epoch, e.1⟩ : TowFrame))
  (s.setFlow key { k with next := k.next + BitVec.ofNat 16 payloads.length, pendingTx := k.pendingTx ++ frames }).reroute key

/-! ### Changes of a port's state -/

/-- A port goes DOWN; its flows fail over (R359, R366). What it has received and not delivered stays in its buffer. -/
def State.portDown (s : State) (p : Nat) : State :=
  let s := s.setPort p { s.port p with
    st := .down, training := false, good := 0, width := 0, replay := [], waiting := [], nakOut := false, naksInRow := 0
    probCount := 0, peerSerial := 0, peerStratum := 15, pauseOut := 0, sinceAck := 0 }
  s.rerouteAll p

/-- A port is UP: its flows move to it by their order of preference. -/
def State.portUp (s : State) (p : Nat) : State :=
  (s.setPort p { s.port p with st := .up, everUp := true, probCount := 0 }).rerouteAll p

/-- A port in probation begins its count again (R370). -/
def State.restartCount (s : State) (p : Nat) : State :=
  if (s.port p).st = .probation then s.setPort p { s.port p with probCount := 0 } else s

end Sys2Proof.Machine
end

