-- ==== Sys2Proof/Machine/Slices.lean ====
section
/-!
DEFINITION. The owner's slice from its first reception to DONE (R326-R339), the norm tree (R333), the completion of
buckets and the retirement of descriptors (R316, R338).
-/
namespace Sys2Proof.Machine

/-! ### The table of slices -/

def Slice.fresh (k : SliceKey) : Slice :=
  { key := k, st := .empty, step := k.step.setWidth 64, len := 0, replay := false, staging := [], admitting := none,
    seen := [], admitted := [], carryIn := false, acc := [], events := [], byDeadline := false, q := 0, total := none,
    skipped := false, failed := false, recorded := false, recAt := none, plan := [], mirrored := false }

def State.sliceAt (s : State) (k : SliceKey) : Option Slice := s.slices.find? (fun x => x.key == k)

def State.putSlice (s : State) (x : Slice) : State :=
  if s.slices.any (fun y => y.key == x.key) then
    { s with slices := s.slices.map (fun y => if y.key = x.key then x else y) }
  else { s with slices := s.slices ++ [x] }

/-- The slice of a bucket that has left EMPTY, of the newest step: the one before it is kept for what comes late (R328). -/
def State.current (s : State) (b : BasinId) (d : CDieId) (bucket : W32) : Option Slice :=
  (s.slices.filter (fun x => x.key.basin == b && x.key.die == d && x.key.bucket == bucket && x.st != .empty)).foldl
    (fun best x => match best with
      | none => some x
      | some y => if (x.key.step - y.key.step).toNat < 2 ^ 31 then some x else best) none

def Slice.place (x : Slice) : SlcAt := ⟨x.key.basin, x.key.die, x.key.bucket, x.step, x.key.slice.toNat⟩

def Slice.note (x : Slice) (kind member : Nat) (slow : Bool) : Slice :=
  { x with events := x.events ++ [collEvent kind member slow] }

/-- The event noted at a member's reception becomes another, as when the gate closes before its admission; where none was noted,
the event is added (R339). -/
def Slice.mark (x : Slice) (kind member : Nat) (slow : Bool) : Slice :=
  let e := collEvent 0 member slow
  if x.events.contains e then { x with events := x.events.replace e (collEvent kind member slow) } else x.note kind member slow

/-! ### Messages to other members -/

/-- A message of this member: its CRC covers the whole encoded form (R325). -/
def State.message (s : State) (b : Nat) (bucket step : W32) (slice encoding : Nat) (data : Bytes) : SluiceMsg :=
  { bucket := bucket, step := step, member := BitVec.ofNat 16 (slcMember (s.sheetsOn (slice % 4)) b), slice := BitVec.ofNat 16 slice,
    encoding := BitVec.ofNat 8 encoding, slow := (s.basin b).slow, epoch := (s.basin b).epoch, crc := crc32c data,
    data := data }

/-- A message leaves die d: its pieces go to a member on the flow of its set ports (R325, R368). Log entry 35. -/
def State.sendPieces (s : State) (b d kind target : Nat) (m : SluiceMsg) : State :=
  s.sendPayloads (sluiceFlow b d target) (slcClass kind) m.epoch ((msgPieces kind m).map pieceBytes)

/-- Send a message from die d once its beats are charged (R343). -/
def State.sendMsg (s : State) (b d kind target : Nat) (m : SluiceMsg) : State :=
  s.addJob d b (pieces64 m.data.length) 1 (.send kind target m)

/-- Send a norm partial or total from die 0: it never waits for credits, and its bytes count in the shaping bucket of its basin
(R343, R421). Log entry 104. -/
def State.sendNorm (s : State) (b kind target : Nat) (step : W32) (q : W64) : State :=
  let own := slcMember s.sheets b
  let m := { s.message b 0 step 0 0 (leBytes 8 q.toNat) with slice := BitVec.ofNat 16 own }
  let k := s.sluice 0
  let sent := nget (fun _ => 0) k.normSent b + 32 + m.data.length
  if 256 < sent ∨ k.normWait.any (fun x => x.basin == b) then
    s.setSluice 0 { k with normWait := k.normWait ++ [⟨b, kind, target, m⟩] }
  else (s.setSluice 0 { k with normSent := nset (fun _ => 0) k.normSent b sent }).sendPieces b 0 kind target m

/-- A new lock cycle fills the shaping buckets again, and norm messages that waited go first (R421). Log entry 104. -/
def State.refillNorms (s : State) : State :=
  let wait := (s.sluice 0).normWait
  let s := s.setSluice 0 { s.sluice 0 with normSent := [], normWait := [] }
  s.forEach wait (fun s x => s.sendNorm x.basin x.kind x.target x.msg.step (BitVec.ofNat 64 (leValue x.msg.data)))

/-! ### Collation records (R339) -/

def Slice.flags (x : Slice) : Nat :=
  boolBit x.byDeadline + 2 * boolBit x.replay + 4 * boolBit (x.total.isSome && !x.skipped) + 8 * boolBit x.skipped

def State.recordOf (s : State) (x : Slice) (supplement : Bool) : Bytes :=
  let b := x.key.basin.val
  collRecord x.key.bucket x.step (s.basin b).seed (x.total.getD 0) x.key.slice.toNat
    (if supplement then x.flags ||| 1 else x.flags) (slcThinning (s.sheetsOn x.key.die) b) (slcShift (s.sheetsOn x.key.die) b)
    x.admitted.length x.events

/-- Write a recorded slice's late events as a supplementary record when the ring has room. -/
def State.flushEvents (s : State) (x : Slice) : State :=
  if !x.recorded ∨ x.events = [] ∨ (s.sluice x.key.die).records.any (fun e => e.1 == x.key.basin.val) then s.putSlice x
  else match s.appendColl x.key.basin x.key.die (s.recordOf x true) with
    | none => s.putSlice x
    | some (t, _) => t.putSlice { x with events := [] }

/-- A slice leaves the table: late events that no record holds yet wait as one for room in the ring (R339). -/
def State.shelve (s : State) (x : Slice) : State :=
  let d := x.key.die.val
  let t := { s with slices := s.slices.filter (fun y => y.key != x.key) }
  if !x.recorded ∨ x.events = [] then t
  else t.setSluice d { t.sluice d with records := (t.sluice d).records ++ [(x.key.basin.val, s.recordOf x true)] }

/-- The records that wait for a basin are written, in order, while the ring has room for them. -/
def State.writeShelved (s : State) (b d : Nat) : List (Nat × Bytes) → State
  | [] => s
  | r :: rs =>
    match s.appendColl b d r.2 with
    | none => s
    | some (t, _) => (t.setSluice d { t.sluice d with records := (t.sluice d).records.erase r }).writeShelved b d rs

/-- Put Q and the flags into the record of a slice that still stands in the ring. Log entry 36. -/
def State.patchRecord (s : State) (x : Slice) : State :=
  let b := x.key.basin.val
  let d := x.key.die.val
  match x.recAt with
  | none => s
  | some off =>
    let c := s.collRing b d
    if (c.head - c.tail).toNat ≤ (BitVec.ofNat 32 off - c.tail).toNat then s
    else
      let t := s.writeColl b d (off + 0x18) (leBytes 8 (x.total.getD 0).toNat)
      t.writeColl b d (off + 0x22) (leBytes 2 x.flags)

/-! ### Buckets and descriptors -/

/-- Log entry 43. -/
def State.bucketAt (s : State) (b d : Nat) (step : W64) (entry : Nat) : Option Bucket :=
  s.buckets.find? (fun k => k.basin == b && k.die == d && k.step == step && k.entry == entry)

def Bucket.same (x y : Bucket) : Bool := x.basin == y.basin && x.die == y.die && x.step == y.step && x.entry == y.entry

def State.putBucket (s : State) (k : Bucket) : State :=
  { s with buckets := s.buckets.map (fun y => if y.same k then k else y) }

/-- Discard the carry buffers of older steps whose bucket a retiring step does not name (R330). Log entry 41. -/
def State.dropCarries (s : State) (x : StepDesc) (d : Nat) : State :=
  let b := x.basin
  s.forEach ((s.carries b d).filter (fun c => (x.low - c.step).toNat - 1 < 2 ^ 31 && c.step != x.low && (x.indexOf c.bucket).isNone))
    (fun s c => (s.dropCarry b d c).countDrop d)

/-- Retire a descriptor when every bucket of it is complete on all four sluices (R316). -/
def State.tryRetire (s : State) (x : StepDesc) : State :=
  let mine := fun (k : Bucket) => k.basin == x.basin && k.step == x.step
  if s.buckets.any (fun k => mine k && !k.done) then s
  else
    let t := { s with
      steps := s.steps.filter (fun y => !(y.basin == x.basin && y.step == x.step))
      buckets := s.buckets.filter (fun k => !mine k)
      norms := s.norms.filter (fun n => !(n.basin == x.basin) || decide ((n.step - x.low).toNat < 2 ^ 31))
      retired := s.retired.filter (fun (y : StepDesc) => y.basin != x.basin) ++ [x] }
    let t := t.forEach (t.slices.filter (fun (y : Slice) =>
      y.key.basin.val == x.basin && y.st == SliceState.done && y.key.step != x.low && y.key.step + 1 != x.low)) State.shelve
    let t := t.forEach [0, 1, 2, 3] (fun t d => t.dropCarries x d)
    t.complete x.ring (.done x.step.toNat)

/-- Write a bucket's done word and count it (R319, R338). Log entry 43. -/
def State.closeBucket (s : State) (x : StepDesc) (k : Bucket) (status missing : Nat) : State :=
  let t := s.put x.basin ((x.signals.getD k.die 0).toNat + 16 * k.entry + 8)
    (leBytes 4 x.low.toNat ++ leBytes 2 status ++ leBytes 2 (min missing 65535))
  let t := t.setSluice k.die { t.sluice k.die with closed := satCount ((t.sluice k.die).closed + 1) }
  (t.putBucket { k with done := true, status := status }).tryRetire x

/-- The slices of a bucket that this die has still to receive or finish. -/
def State.missing (s : State) (k : Bucket) (e : BucketEntry) : List Nat :=
  (s.dieSlices k.basin k.die e).filter (fun i => !k.written.contains i)

/-- A refetching die has still to install the moments of its own slice (R342). -/
def State.momentsOpen (s : State) (x : StepDesc) (k : Bucket) (e : BucketEntry) : Bool :=
  x.refetch && bitOf x.refetchMask k.die && !k.moments && x.opt != 0 &&
    decide (0 < s.lenOf x.basin e (s.ownSlice x.basin k.die))

/-- A piece of work encodes or sends a bucket's contributions. -/
def SluiceJob.sends (j : SluiceJob) (b : Nat) (step : W64) (entry : Nat) (bucket : W32) : Bool :=
  j.basin == b && (match j.act with
    | .encode st e _ => st == step && e == entry
    | .send kind _ m => decide (kind ≤ 1) && m.bucket == bucket && m.step == step.setWidth 32
    | _ => false)

/-- Complete a bucket on a die when everything of R338 holds. Log entry 43. -/
def State.tryDone (s : State) (b d : Nat) (step : W64) (entry : Nat) : State :=
  match s.steps.find? (fun x => x.basin == b && x.step == step), s.bucketAt b d step entry with
  | some x, some k =>
    match x.table[entry]? with
    | none => s
    | some e =>
      if k.done ∨ !k.sent ∨ (s.sluice d).work.any (fun j => j.sends b step entry e.id) ∨ s.missing k e ≠ [] ∨ s.momentsOpen x k e then s
      else s.closeBucket x k (if k.stale then 1 else k.status) 0
  | _, _ => s

/-! ### Update and norm -/

/-- A slice enters UPDATING; the optimiser's work is charged before it (R343). -/
def State.startUpdate (s : State) (x : Slice) : State :=
  let opt := match s.stepAt x.key.basin x.key.step with | some y => y.opt | none => 0
  let t := if x.skipped then s else s.addJob x.key.die x.key.basin (units32 x.len) (updateCharge opt) (.update x.key)
  t.putSlice { x with st := .updating }

/-- A slice in NORMING learns the total (R333): a total that is not finite skips the update. -/
def State.applyTotal (s : State) (x : Slice) (q : W64) : State :=
  let bad := (v64 q).isNan || (v64 q).isInf
  let x' := { x with total := some q, skipped := x.skipped || bad }
  let t := if bad then s.slcEvent x.place 0x26 0xFFFF false 1 else s
  let differs := x.replay && (match s.stepAt x.key.basin x.key.step with
    | some y => (match s.replayRecord y x.key.bucket x.key.slice.toNat with
      | some r => r.1 != q
      | none => false)
    | none => false)
  let t := if differs then t.slcEvent x.place 0x2C 0xFFFF false 1 else t
  (t.patchRecord x').startUpdate x'

def State.normAt (s : State) (b : Nat) (step : W32) : Option NormTree :=
  s.norms.find? (fun n => n.basin == b && n.step == step)

def State.putNorm (s : State) (n : NormTree) : State :=
  { s with norms := s.norms.map (fun y => if y.basin == n.basin && y.step == n.step then n else y) }

/-- The children of a member in a group of p (R333). -/
def normChildren (p m : Nat) : List Nat := [2 * m + 1, 2 * m + 2].filter (fun c => decide (c < p))

/-- The total of a step is known here: it goes down the tree and to every slice that waits for it. -/
def State.deliverTotal (s : State) (n : NormTree) (q : W64) : State :=
  let t := s.putNorm { n with total := some q }
  let p := slcP s.sheets n.basin
  let m := slcMember s.sheets n.basin
  let t := t.forEach (normChildren p m) (fun t c => t.sendNorm n.basin 4 c n.step q)
  t.forEach (t.slices.filter (fun x => x.key.basin.val == n.basin && x.key.step == n.step && x.st == .norming))
    (fun t x => t.applyTotal x q)

/-- The sum of one die's q values, in ascending table index. -/
def NormTree.dieSum (n : NormTree) (d : Nat) : W64 :=
  (n.sums.filter (fun e => e.1 / 65536 == d)).foldl (fun a e => add64 a e.2) 0

/-- Pass the package partial up once it is whole; member 0 holds the total (R333). -/
def State.normTry (s : State) (b : Nat) (step : W32) : State :=
  match s.normAt b step, s.stepAt b step with
  | some n, some x =>
    let p := slcP s.sheets b
    let m := slcMember s.sheets b
    let due := [0, 1, 2, 3].flatMap (fun d => (x.table.zipIdx.filter (fun e => decide (0 < s.lenOf b e.1 (s.ownSlice b d)))).map
      (fun e => 65536 * d + e.2))
    if n.sent ∨ !(due.all (fun i => n.sums.any (fun e => e.1 == i))) ∨
        !((normChildren p m).all (fun c => n.children.any (fun e => e.1 == c))) then s
    else
      let own := add64 (add64 (add64 (n.dieSum 0) (n.dieSum 1)) (n.dieSum 2)) (n.dieSum 3)
      let sum := (normChildren p m).foldl (fun a c => add64 a (nget (fun _ => 0) n.children c)) own
      let n := { n with sent := true }
      if m = 0 then (s.putNorm n).deliverTotal n sum
      else (s.putNorm n).sendNorm b 3 ((m - 1) / 2) step sum
  | _, _ => s

/-- A slice has its record: it goes on to NORMING or UPDATING (R326). -/
def State.leaveClosed (s : State) (x : Slice) : State :=
  let b := x.key.basin.val
  match s.stepAt b x.key.step with
  | none => s.putSlice x
  | some y =>
    if !y.normGate then s.startUpdate x
    else
      let q := sliceNorm y.gscale x.acc
      let t := s.putSlice { x with st := .norming, q := q }
      match t.normAt b x.key.step, y.indexOf x.key.bucket with
      | some n, some i =>
        match n.total with
        | some total => t.applyTotal { x with st := .norming, q := q } total
        | none => (t.putNorm { n with sums := ninsert n.sums (65536 * x.key.die.val + i) q }).normTry b x.key.step
      | _, _ => t

/-- A closed slice writes its record when the ring has room, and moves on; a work area that cannot be reached is an error. -/
def State.tryRecord (s : State) (x : Slice) : State :=
  let b := x.key.basin.val
  let d := x.key.die.val
  if x.st ≠ .closed ∨ x.recorded then s.putSlice x
  else if !s.workOk (s.collBase b d) then (s.putSlice x).workLost b d
  else match s.appendColl b d (s.recordOf x false) with
    | none => s.putSlice x
    | some (t, off) => t.leaveClosed { x with recorded := true, recAt := some off, events := [] }

/-! ### Reception (R327-R331) -/

/-- What the owner makes of a form: undecodable, quarantined with a kind of R339, or elements to add. A marker holds no
element, so where nothing is quarantined it is undecodable. Log entry 36. -/
inductive Verdict where
  | bad
  | quarantine (kind : Nat)
  | good (xs : List W32)

def State.judge (s : State) (x : Slice) (y : Staged) : Verdict :=
  let propagate := slcPropagate (s.sheetsOn x.key.die) x.key.basin
  if y.marker then (if propagate then .bad else .quarantine 5)
  else match decodeForm y.encoding x.len y.form with
    | none => .bad
    | some xs => if !propagate && xs.any nanF then .quarantine 4 else .good xs

/-- A frame that is stale, a duplicate or undecodable is dropped and counted (R328). -/
def State.dropItem (s : State) (x : Slice) (y : Staged) (noted : Bool) : State :=
  let t := (s.countDrop x.key.die).slcEvent x.place 0x24 y.member y.slow 1
  t.flushEvents (if noted then x.note 6 y.member y.slow else x)

/-- Quarantine a contribution whole (R331). -/
def State.quarantineItem (s : State) (x : Slice) (y : Staged) (kind : Nat) : State :=
  let d := x.key.die.val
  let t := s.setSluice d { s.sluice d with quarantined := satCount ((s.sluice d).quarantined + 1) }
  (t.slcEvent x.place 0x21 y.member y.slow 1).flushEvents (x.note kind y.member y.slow)

/-- Carry or drop a late contribution (R330): its buffer is had at once, its elements are added when their charge is paid. -/
def State.lateAs (s : State) (x : Slice) (y : Staged) (drop : Bool) : State :=
  let b := x.key.basin.val
  let d := x.key.die.val
  let t := s.setSluice d { s.sluice d with late := satCount ((s.sluice d).late + 1) }
  if drop then (t.slcEvent x.place 0x23 y.member y.slow 1).flushEvents (x.mark 3 y.member y.slow)
  else if !t.workOk (t.workBase b d) then (t.flushEvents (x.mark 3 y.member y.slow)).workLost b d
  else match t.openCarry b d x.key.bucket x.key.step x.len with
    | none => (t.slcEvent x.place 0x2A y.member y.slow 1).flushEvents (x.mark 3 y.member y.slow)
    | some t =>
      let t := t.addCarryJob d b (units32 x.len) (.carry x.key.bucket x.key.step x.len y.encoding y.form)
      (t.slcEvent x.place 0x22 y.member y.slow 1).flushEvents (x.mark 2 y.member y.slow)

/-- What the late policy makes of a contribution. -/
def State.lateNow (s : State) (x : Slice) (y : Staged) : State :=
  match s.judge x y with
  | .bad => s.dropItem x y false
  | .quarantine kind => s.quarantineItem x y kind
  | .good _ => s.lateAs x y (slcDrop (s.sheetsOn x.key.die) x.key.basin)

/-- A contribution that comes after the gate of its step (R328). Log entry 36. -/
def State.lateItem (s : State) (x : Slice) (y : Staged) : State :=
  if x.seen.contains y.member then s.dropItem x y true else s.lateNow { x with seen := x.seen ++ [y.member] } y

/-- Shut the gate: what waits in staging is late, then the record is written. A replay goes on with what its record lists.
Log entry 36. -/
def State.closeGate (s : State) (x : Slice) : State :=
  let late := if x.replay then [] else x.staging
  let x := { x with st := .closed, staging := if x.replay then x.staging else [], skipped := x.skipped || x.admitted == [] }
  let t := if x.byDeadline then s.slcEvent x.place 0x20 0xFFFF false x.admitted.length else s
  let t := if x.admitted = [] then t.slcEvent x.place 0x29 0xFFFF false 1 else t
  let t := (t.putSlice x).forEach late (fun t y => match t.sliceAt x.key with
    | some x => t.lateNow x y
    | none => t)
  match t.sliceAt x.key with
  | some x => t.tryRecord x
  | none => t

/-- Begin the admission of a form; its work is charged before it. -/
def State.beginAdmit (s : State) (x : Slice) (y : Staged) : State :=
  (s.addJob x.key.die x.key.basin (units32 x.len) 3 (.admission x.key)).putSlice { x with admitting := some y }

/-- Begin the admission of the carry buffer, which leaves the directory (R330). -/
def State.admitCarry (s : State) (x : Slice) (c : Carry) : State :=
  let b := x.key.basin.val
  let d := x.key.die.val
  (s.dropCarry b d c).beginAdmit x ⟨0xFFFF, false, false, 0, s.carryBytes b d c⟩

/-! ### Replay (R340) -/

/-- A replay that does not match its record: the slice skips its update with status failed (R340). Log entry 42. -/
def State.replayMismatch (s : State) (x : Slice) (member : Nat) (slow : Bool) : State :=
  let t := s.slcEvent x.place 0x2C member slow 1
  let x := { x with skipped := true, failed := true }
  if x.st = .gathering then t.closeGate { x with admitting := none } else t.putSlice x

/-- Do what the record of a replayed slice lists, in its order, as far as the receptions have come: add, carry or drop,
quarantine; the gate closes when no listed admission is left (R340). Log entry 42. -/
def State.replayFuel : Nat → State → Slice → State
  | 0, s, x => s.putSlice x
  | n + 1, s, x =>
    let onward := fun (t : State) => match t.sliceAt x.key with
      | some x => State.replayFuel n t x
      | none => t
    let listed := x.plan.filter (fun e => eventKind e != 6)
    if x.admitting.isSome ∨ x.st = .empty then s.putSlice x
    else if x.st = .gathering ∧ listed.all (fun e => decide (1 < eventKind e)) then onward (s.closeGate x)
    else match listed with
      | [] => s.putSlice x
      | e :: _ =>
        if eventKind e = 1 then
          match s.carryOf x.key.basin x.key.die x.key.bucket with
          | some c => s.admitCarry x c
          | none => s.putSlice x
        else match x.staging.find? (fun y => y.member == eventMember e) with
          | none => s.putSlice x
          | some y =>
            let x := { x with staging := x.staging.erase y }
            let rest := { x with plan := x.plan.erase e }
            match eventKind e with
            | 0 => if y.marker then s.replayMismatch x y.member y.slow else s.beginAdmit x y
            | 4 => onward (s.quarantineItem rest y 4)
            | 5 => onward (s.quarantineItem rest y 5)
            | k =>
              if (decodeForm y.encoding x.len y.form).isNone then onward (s.dropItem rest y false)
              else onward (s.lateAs rest y (k == 3))

/-- A reception of a replayed step is held in staging until its place in the record comes; one that the record lists as stale or
duplicate is dropped, one that it does not list is a mismatch (R340). Log entry 42. -/
def State.acceptReplay (s : State) (x : Slice) (y : Staged) : State :=
  let listed := fun (p : Nat → Bool) => x.plan.find? (fun e => p (eventKind e) && eventMember e == y.member)
  let placed := x.staging.any (fun z => z.member == y.member) || x.admitting.any (fun z => z.member == y.member)
  match (if placed then none else listed (fun k => k != 1 && k != 6)), listed (· == 6) with
  | some _, _ => State.replayFuel (x.plan.length + 2) s { x with staging := x.staging ++ [y] }
  | none, some e => s.dropItem { x with plan := x.plan.erase e } y true
  | none, none => s.replayMismatch x y.member y.slow

/-! ### The gate -/

/-- Begin the next admission: the first in staging, or in a replay what the record lists next (R329, R340). -/
def State.nextAdmit (s : State) (x : Slice) : State :=
  if x.replay then State.replayFuel (x.plan.length + 2) s x
  else if x.st ≠ .gathering ∨ x.admitting.isSome then s.putSlice x
  else match x.staging with
    | [] => s.putSlice x
    | y :: ys => s.beginAdmit { x with staging := ys } y

/-- A reception for a slice at its own step; the event of one that will be admitted is noted now, in reception order (R339). -/
def State.acceptItem (s : State) (x : Slice) (y : Staged) : State :=
  if x.replay then s.acceptReplay x y
  else if x.st ≠ .gathering ∨ x.byDeadline then s.lateItem x y
  else if x.seen.contains y.member then s.dropItem x y true
  else
    let met := { x with seen := x.seen ++ [y.member] }
    match s.judge x y with
    | .bad => s.dropItem x y false
    | .quarantine kind => s.quarantineItem met y kind
    | .good _ => s.nextAdmit ({ met with staging := x.staging ++ [y] }.note 0 y.member y.slow)

/-- Open a slice of a step (R326): it holds nothing yet, its carry is admitted first, then what waited for it in staging. The
slice of the step before stays for what comes late; older ones leave the table. -/
def State.openSlice (s : State) (y : StepDesc) (e : BucketEntry) (held : Slice) : State :=
  let k := held.key
  let b := k.basin.val
  let len := s.lenOf b e k.slice.toNat
  let plan := if y.replay then (match s.replayRecord y k.bucket k.slice.toNat with | some r => r.2 | none => []) else []
  let x : Slice := { held with
    st := .gathering, step := y.step, len := len, replay := y.replay, acc := List.replicate len 0, staging := [], plan := plan }
  let s := s.forEach (s.slices.filter (fun (z : Slice) => z.key.basin == k.basin && z.key.die == k.die &&
    z.key.bucket == k.bucket && z.st == SliceState.done && z.key.step + 1 != k.step)) State.shelve
  let t := if y.replay then s.nextAdmit x
    else match s.carryOf b k.die k.bucket with
      | some c => s.admitCarry (x.note 1 0xFFFF false) c
      | none => s.putSlice x
  t.forEach held.staging (fun t i => match t.sliceAt k with
    | some x => t.acceptItem x i
    | none => t)

/-- A step whose descriptor may still come: the one after the newest active; with none active, the basin's own step number
(R320). Log entry 37. -/
def State.upcoming (s : State) (b : Nat) (step : W32) : Bool :=
  match (s.stepsOf b).getLast? with
  | some y => step == y.low + 1
  | none => step == (s.basin b).step.setWidth 32 && !s.retired.any (fun x => x.basin == b && x.low == step)

/-- Where a reception falls (R328). -/
inductive Placement where
  | into (x : Slice)
  | late (x : Slice)
  | opens (y : StepDesc)
  | holds
  | stale
  | unknown

/-- The slice of a step that is over: its own, or where it never had one, one that only notes what comes late. -/
def State.pastSlice (s : State) (k : SliceKey) : Slice :=
  (s.sliceAt k).getD
    { Slice.fresh k with
      st := .done, step := s.fullStep k.basin k.step, recorded := true
      len := match s.entryFor k.basin k.bucket k.step with | some e => s.lenOf k.basin e k.slice.toNat | none => 0 }

/-- Log entry 37. -/
def State.placement (s : State) (k : SliceKey) : Placement :=
  let act := s.stepsOf k.basin
  let named := act.filter (fun y => (y.indexOf k.bucket).isSome)
  match s.current k.basin k.die k.bucket with
  | some x =>
    let next := named.find? (fun y => y.low != x.key.step)
    if k.step = x.key.step then .into x
    else if k.step = x.key.step - 1 then .late (s.pastSlice k)
    else match next with
      | some y => if y.low = k.step then (if x.st = .done then .opens y else .holds)
                  else if k.step = x.key.step + 1 then .holds else .stale
      | none => if k.step = x.key.step + 1 then .holds else .stale
  | none =>
    match named with
    | y :: _ =>
      if k.step = y.low then .opens y
      else if k.step = y.low + 1 then .holds
      else if k.step = y.low - 1 then .late (s.pastSlice k)
      else .stale
    | [] => if s.upcoming k.basin k.step then .holds else .unknown

/-- Receive a contribution or marker at its owner. None when a turn holds the opening it would make. Log entry 37. -/
def State.receive (s : State) (k : SliceKey) (y : Staged) : Option State :=
  let b := k.basin.val
  let d := k.die.val
  let gone := (s.countDrop d).slcEvent ⟨b, d, k.bucket, s.fullStep b k.step, k.slice.toNat⟩ 0x24 y.member y.slow 1
  match s.placement k with
  | .into x => some (s.acceptItem x y)
  | .late x => some (s.lateItem x y)
  | .opens desc =>
    if s.slcHeld b d then none
    else match desc.entryOf k.bucket with
      | none => some gone
      | some e =>
        let held := (s.sliceAt k).getD (.fresh k)
        some (s.openSlice desc e { held with staging := held.staging ++ [y] })
  | .holds =>
    let x := (s.sliceAt k).getD (.fresh k)
    if x.staging.any (fun z => z.member == y.member) then some (s.dropItem x y true)
    else if s.slcHeld b d && x.staging.isEmpty then none
    else some (s.putSlice { x with staging := x.staging ++ [y] })
  | .stale =>
    some (match s.current k.basin k.die k.bucket with
      | some x => s.dropItem x y true
      | none => gone)
  | .unknown => some gone

/-- Open the slices whose receptions waited for their step. Log entry 37. -/
def State.drainHeld (s : State) (b : Nat) : State :=
  s.forEach (s.slices.filter (fun x => x.key.basin.val == b && x.st == .empty && !x.staging.isEmpty)) (fun s x =>
    match s.placement x.key with
    | .opens y => (match y.entryOf x.key.bucket with
      | some e => s.openSlice y e x
      | none => s)
    | _ => s)

/-- The slices of a replayed step whose records list no contribution to be added open with the step: no reception opens them
(R340). -/
def State.openReplays (s : State) (y : StepDesc) : State :=
  let b := y.basin
  if !y.replay then s
  else s.forEach y.table (fun s e => s.forEach [0, 1, 2, 3] (fun s d =>
    let i := s.ownSlice b d
    let key : SliceKey := ⟨Fin.ofNat 8 b, Fin.ofNat 4 d, e.id, y.low, BitVec.ofNat 16 i⟩
    match s.replayRecord y e.id i with
    | some r =>
      if 0 < s.lenOf b e i ∧ r.2.all (fun v => eventKind v != 0) ∧ (s.sliceAt key).isNone then s.openSlice y e (.fresh key) else s
    | none => s))

/-- A slice is DONE (R326): its bucket counts it as written, and what waited for the next step opens. Log entry 36. -/
def State.finishSlice (s : State) (x : Slice) : State :=
  let b := x.key.basin.val
  let d := x.key.die.val
  let t := s.putSlice { x with st := .done }
  match t.stepAt b x.key.step with
  | none => t.drainHeld b
  | some y =>
    match y.indexOf x.key.bucket with
    | none => t.drainHeld b
    | some i =>
      let t := match t.bucketAt b d y.step i with
        | some k => t.putBucket { k with written := k.written ++ [x.key.slice.toNat],
                                         status := if x.failed then 3 else if x.skipped then 2 else 0 }
        | none => t
      (t.drainHeld b).tryDone b d y.step i

/-- A piece of work sends the parameters or moments of a slice. -/
def SluiceJob.broadcasts (j : SluiceJob) (k : SliceKey) : Bool :=
  j.basin == k.basin.val && (match j.act with
    | .send kind _ m => (kind == 2 || kind == 5) && m.bucket == k.bucket && m.step == k.step && m.slice == k.slice
    | _ => false)

/-- A slice in BROADCASTING is DONE when all is sent and the buddy, where there is one, has acknowledged (R326, R341). -/
def State.tryFinish (s : State) (x : Slice) : State :=
  if x.st ≠ .broadcasting ∨ !x.mirrored ∨ (s.sluice x.key.die).work.any (fun j => j.broadcasts x.key) then s.putSlice x
  else s.finishSlice x

/-! ### Discarding a basin's sluice state (R345) -/

/-- A sluice without the work, the staging and the waiting records of a basin. -/
def Sluice.without (k : Sluice) (b : Nat) : Sluice :=
  { k with work := k.work.filter (fun j => j.basin != b), parked := k.parked.filter (fun x => x.basin != b)
           records := k.records.filter (fun r => r.1 != b), normWait := k.normWait.filter (fun x => x.basin != b) }

/-- Discard the open buckets, staging and norm state of a basin in every sluice; its active descriptors complete as failed. -/
def State.discardBasin (s : State) (b code : Nat) : State :=
  let t := s.forEach (s.stepsOf b) (fun t x => t.complete x.ring ⟨3, code, 0, 0, 0⟩)
  let t := t.forEach [0, 1, 2, 3] (fun t d => t.setSluice d ((t.sluice d).without b))
  { t with steps := t.steps.filter (fun x => x.basin != b), pieces := t.pieces.filter (fun x => x.basin != b),
           buckets := t.buckets.filter (fun k => k.basin != b),
           slices := t.slices.filter (fun x => x.key.basin.val != b), norms := t.norms.filter (fun n => n.basin != b) }

/-- Some bucket lies between its opening and its completed broadcast on a die (R73, R345): a sender that has sent, or a
slice that has opened. -/
def State.sluiceBusy (s : State) (d : Nat) : Bool :=
  s.buckets.any (fun k => k.die == d && k.sent && !k.done) ||
  s.slices.any (fun x => x.key.die.val == d && x.st != .empty && x.st != .done)

end Sys2Proof.Machine
end

