-- ==== Sys2Proof/Machine/Sluice.lean ====
section
/-!
DEFINITION. The sluice's commands (11_sluice): the step descriptor, sending, reception, the gate, the norm, the update and
its broadcast, buddy shards and refetch.
-/
namespace Sys2Proof.Machine

/-! ### Messages -/

/-- The epoch check of R367 for a message of another member: none when it is stale, which is counted. -/
def State.slcEpoch (s : State) (b d : Nat) (m : SluiceMsg) : Bool × State :=
  let key := sluiceFlow b d m.member.toNat
  let f := s.flow key
  let delta := (m.epoch - f.epoch).toNat
  if !f.known ∨ delta = 0 ∨ delta ≤ 127 then (true, s.setFlow key { f with known := true, epoch := m.epoch })
  else (false, s.setFlow key { f with stale := satCount (f.stale + 1) })

/-- A basin's sluice works on a die: the basin is open and has sluice use, and the sluice is there. -/
def State.slcReady (s : State) (b d : Nat) : Bool :=
  (s.basin b).st == .open && slcEnabled (s.sheetsOn d) b && s.sluicePresent d

/-- A message is dropped as stale, a duplicate or undecodable: counted, with its event (R344). -/
def State.dropMsg (s : State) (b d : Nat) (m : SluiceMsg) : State :=
  (s.countDrop d).slcEvent ⟨b, d, m.bucket, s.fullStep b m.step, m.slice.toNat⟩ 0x24 m.member.toNat m.slow 1

/-- A message whose CRC fails: counted in SLC_CORRUPT, with its event (R327). -/
def State.corruptMsg (s : State) (b d : Nat) (m : SluiceMsg) : State :=
  (s.setSluice d { s.sluice d with corrupt := satCount ((s.sluice d).corrupt + 1) }).slcEvent
    ⟨b, d, m.bucket, s.fullStep b m.step, m.slice.toNat⟩ 0x24 m.member.toNat m.slow 1

/-- The parameters of a slice pass the check units in a mode on a die (R337, R482). -/
def State.checkParams (s : State) (mode b d : Nat) (slice : Nat) (m : SluiceMsg) : State :=
  s.forEach ((List.range 16).map (fun i => 16 * d + i)) (fun s u =>
    if chkMode (s.sheetsOn d) u = mode ∧ chkBasin (s.sheetsOn d) u = b then
      s.compareFrame u ⟨slice, none, m.bucket, (crc32c m.data).setWidth 64, m.crc.setWidth 64⟩
    else s)

def memberBuddy (t : Sheets) (b : Nat) : Nat := (slcMember t b + slcOffset t b) % slcP t b
def memberWard (t : Sheets) (b : Nat) : Nat := (slcMember t b + slcP t b - slcOffset t b) % slcP t b

/-! ### What a sluice does with what arrives: none where it cannot be placed yet -/

/-- A contribution or marker of another member (R327). -/
def State.takeContribution (s : State) (b d : Nat) (m : SluiceMsg) (marker : Bool) : Option State :=
  let empty := match s.entryFor b m.bucket m.step with | some e => s.lenOf b e m.slice.toNat == 0 | none => false
  if m.slice.toNat ≠ s.ownSlice b d ∨ slcP (s.sheetsOn d) b ≤ m.member.toNat ∨ empty = true then some (s.dropMsg b d m)
  else s.receive ⟨Fin.ofNat 8 b, Fin.ofNat 4 d, m.bucket, m.step, m.slice⟩
    ⟨m.member.toNat, m.slow, marker, m.encoding.toNat, m.data⟩

/-- A slice's parameters from its owner are written to this package's own area (R337). -/
def State.takeParams (s : State) (b d : Nat) (m : SluiceMsg) : Option State :=
  let i := m.slice.toNat
  match s.stepAt b m.step with
  | none => if s.upcoming b m.step then none else some (s.dropMsg b d m)
  | some y =>
    match y.indexOf m.bucket, y.entryOf m.bucket with
    | some n, some e =>
      match s.bucketAt b d y.step n with
      | none => some (s.dropMsg b d m)
      | some k =>
        if i / 4 ≠ m.member.toNat ∨ i % 4 ≠ d ∨ i = s.ownSlice b d ∨ k.done ∨ k.written.contains i ∨ y.refetch ∨
            m.data.length ≠ 2 * s.lenOf b e i ∨ m.data = [] ∨ slcP (s.sheetsOn d) b ≤ i / 4 then some (s.dropMsg b d m)
        else
          let t := (s.put b (e.params.toNat + 2 * s.loOf b e i) m.data).checkParams 7 b d i m
          some ((t.putBucket { k with written := k.written ++ [i] }).tryDone b d y.step n)
    | _, _ => some (s.dropMsg b d m)

/-- A child's partial joins the sum of its step, which may not be active here yet (R333). -/
def State.takePartial (s : State) (b : Nat) (m : SluiceMsg) (q : W64) : Option State :=
  let c := m.member.toNat
  match s.normAt b m.step with
  | none => if s.upcoming b m.step then none else some (s.dropMsg b 0 m)
  | some n =>
    if n.sent ∨ !(normChildren (slcP s.sheets b) (slcMember s.sheets b)).contains c ∨ n.children.any (fun e => e.1 == c) then
      some (s.dropMsg b 0 m)
    else some ((s.putNorm { n with children := ninsert n.children c q }).normTry b m.step)

/-- The total comes from the parent, and goes down the tree (R333). -/
def State.takeTotal (s : State) (b : Nat) (m : SluiceMsg) (q : W64) : State :=
  match s.normAt b m.step with
  | none => s.dropMsg b 0 m
  | some n => if n.total.isSome ∨ slcMember s.sheets b = 0 then s.dropMsg b 0 m else s.deliverTotal n q

/-- Record that a ward's moments of a bucket now stand here with a step. -/
def State.keepWard (s : State) (b d : Nat) (e : BucketEntry) (step : W32) : State :=
  { s with wards := s.wards.filter (fun w => !(w.basin == b && w.die == d && w.entry.id == e.id)) ++ [⟨b, d, e, step⟩] }

/-- The buddy writes its ward's moments, keeps their step and acknowledges: its acknowledgement never waits (R341, R343). -/
def State.takeMirror (s : State) (b d : Nat) (m : SluiceMsg) : Option State :=
  let ward := memberWard (s.sheetsOn d) b
  match s.entryFor b m.bucket m.step with
  | none => if s.upcoming b m.step then none else some (s.dropMsg b d m)
  | some e =>
    let l := s.lenOf b e m.slice.toNat
    if !slcBuddy (s.sheetsOn d) b ∨ m.member.toNat ≠ ward ∨ m.slice.toNat ≠ 4 * ward + d ∨ m.data.length ≠ 4 * l then
      some (s.dropMsg b d m)
    else
      let t := (s.writeMoments b d l e.ward e m.data).keepWard b d e m.step
      some (t.sendPieces b d 5 ward (t.message b m.bucket m.step m.slice.toNat 1 []))

/-- The buddy's acknowledgement of a slice's moments (R341). -/
def State.takeAck (s : State) (k : SliceKey) : State :=
  match s.sliceAt k with
  | none => s
  | some x => if x.st ≠ .broadcasting then s else s.tryFinish { x with mirrored := true }

/-- A ward's request: the buddy answers with the slice's parameters from its own area, or with the copy of the ward's moments
and the step kept with it (R342). Log entry 40. -/
def State.takeRequest (s : State) (b d : Nat) (m : SluiceMsg) : State :=
  let ward := memberWard (s.sheetsOn d) b
  let i := m.slice.toNat
  match s.entryFor b m.bucket m.step with
  | none => s.dropMsg b d m
  | some e =>
    let l := s.lenOf b e i
    if !slcBuddy (s.sheetsOn d) b ∨ m.member.toNat ≠ ward ∨ i % 4 ≠ d ∨ l = 0 then s.dropMsg b d m
    else if m.data = [1] then
      match s.wards.find? (fun w => w.basin == b && w.die == d && w.entry.id == m.bucket) with
      | none => s.dropMsg b d m
      | some w =>
        let r := s.readMoments b d l w.entry.ward w.entry
        r.2.sendMsg b d 7 ward (s.message b m.bucket w.step i 1 (1 :: r.1))
    else
      let r := s.openRead b (e.params.toNat + 2 * s.loOf b e i) (2 * l)
      r.2.sendMsg b d 7 ward (s.message b m.bucket m.step i 1 (0 :: r.1))

/-- Refetched parameters or moments are installed; moments of an older step too, with event 0x2B and the status incomplete
(R342). Log entry 40. -/
def State.takeRefetched (s : State) (b d : Nat) (m : SluiceMsg) : State :=
  let i := m.slice.toNat
  match (s.stepsOf b).find? (fun y => y.refetch) with
  | none => s.dropMsg b d m
  | some y =>
    match y.indexOf m.bucket, y.entryOf m.bucket, m.data with
    | some n, some e, kind :: data =>
      match s.bucketAt b d y.step n with
      | none => s.dropMsg b d m
      | some k =>
        let l := s.lenOf b e i
        if k.done ∨ m.member.toNat ≠ memberBuddy (s.sheetsOn d) b ∨ i % 4 ≠ d ∨ l = 0 then s.dropMsg b d m
        else if kind = 0 ∧ data.length = 2 * l ∧ !k.written.contains i then
          let t := s.put b (e.params.toNat + 2 * s.loOf b e i) data
          (t.putBucket { k with written := k.written ++ [i] }).tryDone b d y.step n
        else if kind = 1 ∧ data.length = 4 * l ∧ s.momentsOpen y k e ∧ i = s.ownSlice b d then
          let t := s.writeMoments b d l e.moments e data
          let old := m.step != y.low && decide ((y.low - m.step).toNat < 2 ^ 31)
          let t := if old then t.slcEvent ⟨b, d, m.bucket, y.step, i⟩ 0x2B m.member.toNat m.slow 1 else t
          (t.putBucket { k with moments := true, stale := k.stale || old }).tryDone b d y.step n
        else s.dropMsg b d m
    | _, _, _ => s.dropMsg b d m

/-- What a sluice does with a message of a kind of R325. -/
def State.takeMsg (s : State) (kind b d : Nat) (m : SluiceMsg) : Option State :=
  match kind with
  | 0 => s.takeContribution b d m false
  | 1 => s.takeContribution b d m true
  | 2 => s.takeParams b d m
  | 3 => s.takePartial b m (w64At m.data 0)
  | 4 => some (s.takeTotal b m (w64At m.data 0))
  | 5 => if m.data = [] then some (s.takeAck ⟨Fin.ofNat 8 b, Fin.ofNat 4 d, m.bucket, m.step, m.slice⟩) else s.takeMirror b d m
  | 6 => some (s.takeRequest b d m)
  | 7 => some (s.takeRefetched b d m)
  | _ => some (s.dropMsg b d m)

/-- Take a message, or keep it in staging until it can be placed. Log entry 37. -/
def State.takeOrPark (s : State) (kind b d : Nat) (m : SluiceMsg) : State :=
  match s.takeMsg kind b d m with
  | some t => t
  | none => s.setSluice d { s.sluice d with parked := (s.sluice d).parked ++ [⟨b, kind, 0, m⟩] }

/-- A message has arrived whole. Where the basin takes no sluice traffic it is dropped and counted (R345); a stale epoch, an
encoding that is not listed and a CRC that fails drop it too. Norm messages and acknowledgements are taken at once, any other
when its beats are charged (R343). -/
def State.arrives (s : State) (kind b d : Nat) (m : SluiceMsg) : State :=
  if !s.slcReady b d ∨ (s.basin b).slcQuiet then s.countDrop d
  else match s.slcEpoch b d m with
    | (false, t) => t
    | (true, t) =>
      if 4 ≤ m.encoding.toNat then t.dropMsg b d m
      else if kind ≠ 1 ∧ crc32c m.data ≠ m.crc then t.corruptMsg b d m
      else if kind = 3 ∨ kind = 4 ∨ (kind = 5 ∧ m.data = []) then t.takeOrPark kind b d m
      else t.addJob d b (pieces64 m.data.length) 1 (.take kind m)

/-! ### A sluice's work (R321-R324, R343) -/

/-- The sluice of die d encodes one slice and sends it to its owner; its own slice it delivers to itself. -/
def State.sendSlice (s : State) (x : StepDesc) (e : BucketEntry) (b d i : Nat) : State :=
  let t := s.sheetsOn d
  let mode := slcThinning t b
  let fmt := e.fmt.toNat
  let size := if fmt = 0 then 4 else 2
  let len := s.lenOf b e i
  let lo := s.loOf b e i
  let g := s.openRead b (e.grad.toNat + size * lo) (size * len)
  let r := if mode = 0 then ([], g.2) else g.2.openRead b (e.memory.toNat + 4 * lo) (4 * len)
  let enc := encodeSlice mode (slcShift t b) fmt (!slcPropagate t b) g.1 (elems 0 r.1)
  let s := if mode = 0 then r.2 else r.2.put b (e.memory.toNat + 4 * lo) (f32Bytes enc.memory)
  let form := enc.form.getD (encodingOf mode fmt, [])
  let m := s.message b e.id x.low i form.1 form.2
  let kind := if enc.form.isNone then 1 else 0
  if i = s.ownSlice b d then s.takeOrPark kind b d m else s.sendMsg b d kind (i / 4) m

/-- Do a piece of work whose charge is paid. -/
def State.perform (s : State) (d : Nat) (j : SluiceJob) : State :=
  let b := j.basin
  match j.act with
  | .admission _ => s
  | .update _ => s
  | .encode step entry i =>
    match s.steps.find? (fun x => x.basin == b && x.step == step) with
    | none => s
    | some x => match x.table[entry]? with
      | none => s
      | some e => (s.sendSlice x e b d i).tryDone b d step entry
  | .send kind target m =>
    let t := s.sendPieces b d kind target m
    if kind ≤ 1 then match t.stepAt b m.step with
      | none => t
      | some x => match x.indexOf m.bucket with
        | none => t
        | some i => t.tryDone b d x.step i
    else match t.sliceAt ⟨Fin.ofNat 8 b, Fin.ofNat 4 d, m.bucket, m.step, m.slice⟩ with
      | none => t
      | some x => t.tryFinish x
  | .take kind m => s.takeOrPark kind b d m
  | .carry bucket step len encoding form => s.addCarry b d bucket step ((decodeForm encoding len form).getD [])

/-- Do a sluice's work in order as far as its balance goes, at most n pieces of it. -/
def State.workFuel (d : Nat) : Nat → State → State
  | 0, s => s
  | n + 1, s =>
    let t := s.paySluice d
    match (t.sluice d).work with
    | [] => t
    | j :: js => if j.left ≠ [] then t else State.workFuel d n ((t.setSluice d { t.sluice d with work := js }).perform d j)

/-- Messages in staging that could not be placed are tried again. -/
def State.retryParked (s : State) (d : Nat) : State :=
  let wait := (s.sluice d).parked
  (s.setSluice d { s.sluice d with parked := [] }).forEach wait (fun s x => s.takeOrPark x.kind x.basin d x.msg)

/-- A bucket opens on a die at its first send, unless a turn holds it: each slice of the die index is to be encoded (R321,
R345). -/
def State.openBucket (s : State) (k : Bucket) : State :=
  let b := k.basin
  let d := k.die
  match s.steps.find? (fun x => x.basin == b && x.step == k.step) with
  | none => s
  | some x => match x.table[k.entry]? with
    | none => s
    | some e =>
      if k.sent ∨ k.done ∨ !k.ready ∨ s.slcHeld b d ∨ !s.slcReady b d then s
      else
        let t := s.putBucket { k with sent := true }
        let t := t.forEach (t.dieSlices b d e) (fun t i =>
          t.addJob d b (units32 (t.lenOf b e i)) (encodeCharge (slcThinning (t.sheetsOn d) b)) (.encode k.step k.entry i))
        t.tryDone b d k.step k.entry

/-- A sluice goes on: what waits is tried again, buckets open, and its work is done as far as its balance goes. -/
def State.settleSluice (s : State) (d : Nat) : State :=
  if !s.sluicePresent d then s
  else
    let s := if (s.sluice d).parked = [] then s else s.retryParked d
    let s := s.forEach (s.buckets.filter (fun k => k.die == d && k.ready && !k.sent)) State.openBucket
    s.workFuel d (64 + 8 * (s.sluice d).work.length)

/-! ### SLUICE_STEP (R316, R320, R342) -/

/-- The requests of a refetch: parameters of every slice of each die index, and moments of the own slices of the dies in the
mask, from the buddy. -/
def State.requestAll (s : State) (x : StepDesc) : State :=
  let b := x.basin
  s.forEach (x.table.zipIdx) (fun s e =>
    s.forEach [0, 1, 2, 3] (fun s d =>
      let s := s.forEach (s.dieSlices b d e.1) (fun s i =>
        s.sendMsg b d 6 (memberBuddy (s.sheetsOn d) b) (s.message b e.1.id x.low i 0 [0]))
      let s := if x.opt ≠ 0 ∧ bitOf x.refetchMask d ∧ 0 < s.lenOf b e.1 (s.ownSlice b d) then
          s.sendMsg b d 6 (memberBuddy (s.sheetsOn d) b) (s.message b e.1.id x.low (s.ownSlice b d) 0 [1])
        else s
      s.tryDone b d x.step e.2))

/-- A descriptor that passed its checks becomes active: its buckets, its norm tree, and what waited for it. -/
def State.activateStep (s : State) (desc : StepDesc) : State :=
  let b := desc.basin
  let bs : List Bucket := (List.range desc.table.length).flatMap (fun i => (List.range 4).map (fun d =>
    ⟨b, d, desc.step, i, false, desc.refetch, [], false, false, 0, false⟩))
  let norm := if desc.normGate then [(⟨b, desc.low, [], [], false, none⟩ : NormTree)] else []
  let s := s.setBasin b { s.basin b with slcQuiet := false }
  let s := { s with steps := s.steps ++ [desc], buckets := s.buckets ++ bs, norms := s.norms ++ norm }
  let s := if desc.refetch then s.requestAll desc else ((s.normTry b desc.low).drainHeld b).openReplays desc
  s.forEach [0, 1, 2, 3] State.settleSluice

/-- SLUICE_STEP: the descriptor passes every check of R320 and becomes active, or the step is refused whole. -/
def execSluiceStep (b : BasinId) (r : RingId) (s : State) : Host.Outcome State Fault Refusal :=
  .next (match s.nextOf b r 3 with
    | none => s
    | some (ref, e, t) =>
      match t.basinRead b (entryAddr e) 128 with
      | .error _ => t.complete ref (.refused 5)
      | .ok x =>
        match t.stepRefusal b x ref with
        | (some (code, entry), _) => t.complete ref ⟨1, code, 0, 0, entry⟩
        | (none, desc) => t.activateStep desc)

/-! ### BUCKET_READY (R319, R321) -/

/-- BUCKET_READY: the ready word of entry i names the step, so the sluice of die d encodes and sends the bucket's slices. -/
def execBucketReady (b : BasinId) (d : CDieId) (step : W32) (entry : Nat) (s : State) : Host.Outcome State Fault Refusal :=
  .next (match s.stepAt b step with
    | none => s
    | some x =>
      match s.bucketAt b d x.step entry, s.basinRead b ((x.signals.getD d 0).toNat + 16 * entry) 8 with
      | some k, .ok word =>
        if k.sent ∨ k.done ∨ !s.slcReady b d ∨ w32At word 0 ≠ step then s
        else (s.putBucket { k with ready := true }).settleSluice d
      | _, _ => s)

/-! ### Reception -/

/-- A message of another member arrives and the sluice goes on. -/
def State.receiveMsg (s : State) (kind b d : Nat) (m : SluiceMsg) : State := (s.arrives kind b d m).settleSluice d

/-- CONTRIBUTION_RECEIVED: a contribution whose last piece has arrived is checked, classified and staged; the first opens
the gate (R327, R328). Log entry 35. -/
def execContributionReceived (b : BasinId) (d : CDieId) (m : SluiceMsg) (s : State) : Host.Outcome State Fault Refusal :=
  .next (s.receiveMsg 0 b d m)

/-- QUARANTINE_MARKER: a marker is counted and logged as quarantined (R331). -/
def execQuarantineMarker (b : BasinId) (d : CDieId) (m : SluiceMsg) (s : State) : Host.Outcome State Fault Refusal :=
  .next (s.receiveMsg 1 b d m)

/-! ### The gate (R327, R329, R339) -/

/-- The form in admission is added element by element; the quorum closes the gate, or the next is admitted (R327, R329). -/
def State.admitted (s : State) (x : Slice) (y : Staged) : State :=
  let carry := y.member == 0xFFFF
  let xs : List W32 := (decodeForm y.encoding x.len y.form).getD []
  let plan := match x.plan.find? (fun e => eventKind e == (if carry then 1 else 0) && eventMember e == y.member) with
    | some e => x.plan.erase e
    | none => x.plan
  let acc := (x.acc.zip xs).map (fun p => addF p.1 p.2)
  let x := { x with admitting := none, acc := acc,
                    admitted := x.admitted ++ [y.member], carryIn := x.carryIn || carry, plan := plan }
  let x := if x.replay then x.note (if carry then 1 else 0) y.member y.slow else x
  let full := !x.replay && decide (slcQuorum (s.sheetsOn x.key.die) x.key.basin + boolBit x.carryIn ≤ x.admitted.length)
  if full || x.byDeadline then s.closeGate x else s.nextAdmit x

/-- ADMISSION_COMPLETE: the form in admission is added, and a deadline that passed meanwhile closes the gate. Its charge is paid
before. -/
def execAdmissionComplete (k : SliceKey) (s : State) : Host.Outcome State Fault Refusal :=
  .next (match s.sliceAt k with
    | none => s
    | some x =>
      match x.admitting with
      | none => s
      | some y =>
        if x.st ≠ .gathering ∨ !s.sluicePresent k.die ∨ s.hasWork k.die (.admission k) then s
        else (s.admitted x y).settleSluice k.die)

/-- GATE_DEADLINE: the deadline has passed since the first reception, so the gate closes with the contributions admitted so
far; one in admission is admitted to its end. A replay has no deadline. Log entry 36. -/
def execGateDeadline (k : SliceKey) (s : State) : Host.Outcome State Fault Refusal :=
  .next (match s.sliceAt k with
    | none => s
    | some x =>
      if x.st ≠ .gathering ∨ x.replay ∨ x.byDeadline then s
      else if x.admitting.isSome then s.putSlice { x with byDeadline := true }
      else (s.closeGate { x with byDeadline := true }).settleSluice k.die)

/-- COLLATION_ROOM: room appears in the collation ring: records that wait are written, slices held in CLOSED write theirs and
move on, and late events their supplements. -/
def execCollationRoom (b : BasinId) (d : CDieId) (s : State) : Host.Outcome State Fault Refusal :=
  .next (if !s.slcReady b d then s
    else
      let t := s.writeShelved b d ((s.sluice d).records.filter (fun r => r.1 == b.val))
      (t.forEach (t.slices.filter (fun x => x.key.basin == b && x.key.die == d)) (fun s x =>
        if x.recorded then s.flushEvents x else s.tryRecord x)).settleSluice d)

/-! ### The norm (R333) -/

/-- A norm message of a member as the command gives it. -/
def State.normMsg (s : State) (b : Nat) (step : W32) (member : W16) (q : W64) : SluiceMsg :=
  { s.message b 0 step 0 0 (leBytes 8 q.toNat) with
    member := member, slice := member, epoch := (s.flow (sluiceFlow b 0 member.toNat)).epoch }

/-- NORM_PARTIAL: a child's partial joins the sum of its step. -/
def execNormPartial (b : BasinId) (step : W32) (member : W16) (q : W64) (s : State) : Host.Outcome State Fault Refusal :=
  .next (s.receiveMsg 3 b 0 (s.normMsg b step member q))

/-- NORM_TOTAL: the total arrives from the parent and is passed down; each waiting slice forms its clip factor. -/
def execNormTotal (b : BasinId) (step : W32) (q : W64) (s : State) : Host.Outcome State Fault Refusal :=
  .next (s.receiveMsg 4 b 0 (s.normMsg b step (BitVec.ofNat 16 ((slcMember s.sheets b - 1) / 2)) q))

/-- NORM_WAIT_EXPIRY: the total has not come within the norm wait, so the slice skips its update. -/
def execNormWaitExpiry (k : SliceKey) (s : State) : Host.Outcome State Fault Refusal :=
  .next (match s.sliceAt k with
    | none => s
    | some x =>
      if x.st ≠ .norming then s
      else
        let x := { x with skipped := true }
        let t := s.slcEvent x.place 0x27 0xFFFF false 1
        ((t.patchRecord x).startUpdate x).settleSluice k.die)

/-! ### The update and its broadcast (R334-R338, R341) -/

/-- The optimiser's work on a slice, written back to the package's own areas. -/
def State.runUpdate (s : State) (y : StepDesc) (e : BucketEntry) (x : Slice) (params : Bytes) : State :=
  let b := x.key.basin.val
  let d := x.key.die.val
  let lo := s.loOf b e x.key.slice.toNat
  let r := if y.opt = 0 then ([], s) else s.readMoments b d x.len e.moments e
  let clip := if y.normGate then x.total.map (clipFactor y.maxNorm) else none
  let u := updateSlice (y.hyper clip) (!slcPropagate (s.sheetsOn d) b) (s.basin b).seed y.step x.key.bucket.toNat d lo x.acc
    (bf16List params) (bf16List (r.1.take (2 * x.len))) (bf16List (r.1.drop (2 * x.len)))
  let t := r.2.put b (e.params.toNat + 2 * lo) (bf16Bytes u.params)
  let t := if y.opt = 0 then t else t.writeMoments b d x.len e.moments e (bf16Bytes u.mom1 ++ bf16Bytes u.mom2)
  if u.kept = 0 then t else t.slcEvent x.place 0x25 0xFFFF false u.kept

/-- A slice leaves UPDATING: its parameters, updated or not, go to every other member, then its moments to the buddy (R337,
R341). -/
def State.broadcast (s : State) (y : StepDesc) (e : BucketEntry) (x : Slice) : State :=
  let k := x.key
  let b := k.basin.val
  let d := k.die.val
  let lo := s.loOf b e k.slice.toNat
  let old := s.openRead b (e.params.toNat + 2 * lo) (2 * x.len)
  let t := if x.skipped then old.2 else old.2.runUpdate y e x old.1
  let new := if x.skipped then (old.1, t) else t.openRead b (e.params.toNat + 2 * lo) (2 * x.len)
  let m := new.2.message b k.bucket k.step k.slice.toNat 1 new.1
  let t := new.2.checkParams 6 b d k.slice.toNat m
  let others := (List.range (slcP (t.sheetsOn d) b)).filter (· != slcMember (t.sheetsOn d) b)
  let t := t.forEach others (fun t i => t.sendMsg b d 2 i m)
  let buddy := slcBuddy (t.sheetsOn d) b && y.opt != 0
  let r := if buddy then t.readMoments b d x.len e.moments e else ([], t)
  let t := if buddy then r.2.sendMsg b d 5 (memberBuddy (t.sheetsOn d) b) (r.2.message b k.bucket k.step k.slice.toNat 1 r.1) else t
  t.tryFinish { x with st := .broadcasting, mirrored := !buddy }

/-- UPDATE_COMPLETE: the optimiser has finished a slice, skipped or not, and its broadcast begins; it is DONE when all is sent
and the buddy, where there is one, has acknowledged. -/
def execUpdateComplete (k : SliceKey) (s : State) : Host.Outcome State Fault Refusal :=
  .next (match s.sliceAt k, s.stepAt k.basin k.step with
    | some x, some y =>
      match y.entryOf k.bucket with
      | none => s
      | some e =>
        if x.st ≠ .updating ∨ !s.sluicePresent k.die ∨ s.hasWork k.die (.update k) then s
        else (s.broadcast y e x).settleSluice k.die
    | _, _ => s)

/-- PARAMETERS_RECEIVED: a slice's parameters arrive from its owner and are written to this package's own area (R337). -/
def execParametersReceived (b : BasinId) (d : CDieId) (m : SluiceMsg) (s : State) : Host.Outcome State Fault Refusal :=
  .next (s.receiveMsg 2 b d m)

/-- MOMENT_MIRROR: the buddy writes its ward's moments, keeps their step and acknowledges (R341). -/
def execMomentMirror (b : BasinId) (d : CDieId) (m : SluiceMsg) (s : State) : Host.Outcome State Fault Refusal :=
  .next (s.receiveMsg 5 b d m)

/-- MIRROR_ACK: the buddy has acknowledged, so the slice is DONE once its broadcast is sent. -/
def execMirrorAck (k : SliceKey) (s : State) : Host.Outcome State Fault Refusal :=
  .next (if !s.slcReady k.basin k.die then s else (s.takeAck k).settleSluice k.die)

/-- BROADCAST_WAIT_EXPIRY: slices of some owner have not come within the broadcast wait after this sluice's own were DONE, so
the bucket completes as incomplete; a replayed slice whose recorded contributions have not come fails (R340). -/
def execBroadcastWaitExpiry (b : BasinId) (d : CDieId) (step : W32) (entry : Nat) (s : State) :
    Host.Outcome State Fault Refusal :=
  .next (match s.stepAt b step with
    | none => s
    | some y =>
      match y.table[entry]?, s.bucketAt b d y.step entry with
      | some e, some k =>
        let own := s.ownSlice b d
        let miss := s.missing k e
        if k.done ∨ !s.slcReady b d then s
        else if y.replay ∧ miss.contains own then
          let key : SliceKey := ⟨b, d, e.id, step, BitVec.ofNat 16 own⟩
          let t := if (s.sliceAt key).isNone then s.openSlice y e (.fresh key) else s
          match t.sliceAt key with
          | some x => if x.st = .gathering then (t.replayMismatch x 0xFFFF false).settleSluice d else t
          | none => t
        else if !k.sent ∨ (miss.contains own ∧ !y.refetch) ∨ (miss = [] ∧ !s.momentsOpen y k e) then s
        else
          let t := s.slcEvent ⟨b, d, e.id, y.step, own⟩ 0x28 0xFFFF false miss.length
          (t.closeBucket y k 1 miss.length).settleSluice d
      | _, _ => s)

/-! ### Refetch (R342) -/

/-- REFETCH_REQUEST: the buddy answers a ward's request. Log entry 40. -/
def execRefetchRequest (b : BasinId) (d : CDieId) (m : SluiceMsg) (s : State) : Host.Outcome State Fault Refusal :=
  .next (s.receiveMsg 6 b d m)

/-- REFETCH_DATA: parameters or moments arrive from the buddy and are installed. Log entry 40. -/
def execRefetchData (b : BasinId) (d : CDieId) (m : SluiceMsg) (s : State) : Host.Outcome State Fault Refusal :=
  .next (s.receiveMsg 7 b d m)

end Sys2Proof.Machine
end

