-- ==== Sys2Proof/Machine/Flows.lean ====
section
/-!
DEFINITION. The receiving side of the towpath: the buffer of a port (R363), the counters of flows (R367), the rings of basin
flows (R366), the pieces of sluice messages (R325), acknowledgements and NAKs (R365, R373), and resume exchanges (R366, R470).
-/
namespace Sys2Proof.Machine

/-! ### Flows: receiving -/

def State.rxDropped (s : State) (p : Nat) : State :=
  s.setPort p { s.port p with rxDrop := satCount ((s.port p).rxDrop + 1) }

/-- The receive ring of a flow. -/
def State.recvRing (s : State) (b f : Nat) : RecvRing := nget (fun _ => ⟨0, 0, 0, 0⟩) (s.basin b).recv f

/-- The consumer's index in a ring's control block, in 64-byte pieces, read coherently. -/
def State.recvConsumer (s : State) (b : Nat) (r : RecvRing) : Nat :=
  match s.basinRead b (r.control.toNat + 4) 4 with
  | .ok bs => leValue bs
  | .error _ => 0

/-- The length of a record: header and payload, padded to 64 bytes (R366). -/
def recordPieces (f : TowFrame) : Nat := (16 + f.payload.length + 63) / 64

/-- The ring has room for a frame's record. -/
def State.recvRoom (s : State) (b f : Nat) (x : TowFrame) : Bool :=
  let r := s.recvRing b f
  r.size != 0 && decide ((r.producer + 2 ^ 32 - s.recvConsumer b r) % 2 ^ 32 + recordPieces x ≤ r.size / 64)

/-- Write bytes of a ring from a byte offset on, modulo its size. -/
def State.ringWrite (s : State) (b : Nat) (base size off : Nat) (bs : Bytes) : State :=
  let at1 := off % size
  let n := min bs.length (size - at1)
  let s := s.put b (base + at1) (bs.take n)
  if n = bs.length then s else s.put b base (bs.drop n)

/-- Write a record and then the producer index (R366). -/
def State.writeRecord (s : State) (b f p : Nat) (x : TowFrame) (gap first last : Bool) : State :=
  let r := s.recvRing b f
  let flags := boolBit gap + 2 * boolBit x.slow + 4 * boolBit first + 8 * boolBit last
  let rec_ := leBytes 2 f ++ leBytes 2 x.payload.length ++ leBytes 2 x.alive.toNat ++ leBytes 1 x.cls.toNat ++
    leBytes 1 flags ++ leBytes 8 (s.time (portDie p)).toNat ++ x.payload
  let rec_ := rec_ ++ List.replicate (64 * recordPieces x - rec_.length) 0
  let s := s.ringWrite b r.base.toNat r.size (64 * (r.producer % (r.size / 64))) rec_
  let prod := (r.producer + recordPieces x) % 2 ^ 32
  let s := s.put b r.control.toNat (leBytes 4 prod)
  s.setBasin b { s.basin b with recv := nset (fun _ => ⟨0, 0, 0, 0⟩) (s.basin b).recv f { r with producer := prod } }

/-- The units of a die that watch a flow in a mode (R482). -/
def State.flowUnits (s : State) (mode d f : Nat) : List Nat :=
  ((List.range 16).map (fun i => 16 * d + i)).filter (fun u => chkMode (s.sheetsOn d) u == mode && chkTarget (s.sheetsOn d) u == f)

/-- What the check trailer of a whole message frames (R484); none when the message is unframed. -/
def trailerOf (algorithm f : Nat) (msg : Bytes) : Option Framed :=
  let n := msg.length - 16
  let tr := msg.drop n
  if msg.length < 16 ∨ field tr 12 4 ≠ 0x52544B43 ∨ field tr 10 2 ≠ 0 then none
  else some ⟨f, some (BitVec.ofNat 16 (field tr 8 2)), 0, crcOf algorithm (msg.take n), BitVec.ofNat 64 (field tr 0 8)⟩

/-- Compare a whole message against its check trailer (R484, R486). -/
def State.checkMessage (s : State) (u f : Nat) (msg : Bytes) : State :=
  match trailerOf (chkAlgorithm (s.sheetsOn (checkDie u)) u) f msg with
  | none => s.unframed u f
  | some x => s.compareFrame u x

/-- What units with a former entry for a flow have still to gather of its message: the record that ends it is compared under
that entry; one that begins another message, or a gap, leaves nothing of it (R73). -/
def State.watchFormer (s : State) (u f : Nat) (x : TowFrame) (gap first last : Bool) : State :=
  s.forEach ((s.check u).formers.filter (fun y => chkMode (formerSheets u y) u == 1 && chkTarget (formerSheets u y) u == f && y.region != []))
    (fun s y =>
      let done := { y with region := [] }
      if first || gap then s.putFormer u y done
      else if !last then s.putFormer u y { y with region := y.region ++ x.payload }
      else match trailerOf (chkAlgorithm (formerSheets u y) u) f (y.region ++ x.payload) with
        | none => (s.unframedAs (formerSheets u y) u f).putFormer u y done
        | some r => s.compareFormer u y done r)

/-- A receiving unit gathers a message record by record; a gap spoils the message it falls in. -/
def State.watchReceive (s : State) (u f : Nat) (x : TowFrame) (gap first last : Bool) : State :=
  let k := s.check u
  let k := if first then { k with region := [], open_ := true } else if gap then { k with open_ := false } else k
  let k := { k with region := k.region ++ x.payload }
  let s := s.setCheck u k
  if !last then s
  else
    let s := s.setCheck u { k with region := [], open_ := false }
    if k.open_ then s.checkMessage u f k.region else s

/-- A frame of a flow with a counter stands in some port's buffer: one that comes after it on another port waits for it. -/
def State.heldSomewhere (s : State) (flow alive : W16) : Bool :=
  s.ports.any (fun e => e.2.held.any (fun x => x.flow == flow && x.alive == alive))

/-- Deliver a data frame of a basin flow at its port (R366, R367): a frame shorter than 4,096 bytes is the last of its message.
None when its destination cannot take it now. Log entry 44. -/
def State.deliverBasin (s : State) (p : Nat) (x : TowFrame) (gap : Bool) : Option State :=
  let f := x.flow.toNat
  let b := flowBasin s.sheets f
  let k := s.flow f
  if !s.recvRoom b f x ∨ (gap ∧ s.heldSomewhere x.flow k.expected) then none
  else
    let last := decide (x.payload.length < 4096)
    let s := s.setFlow f { k with expected := x.alive + 1, last := x.alive, first := last, nakOut := false, deliverGap := false
                                  gaps := if gap then satCount (k.gaps + 1) else k.gaps }
    let s := s.writeRecord b f p x gap k.first last
    let s := s.forEach ((List.range 16).map (fun i => 16 * portDie p + i)) (fun s u => s.watchFormer u f x gap k.first last)
    some (s.forEach (s.flowUnits 1 (portDie p) f) (fun s u => s.watchReceive u f x gap k.first last))

/-- The epoch rule of R367: stale, newer with the counter taken from the frame, or as recorded. -/
inductive EpochRule where
  | stale | newer | same
  deriving DecidableEq, Repr

def Flow.epochRule (k : Flow) (e : Byte) : EpochRule :=
  let d := (e - k.epoch).toNat
  if !k.known then .newer else if d = 0 then .same else if d ≤ 127 then .newer else .stale

/-- What the counters of a flow make of a frame: it is done with, or to be delivered, after a gap or not. -/
inductive Sequenced where
  | done (s : State)
  | deliver (s : State) (gap : Bool)

/-- The counter and epoch rules of R367. On an Ethernet port a gap is NAKed and the frame discarded, until 1 ms has passed without
progress (R373). Log entry 46. -/
def State.sequenced (s : State) (p key : Nat) (x : TowFrame) : Sequenced :=
  let k := s.flow key
  match k.epochRule x.epoch with
  | .stale => .done (s.setFlow key { k with stale := satCount (k.stale + 1) })
  | .newer => .deliver (s.setFlow key { k with known := true, epoch := x.epoch, expected := x.alive, first := true }) false
  | .same =>
    if x.alive = k.expected then .deliver s false
    else if (x.alive - k.expected).toNat ≤ 32767 then
      if s.portEthernet p ∧ !k.deliverGap then
        .done (if k.nakOut then s
          else (s.setFlow key { k with nakOut := true }).sendControl p key (controlFrame 3 0 x.flow k.expected []))
      else .deliver s true
    else .done (s.setFlow key { k with dups := satCount (k.dups + 1) })

/-- Two pieces belong to one message. -/
def samePiece (x y : SlcPiece) : Bool :=
  x.kind == y.kind && x.bucket == y.bucket && x.step == y.step && x.slice == y.slice && x.member == y.member

/-- The message that pieces make: where they do not cover its length in order, its CRC cannot hold. Log entry 35. -/
def joinPieces (parts : List SlcPiece) (y : SlcPiece) (slow : Bool) (epoch : Byte) : SluiceMsg :=
  let data := parts.flatMap (fun z => z.data)
  let ends := parts.foldl (fun (a : Bool × Nat) z => (a.1 && z.offset == a.2, a.2 + z.data.length)) (true, 0)
  { bucket := y.bucket, step := y.step, member := y.member, slice := y.slice, encoding := BitVec.ofNat 8 y.encoding, slow := slow
    epoch := epoch, crc := if ends = (true, y.length) then y.crc else ~~~crc32c data, data := data }

/-- A piece of sluice traffic reaches staging; with its last piece the message has arrived (R325, R327). A payload that holds no
piece of its sender is dropped and counted. Log entry 35. -/
def State.takePiece (s : State) (b d : Nat) (x : TowFrame) : State :=
  let member := x.flow.toNat - 0x4000
  match parsePiece x.payload with
  | none => (s.countDrop d).slcEvent ⟨b, d, 0, 0, 0⟩ 0x24 member x.slow 1
  | some y =>
    if y.member.toNat ≠ member then (s.countDrop d).slcEvent ⟨b, d, y.bucket, s.fullStep b y.step, y.slice.toNat⟩ 0x24 member x.slow 1
    else
      let mine := fun (a : Assembly) => a.basin == b && a.die == d && a.parts.any (samePiece y)
      let old := if y.offset = 0 then none else s.pieces.find? mine
      let parts := (match old with | some a => a.parts | none => []) ++ [y]
      let slow := x.slow || old.any (fun a => a.slow)
      let s := { s with pieces := s.pieces.filter (fun a => !mine a) }
      if !y.last then { s with pieces := s.pieces ++ [⟨b, d, slow, x.epoch, parts⟩] }
      else s.receiveMsg y.kind b d (joinPieces parts y slow x.epoch)

/-- A frame of a member's sluice traffic (R367, R368). While the sluice has work that waits for credits its staging is full,
and the frame waits, unless it is of class 0 (R343). -/
def State.sluiceFrame (s : State) (p : Nat) (x : TowFrame) : Option State :=
  let d := portDie p
  match portOwner (s.sheetsOn d) p with
  | none => some (s.rxDropped p)
  | some b =>
    let key := sluiceFlow b d (x.flow.toNat - 0x4000)
    if x.cls ≠ 0 ∧ (s.sluice d).work ≠ [] ∧ s.sluicePresent d = true then none
    else match s.sequenced p key x with
      | .done t => some (if (t.flow key).dups = (s.flow key).dups then t
          else t.setSluice d { t.sluice d with flowDup := satCount ((t.sluice d).flowDup + 1) })
      | .deliver t gap =>
        let t := t.setFlow key { t.flow key with expected := x.alive + 1, last := x.alive, nakOut := false, deliverGap := false }
        let t := if gap then t.setSluice d { t.sluice d with flowGap := satCount ((t.sluice d).flowGap + 1) } else t
        some (t.takePiece b d x)

/-- A data frame in its port's buffer goes to its destination (R366). None when that cannot take it now. -/
def State.arrive (s : State) (p : Nat) (x : TowFrame) : Option State :=
  let t := s.sheets
  let f := x.flow.toNat
  if 0xFF00 ≤ f then some s
  else if 0x4000 ≤ f ∧ f < 0x8000 then
    if towSet t p then s.sluiceFrame p x else some (s.rxDropped p)
  else if !flowEnabled t f ∨ portOwner t p ≠ some (flowBasin t f) then some (s.rxDropped p)
  else if (s.basin (flowBasin t f)).st ≠ .open then some (s.rxDropped p)
  else match s.sequenced p f x with
    | .done t => some t
    | .deliver t gap => t.deliverBasin p x gap

/-- Count a flagged frame (R368). -/
def State.countSlow (s : State) (p : Nat) (x : TowFrame) : State :=
  if x.slow then s.setPort p { s.port p with slowRx := satCount ((s.port p).slowRx + 1) } else s

/-! ### The buffer of a port (R363, R365, R373) -/

/-- The receive buffer of a native port by class, in credits of 256 bytes. -/
def bufferCredits : List Nat := [128, 1024, 768, 128]

/-- The credits that the frames of a class hold in a port's buffer. -/
def Port.heldCredits (k : Port) (cls : BitVec 2) : Nat := ((k.held.filter (fun x => x.cls == cls)).map frameCost).sum

/-- The receiver acknowledges what came in order, and returns credits (R362, R363). -/
def State.sendAck (s : State) (p : Nat) : State :=
  let k := s.port p
  (s.setPort p { k with sinceAck := 0 }).sendControl p (0xFF00 + p)
    (controlFrame 2 (k.expSeq - 1) 0 0 (k.returned.flatMap (fun v => leBytes 4 v.toNat)))

/-- The first frame of the buffer that can go: one whose destination cannot take it holds its class, and no other (R363). -/
def State.firstTaken (s : State) (p : Nat) : List TowFrame → List (BitVec 2) → Option (TowFrame × State)
  | [], _ => none
  | x :: xs, blocked =>
    if blocked.contains x.cls then s.firstTaken p xs blocked
    else match s.arrive p x with
      | some t => some (x, t)
      | none => s.firstTaken p xs (x.cls :: blocked)

/-- A frame has left the buffer: a native port returns its credits, at the latest with the 64th frame. -/
def State.releaseFrame (s : State) (p : Nat) (x : TowFrame) : State :=
  let k := s.port p
  let c := x.cls.toNat
  let s := s.setPort p { k with
    held := k.held.erase x, sinceAck := k.sinceAck + 1
    returned := k.returned.set c (k.returned.getD c 0 + BitVec.ofNat 32 (frameCost x)) }
  if s.portNative p ∧ 64 ≤ (s.port p).sinceAck then s.sendAck p else s

/-- Hand on up to n frames of a port's buffer. -/
def State.drainFuel (p : Nat) : Nat → State → State
  | 0, s => s
  | n + 1, s =>
    match s.firstTaken p (s.port p).held [] with
    | none => s
    | some (x, t) => State.drainFuel p n (t.releaseFrame p x)

/-- An Ethernet port pauses the priorities of the classes whose frames wait in it, and frees them when they have gone (R373). Log
entry 46. Log entry 46. -/
def State.settlePause (s : State) (p : Nat) : State :=
  let k := s.port p
  let t := s.sheetsOn (portDie p)
  let want := BitVec.ofNat 8 (k.held.foldl (fun m x => setBit m (towPcp t x.cls.toNat)) 0)
  if !s.portEthernet p ∨ want = k.pauseOut then s else (s.setPort p { k with pauseOut := want }).emit (.pause p want.toNat)

/-- A port hands on what its buffer holds. -/
def State.drainPort (s : State) (p : Nat) : State :=
  if (s.port p).held = [] then s.settlePause p else (State.drainFuel p (s.port p).held.length s).settlePause p

/-- A data frame enters the buffer of its port: it counts in a probation, and its flag in TWP_SLOW_RX. -/
def State.bufferFrame (s : State) (p : Nat) (f : TowFrame) : State :=
  let k := s.port p
  let s := s.setPort p { k with held := k.held ++ [f], probCount := if k.st = .probation then k.probCount + 1 else k.probCount }
  (s.countSlow p f).drainPort p

/-- Send one NAK for the expected sequence (R365); it begins a probation's count again (R370). -/
def State.sendNak (s : State) (p : Nat) : State :=
  let k := s.port p
  if k.nakOut then s
  else ((s.setPort p { k with nakOut := true, naks := satCount (k.naks + 1) }).restartCount p).sendControl p (0xFF00 + p)
    (controlFrame 3 k.expSeq 0 0 [])

/-- A native data frame: delivered only in sequence, an earlier one discarded, a later one NAKed (R365). One that its class has no
room for, which a sender with credits never sends, is discarded as if it were damaged. Log entry 44. -/
def State.receiveData (s : State) (p : Nat) (f : TowFrame) : State :=
  let k := s.port p
  if f.seq ≠ k.expSeq then (if (f.seq - k.expSeq).toNat < 0x8000 then s.sendNak p else s)
  else if bufferCredits.getD f.cls.toNat 0 < k.heldCredits f.cls + frameCost f then s.sendNak p
  else (s.setPort p { k with expSeq := k.expSeq + 1, nakOut := false }).bufferFrame p f

/-- An uncorrectable frame: discarded and counted; a native port NAKs the expected sequence (R362, R365). -/
def State.badFrame (s : State) (p : Nat) : State :=
  let k := s.port p
  let s := (s.setPort p { k with fecUncorr := satCount (k.fecUncorr + 1) }).restartCount p
  if s.portNative p then s.sendNak p else s

/-- A native port that carries frames receives the bytes of one: damaged, of the kinds that a command serves, or of another
kind, which is another command's. -/
def State.onFrame (s : State) (p : Nat) (raw : Bytes) (serves : Nat → Bool) (f : TowFrame → State → State) : State :=
  if !s.portNative p ∨ !(s.port p).st.carries then s
  else match parseFrame raw with
    | none => s.badFrame p
    | some x => if serves x.kind.toNat then f x s else s

/-! ### Resume exchanges (R366, R470) -/

/-- Answer a resume query with the last counter delivered: the first query of an epoch, or one of another epoch, restarts the
counter, any other leaves it. Log entry 45. -/
def State.answerResume (s : State) (p : Nat) (payload : Bytes) : State :=
  let flow := BitVec.ofNat 16 (field payload 0 2)
  let epoch := BitVec.ofNat 8 (field payload 4 1)
  let key := s.recvKey p flow.toNat
  let k := s.flow key
  let fresh := !k.known || k.epoch != epoch || field payload 5 3 == 1
  let k := if fresh then { k with known := true, epoch := epoch, expected := 0, first := true, nakOut := false } else k
  (s.setFlow key k).sendControl p key (controlFrame 7 0 flow 0 (resumePayload flow (k.expected - 1) epoch false))

/-- Administrators' port-quiesce commands reply when no flow of the port is on its way (R377). -/
def State.settleQuiesce (s : State) : State :=
  s.forEach basinIds (fun s b => match (s.basin b).mboxCmd with
    | some c =>
      if c.code = 0x18 ∧ 0x30000 ≤ c.unit ∧ (s.flowsOf (c.unit - 0x30000)).all (fun f => !(s.flow f).resuming) then s.replyDone b []
      else s
    | none => s)

/-- The flow that a resume answer, or an end-to-end acknowledgement or NAK, speaks of: a basin flow by its number; of the sluice
flows, which share their sender's number, the one to the member that a datagram comes from, or the first that waits for an
answer on the port. Log entry 45. -/
def State.sentKey (s : State) (p flow : Nat) (src : Option Bytes) : Option Nat :=
  if flow < 1024 then some flow
  else
    let t := s.sheetsOn (portDie p)
    let mine := (s.flows.map (fun e => e.1)).filter (fun key => decide (0x10000 ≤ key) && keyDie key == portDie p &&
      (s.flow key).port == some p && (s.keyFlow key).toNat == flow)
    match src with
    | some ip => mine.find? (fun key =>
        (List.range 16).any (fun i => ip == ipAfter (towV6 t p) (towBase t (portDie p)) (16 * keyMember key + i)))
    | none => mine.find? (fun key => (s.flow key).resuming)

/-- A resume answer: what was delivered is acknowledged, the rest of the old port's frames goes first, then new ones.
Log entry 45. -/
def State.resumeFlow (s : State) (p : Nat) (payload : Bytes) (src : Option Bytes) : State :=
  let last := BitVec.ofNat 16 (field payload 2 2)
  match s.sentKey p (field payload 0 2) src with
  | none => s
  | some key =>
    let k := s.flow key
    if k.port ≠ some p ∨ !k.resuming ∨ field payload 4 1 ≠ (s.basin (keyBasin s.sheets key)).epoch.toNat then s
    else
      let s := s.ackThrough key last
      let k := s.flow key
      let k := if k.unacked = [] ∧ k.pendingTx = [] then { k with next := last + 1 } else k
      let s := s.setFlow key { k with resuming := false, told := true, pendingTx := k.unacked ++ k.pendingTx, unacked := [] }
      (s.kick key).settleQuiesce

end Sys2Proof.Machine
end

