-- ==== Sys2Proof/Machine/Wipes.lean ====
section
/-!
DEFINITION. What a reset of basin scope resets and wipes (R94, R96, R345, R420), and the end of that reset (R412, R426, R470,
R471).
-/
namespace Sys2Proof.Machine

/-- The flows of a basin. -/
def basinFlows (t : Sheets) (b : Nat) : List Nat := (List.range 1024).filter (fun f => flowEnabled t f && flowBasin t f == b)

/-- The clusters of a basin. -/
def basinClusters (t : Sheets) (b : Nat) : List Nat := (List.range 128).filter (bsnHasCluster t b)

/-- Stop a complex: its harts are held in reset. -/
def State.stopComplex (s : State) (x : Nat) : State :=
  let s := s.setComplex x { s.complex x with running := false, changing := none, queued := none }
  s.forEach (complexHarts x) (fun s h => s.setHart h .reset)

/-- Leave no Dalpa copy of a basin's lines, without write-back (R94). Log entry 63. -/
def State.dropLines (s : State) (b : Nat) : State :=
  { s with snoopLines := s.snoopLines.filter (fun e => !inBasinRanges s.sheets b (64 * e.1))
           caches := s.caches.filter (fun e => !inBasinRanges s.sheets b (64 * e.line)) }

/-- Reset and wipe a basin: its clusters, complexes, flows, sluice state and rings, then its memory. -/
def State.wipeBasin (s : State) (b code : Nat) : State :=
  let t := s.sheets
  let s := s.forEach (basinClusters t b) (fun s k => s.resetCluster k code)
  let s := s.forEach ((List.range 4).filter (bsnHasComplex t b)) (fun s x => s.stopComplex x)
  let s := s.forEach (basinFlows t b) (fun s f => s.resetFlow f code)
  let s := s.discardBasin b code
  let s := s.forEach ((s.flows.map (fun e => e.1)).filter (fun key => decide (0x10000 ≤ key) && keyBasin t key == b))
    (fun s f => s.resetFlow f code)
  let s := s.setBasin b { s.basin b with slcQuiet := true }
  let s := { s with wards := s.wards.filter (fun w => w.basin != b), retired := s.retired.filter (fun x => x.basin != b) }
  let s := s.forEach (s.ringBarges.filter (fun x => x.basin == b)) (fun s x => s.failRing code x)
  let s := s.setBasin b { s.basin b with rings := [], recv := [] }
  (s.dropLines b).forEach (basinEntries t b) (fun s i => s.wipeRange i)

/-- The recovery epoch of a basin increases; its check units expect 0 again (R470, R486). -/
def State.nextEpoch (s : State) (b : Nat) : State :=
  let s := s.setBasin b { s.basin b with epoch := (s.basin b).epoch + 1 }
  s.forEach (List.range 72) (fun s u =>
    let on := fun (t : Sheets) => chkMode t u != 0 && chkBasin t u == b
    let k := s.check u
    let k := { k with formers := k.formers.map (fun x => if on (formerSheets u x) then { x with expected := [] } else x) }
    s.setCheck u (if on (s.sheetsOn (checkDie u)) then { k with expected := [] } else k))

/-- Admit a cluster: granted at ramp level 1, its shaping bucket full, its translation cache empty (R471), and no longer
fenced. -/
def State.admitCluster (s : State) (k : Nat) : State :=
  let s := s.emptyCache k
  let s := if (clusterOwner (s.sheetsOn (k / 32)) k).isSome && s.physCluster k != 0xFF then s.grantCluster k else s
  s.setCluster k { s.cluster k with fenced := false, express := 4096 }

/-- The CXL devices of a basin's root ports whose links are up return (R424). Log entry 59. -/
def State.returnCxl (s : State) (b : Nat) : State :=
  s.forEach (List.range 8) (fun s p =>
    let up := (List.range 4).any (fun i => bitOf (bsnRootMask s.sheets b) (4 * p + i) && (s.segment (4 * p + i)).linkUp)
    if up then s.setCxlPort p { s.cxlPort p with present := decide (0 < (s.cxlPort p).gib) } else s)

/-- Every switched domain is held in reset: only the keepers answer (R472). Log entry 75. -/
def State.holdDomains (s : State) : State :=
  let s := s.forEach (List.range 128) (fun s k =>
    let s := s.resetCluster k 0x1006
    s.setCluster k { s.cluster k with granted := false, fenced := true })
  let s := s.forEach (List.range 56) (fun s p =>
    s.setPort p { s.port p with st := .off, training := false, waiting := [], replay := [] })
  let s := s.forEach (List.range 4) (fun s x => s.stopComplex x)
  let s := s.forEach (List.range 32) (fun s g => s.setSegment g { s.segment g with linkUp := false })
  s.setPkg { s.pkg with domains := List.replicate 32 false ++ s.pkg.domains.drop 32 }

end Sys2Proof.Machine
end

