-- ==== Sys2Proof/Machine/Turns.lean ====
section
/-!
DEFINITION. The live turn (R71-R79): the changed set, the gates, votes, the decision, and what the exchange of the sheets
does to each block that uses a changed one (R59, R289, R426, R377, R489).
-/
namespace Sys2Proof.Machine

/-- The changed sheets: the shadow body differs in a byte; the two firmware bodies are compared in their slots (R71, R73). -/
def State.changedSheets (s : State) : List Nat :=
  ((List.range 16).map (· + 1)).filter (fun ty =>
    if ty = 12 ∨ ty = 13 then s.slotBody s.pkg.activeSlot ty != s.slotBody s.otherSlot ty
    else s.sheets.body ty != s.nextSheets.body ty)

/-! ### Gates (R73) -/

/-- A context that is not IDLE runs on a die. -/
def State.runsOn (s : State) (d : Nat) (p : Nat → Core → Bool) : Bool :=
  s.cores.any (fun e => e.1 / 256 == d && e.2.ctx != .idle && p e.1 e.2)

/-- A basin has a running context, a barge in flight or an open bucket on a die. -/
def State.basinBusy (s : State) (d b : Nat) : Bool :=
  s.runsOn d (fun _ k => k.basin == b) || s.ringBarges.any (fun x => x.basin == b && x.cluster / 32 == d) ||
  s.buckets.any (fun k => k.basin == b && k.die == d && k.sent && !k.done) ||
  s.slices.any (fun x => x.key.basin.val == b && x.key.die.val == d && x.st != .empty && x.st != .done)

/-- The ports of a die. -/
def diePorts (d : Nat) : List Nat := if d < 4 then (List.range 14).map (fun i => 14 * d + i) else []

/-- Every block of a die that uses a changed sheet is at its gate. -/
def State.atGate (s : State) (d ty : Nat) : Bool :=
  let t := s.sheetsOn d
  let u := (s.die d).shadow
  match ty with
  | 2 =>
    (clkPrimary t == clkPrimary u && clkRevertive t == clkRevertive u) || (s.die d).refQual (clkPrimary u)
  | 4 => (s.die d).substituting == [] && !s.runsOn d (fun c _ => mapChanged t u (c / 8))
  | 5 => basinIds.all (fun b => !bsnChanged t u b || !s.basinBusy d b)
  | 6 => basinIds.all (fun b => !rangesChanged t u b || !s.basinBusy d b)
  | 7 => (diePorts d).all (fun p => !portChanged t u p || (s.port p).st == .off || (s.port p).st == .down || (s.port p).quiesced)
  | 9 => !s.runsOn d (fun _ k => numFlight t k.basin != numFlight u k.basin)
  | 10 => !s.sluiceBusy d
  | 11 => s.pkg.recoveries == []
  | _ => true

/-- A running recovery lies in a scope that uses a sheet: a cluster uses power, topology, basins and numerics; a basin also
its memory, Towpath, sluice, check units and telemetry; a die or the package all. R77 and R79 do not list them. Log entry 107. -/
def scopeUses (scope ty : Nat) : Bool :=
  match scope with
  | 0 | 1 => [3, 4, 5, 9].contains ty
  | 2 => [3, 4, 5, 6, 7, 9, 10, 14, 15].contains ty
  | _ => true

def State.recoveryUses (s : State) (changed : List Nat) : Bool :=
  s.pkg.recoveries.any (fun r => changed.any (scopeUses r.scope))

/-- A keeper's vote (R77): its shadow sequence, its gates, then recoveries. Log entry 51. -/
def State.voteOf (s : State) (d : Nat) (t : Turn) : Vote :=
  if (s.die d).shadowSeq ≠ t.seq then ⟨false, 1, 0⟩
  else match t.changed.find? (fun ty => !s.atGate d ty) with
    | some ty => ⟨false, 3, ty⟩
    | none => if s.recoveryUses t.changed then ⟨false, 6, 0⟩ else ⟨true, 0, 0⟩

/-- A keeper takes part: it runs, and its die is not isolated (R79). -/
def State.keeperLive (s : State) (d : Nat) : Bool := (s.die d).keeperUp && !(s.die d).isolated

/-! ### Answers -/

/-- Answer an administrator's command with a code; a refusal that names a sheet and a die carries them. -/
def State.answer (s : State) (ch : Channel) (cmd code sheet die : Nat) : State :=
  match ch with
  | .basin b =>
    match (s.basin b).mboxCmd with
    | none => s
    | some c =>
      if c.code.toNat ≠ cmd then s
      else if code = 0 then s.replyDone b []
      else s.reply b 1 code (if sheet = 0 then [] else leBytes 2 sheet ++ leBytes 2 die)
  | .mgmt => s.emit (.mctpStatus code sheet die)

def State.setTurn (s : State) (t : Option Turn) : State := s.setPkg { s.pkg with turn := t }

/-! ### Decision -/

/-- The turn ends without a commit: its code goes to the administrator. The turn stands while a keeper still holds.
Log entry 51. -/
def State.endAbort (s : State) (t : Turn) : State :=
  let s := s.answer t.caller 0x14 t.code t.sheet t.die
  s.setTurn (if t.holds = [] then none else some { t with waitMs := 0 })

/-- ABORT: recorded with the standby before it is sent; the shadow set is VALID again. With code 0x03 and a wait limit the
turn waits for its next attempt. -/
def State.abortTurn (s : State) (t : Turn) (code sheet die : Nat) : State :=
  let t := { t with decision := some false, standby := some false, code := code, sheet := sheet, die := die, told := [] }
  let s := s.setPkg { s.pkg with shadow := .valid, lastCode := code, lastSheet := sheet, lastDie := die }
  if code = 3 ∧ t.waitMs ≠ 0 then s.setTurn (some t) else s.endAbort t

/-- COMMIT: recorded with the standby; the head keeper knows it at once. -/
def State.commitTurn (s : State) (t : Turn) : State :=
  (s.setPkg { s.pkg with shadow := .empty }).setTurn
    (some { t with decision := some true, standby := some true, told := [s.pkg.head] })

/-- A recovery that starts before COMMIT in a scope that uses a changed sheet aborts the turn with 0x06 (R79). Log entry 50. -/
def State.withdraw (s : State) (scope : Nat) : State :=
  match s.pkg.turn with
  | some t => if t.decision.isNone && t.changed.any (scopeUses scope) then s.abortTurn t 6 0 0 else s
  | none => s

/-! ### The exchange -/

/-- Exchange the changed bodies of a keeper. -/
def Die.exchange (k : Die) (changed : List Nat) : Die :=
  let sw := changed.filter (fun ty => ty != 12 && ty != 13)
  let put := fun (a b : Sheets) => sw.foldl (fun m ty => nset (fun _ => []) m ty (b.body ty)) a
  { k with active := put k.active k.shadow, shadow := put k.shadow k.active }

/-- The change a complex is making, or the one it would make next, is clamped to its limits (R59). -/
def Complex.reclamp (k : Complex) (clamp : Nat → Nat) : Complex :=
  let next := k.changing.map clamp
  { k with changing := if next = some k.step then none else next, queued := k.queued.map clamp }

/-- Clocks (R59): a complex whose step lies outside its new limits moves, and a change under way ends within them. The
governor's ceiling stands on the side of a lower frequency (R52). Log entry 52. -/
def State.turnClocks (s : State) (d : Nat) : State :=
  s.forEach ([0, 1, 2, 3].filter (fun x => complexDie x == d)) (fun s x =>
    let t := s.sheetsOn d
    let k := s.complex x
    let s := s.setComplex x (k.reclamp (fun n => max (clampStep t x n) k.ceiling))
    if k.step < clkHigh t x ∨ clkLow t x < k.step then s.retarget x else s)

/-- Ports of a die whose TP domain is off are OFF (R42, R359). -/
def State.settlePorts (s : State) (d : Nat) : State :=
  if 4 ≤ d ∨ s.domainOn (6 * d + 4) then s
  else s.forEach (diePorts d) (fun s p =>
    if (s.port p).st = .off then s else (s.portDown p).setPort p { (s.portDown p).port p with st := .off, training := false })

/-- A die goes into or out of service: its switched domains follow, and what stands on them (R38, R42). -/
def State.serveDie (s : State) (d : Nat) (on : Bool) : State :=
  let was := (s.die d).inService
  let s := s.setDie d { s.die d with inService := on }
  if on = was then s else (s.forEach (dieDomains d) (fun s n => s.setDomain n on)).settlePorts d

/-- A cluster that moved or came: it is reset, and while its basin is open the new place gets the allotment (R36, R471). -/
def State.replaceCluster (s : State) (c : Nat) : State :=
  let s := s.resetCluster c 0x1008
  match clusterOwner (s.sheetsOn (c / 32)) c with
  | some b => if (s.basin b).st = .open then s.admitCluster c else s
  | none => s

/-- Topology (R31, R32): the live map of a die is derived again; a cluster that moved or came comes back reset. -/
def State.turnTopology (s : State) (d : Nat) : State :=
  let s := s.serveDie d (bitOf (topService (s.sheetsOn d)) d && !(s.die d).isolated)
  if 4 ≤ d then s
  else
    let old := (s.die d).map
    let s := s.deriveMap d
    s.forEach (List.range 32) (fun s l =>
      if old.getD l 0xFF = (s.die d).map.getD l 0xFF then s else s.replaceCluster (32 * d + l))

/-- The basin changes owner (R426). -/
def ownerChanged (t u : Sheets) (b : Nat) : Bool :=
  bsnEnabled t b != bsnEnabled u b || bsnSelf t b != bsnSelf u b || bsnEndpoint t b != bsnEndpoint u b || bsnTag t b != bsnTag u b

/-- The die on which a GiB of the physical map lies. -/
def gibDie (n : Nat) : Nat := placeDie (placeOf (n * 0x40000000))

/-- Memory on a die (R289): a GiB that changes owner or is newly assigned is wiped before its new basin reaches it; one of CXL
space is unavailable until its fill ends. No cached translation outlives a change of a basin's ranges. -/
def State.turnMemory (s : State) (t : Sheets) (d : Nat) : State :=
  let u := s.sheetsOn d
  let s := s.forEach (basinIds.filter (fun b => rangesChanged t u b)) (fun s b => s.flushBasin b)
  s.forEach (List.range 64) (fun s i =>
    let r := mapRange u i
    let fresh := (List.range r.count).filter (fun n => gibDie (r.first + n) == d && !(basinGibs t r.basin).contains (r.first + n))
    s.forEach (if r.kind = 0 then [] else fresh) (fun s n => s.wipeGib i r.kind (r.first + n)))

/-- What a basin's definition brings: it opens, closes, or resets for its new owner with code 0x1008; one that was
UNAVAILABLE opens when the turn removes what is absent (R425, R426, R452, R533). -/
def State.turnBasin (s : State) (t : Sheets) (b : Nat) : State :=
  let u := s.sheets
  if bsnEnabled t b && !bsnEnabled u b then
    let s := s.discardBasin b 0x1008
    let s := s.forEach (basinRanges t b) (fun s r =>
      if r.kind = 2 then s.wipeDdr (r.first * 0x40000000) (r.count * 0x40000000)
      else s.wipe (r.first * 0x40000000) (r.count * 0x40000000))
    (s.forEach ((List.range 16).map id) (fun s r => s.setRing b r .reset)).closeBasin b
  else if !bsnEnabled t b && bsnEnabled u b then s.beginOpen b
  else if bsnEnabled u b && ownerChanged t u b then s.raise 0x1008 s.pkg.head b 0xFFFF 0 0
  else if bsnEnabled u b && (s.basin b).st == .unavailable && !s.resourceAbsent b then
    (s.setBasin b { s.basin b with lostDie := false }).beginOpen b
  else s

/-- A basin that is UNAVAILABLE opens once a turn has left it no absent resource (R425, R533). Log entry 52. -/
def State.reopen (s : State) : State :=
  s.forEach basinIds (fun s b =>
    if bsnEnabled s.sheets b && (s.basin b).st == .unavailable && !s.resourceAbsent b then (s.wipeBasin b 0x0E04).beginOpen b
    else s)

/-- Basins: the clusters, ports, complexes and PCIe ports of a die that move to another basin (R426). Log entry 52. -/
def State.turnOwners (s : State) (t : Sheets) (d : Nat) : State :=
  let u := s.sheetsOn d
  let s := s.forEach ((List.range 128).filter (fun c => c / 32 == d)) (fun s c =>
    if clusterOwner t c = clusterOwner u c then s else s.replaceCluster c)
  let s := s.forEach (diePorts d) (fun s p =>
    if portOwner t p = portOwner u p then s
    else s.forEach ((List.range 1024).filter (fun f => flowEnabled t f && (flowPorts t f).contains p)) (fun s f => s.setFlow f .reset))
  let s := s.forEach ([0, 1, 2, 3].filter (fun x => complexDie x == d)) (fun s x =>
    if complexOwner t x = complexOwner u x then s
    else
      let s := s.setComplex x { s.complex x with running := false, changing := none, queued := none }
      match complexOwner u x with
      | some b => if (s.basin b).st = .open && !ownerChanged t u b && s.dieIn (complexDie x) then s.startComplexes b [x] else s
      | none => s)
  s.forEach ((List.range 8).filter (fun p => 4 + p / 4 == d)) (fun s p =>
    if pcieEntry t p = pcieEntry u p then s
    else s.forEach (List.range 4) (fun s i => s.setSegment (4 * p + i) { s.segment (4 * p + i) with linkUp := false, released := false }))

/-- Towpath (R377): a port of a die whose entry changed trains again. -/
def State.turnPorts (s : State) (t : Sheets) (d : Nat) : State :=
  s.forEach (diePorts d) (fun s p =>
    if portChanged t (s.sheetsOn d) p then
      (s.setPort p { s.port p with quiesced := false, training := false, width := 0, replay := [], waiting := [] }).initPort p
    else s)

/-- A flow whose entry changed finds its port anew. -/
def State.turnFlows (s : State) (t : Sheets) : State :=
  let u := s.sheets
  s.forEach ((List.range 1024).filter (fun f => flowEntry t f != flowEntry u f)) (fun s f =>
    if flowEnabled u f && flowBasin t f == flowBasin u f then s.setFlow f { s.flow f with port := none } else s.setFlow f .reset)

/-- Every port of a die that no turn changed but a quiesce held goes back to its probation (R377). -/
def State.turnQuiesced (s : State) (d : Nat) : State :=
  s.forEach (diePorts d) (fun s p =>
    if (s.port p).quiesced then s.setPort p { s.port p with quiesced := false, probCount := 0 } else s)

/-- The framed barges in flight whose check frame names a unit, with their basins. -/
def State.framedFlights (s : State) (u : Nat) : List (Nat × Desc) :=
  let names := fun (x : Nat × Desc) => x.2.framed && x.2.unit.toNat == u % 16
  (((s.cores.filter (fun e => e.1 / 256 == u / 16)).flatMap (fun e =>
      e.2.flight.barge.filterMap (fun x => x.desc.map (fun d => (e.2.basin, d))))) ++
    ((s.ringBarges.filter (fun x => x.cluster / 32 == u / 16)).map (fun x => (x.basin, x.desc)))).filter names

/-- What a check unit has open when its entry is replaced: the message it gathers, the interval of its link and the results
not yet compared, the barges that name it. -/
def State.formerCheck (s : State) (t : Sheets) (u : Nat) : FormerCheck :=
  let k := s.check u
  let mode := chkMode t u
  let linked := mode == 3 || mode == 4
  { entry := slice (t.body 14) (0x10 + 16 * u) 16, expected := k.expected,
    region := if linked ∨ (mode = 1 ∧ k.open_ = true) then k.region else [], interval := k.interval, results := k.results,
    barges := if mode = 5 then (s.framedFlights u).filter (fun x => x.1 == chkBasin t u) else [],
    running := linked && (s.link (chkTarget t u)).st.carries }

/-- Check units of a die whose entry changed start afresh (R486); a framed region already open completes under the old entry
(R73, R490). -/
def State.turnChecks (s : State) (t : Sheets) (d : Nat) : State :=
  s.forEach ((List.range 72).filter (fun i => checkDie i == d && chkChanged t (s.sheetsOn d) i)) (fun s i =>
    let k := s.check i
    s.setCheck i { k with expected := [], region := [], interval := 0, results := [], open_ := false,
                          formers := (k.formers ++ [s.formerCheck t i]).filter (fun x => !x.over) })

/-- The rings of the logs of a basin whose telemetry entry changed restart at 0 (R489, R508). -/
def State.turnTelemetry (s : State) (t : Sheets) : State :=
  s.forEach (basinIds.filter (fun b => slice (t.body 15) (0x10 + 32 * b) 32 != slice (s.sheets.body 15) (0x10 + 32 * b) 32))
    (fun s b =>
      let k := s.basin b
      let zero := fun (l : RunLog) => { l with head := 0, tail := 0 }
      s.setBasin b { k with phaseLog := zero k.phaseLog, numLog := zero k.numLog, sumLog := zero k.sumLog })

/-- What the exchange does to the blocks of a die, given the sheets that its keeper held active before. -/
def State.turnUnits (s : State) (t : Sheets) (d : Nat) (changed : List Nat) : State :=
  let on := fun (ty : Nat) (f : State → State) (s : State) => if changed.contains ty then f s else s
  let s := on 2 (fun s => s.turnClocks d) s
  let s := on 4 (fun s => s.turnTopology d) s
  let s := on 6 (fun s => s.turnMemory t d) s
  let s := on 5 (fun s => s.turnOwners t d) s
  let s := on 7 (fun s => s.turnPorts t d) s
  let s := s.turnQuiesced d
  on 14 (fun s => s.turnChecks t d) s

/-- What the exchange does to the package as a whole once every keeper that lives has exchanged its sheets: basins open, close
and change owner, the domains follow their rules, flows and logs their entries. -/
def State.turnPackage (s : State) (changed : List Nat) : State :=
  let t := s.nextSheets
  let on := fun (ty : Nat) (f : State → State) (s : State) => if changed.contains ty then f s else s
  let s := on 5 (fun s => s.forEach basinIds (fun s b => s.turnBasin t b)) s
  let s := if [4, 5, 7].any changed.contains then s.settleDomains else s
  let s := s.forEach [0, 1, 2, 3] (fun s d => s.settlePorts d)
  let s := s.forEach ((List.range 56).filter (fun p => (s.port p).st == .off)) (fun s p => s.initPort p)
  let s := on 7 (fun s => s.turnFlows t) s
  let s := on 15 (fun s => s.turnTelemetry t) s
  s.reopen

/-- A turn that has been swapped at every live keeper takes its effect on the package. Log entry 50. -/
def State.settleTurn (s : State) : State :=
  match s.pkg.turn with
  | none => s
  | some t =>
    if !t.swapped || t.settled || [0, 1, 2, 3, 4, 5].any (fun d => s.keeperLive d && !t.told.contains d) then s
    else (s.setTurn (some { t with settled := true })).turnPackage t.changed

end Sys2Proof.Machine
end

