-- ==== Sys2Proof/Machine/Quire.lean ====
section
/-!
DEFINITION. The administrator's commands on the quire (R74), the firmware device of the management bus (R75), and the live
turn's steps (R77-R79).
-/
namespace Sys2Proof.Machine

/-! ### Staging (R72, R74) -/

/-- A committed turn has still to write its selector record. -/
def State.committing (s : State) : Bool :=
  match s.pkg.turn with
  | some t => t.decision == some true
  | none => false

/-- Why a stage begin is refused, if it is. Until a committed turn has written its record, the slot that the record still names
is not staged over. Log entry 51. -/
def State.stageRefusal (s : State) (ch : Channel) : Option Nat :=
  if s.pkg.life = .returned ∨ s.pkg.life = .scrapped then some 8
  else if s.pkg.shadow = .turning ∨ s.committing then some 7
  else if s.pkg.shadow = .staging ∧ s.pkg.stager ≠ some ch then some 7
  else none

/-- Staging begins: Pending of the inactive slot is cleared first, then the slot is erased. -/
def State.beginStaging (s : State) (ch : Channel) : State :=
  let s := if s.pkg.pendingSlot then s.writeSelector s.pkg.activeSlot false s.pkg.quireSeq else s
  (s.flashErase (slotBase s.otherSlot) 0x4000000).setPkg
    { (s.flashErase (slotBase s.otherSlot) 0x4000000).pkg with shadow := .staging, stager := some ch }

/-- STAGE_BEGIN. -/
def execStageBegin (b : BasinId) (s : State) : Host.Outcome State Fault Refusal :=
  .next (s.command b 0x0010 true (fun a => a.length == 0) (fun _ t =>
    match t.stageRefusal (.basin b) with
    | some code => t.replyRefused b code
    | none => (t.beginStaging (.basin b)).replyDone b []))

/-- The arguments of stage data: offset, length of 1 to 4,096, that many bytes, all inside the slot. -/
def stageArgs (a : Bytes) : Bool :=
  decide (1 ≤ field a 4 4) && decide (field a 4 4 ≤ 4096) && a.length == 8 + field a 4 4 &&
  decide (field a 0 4 + field a 4 4 ≤ 0x4000000)

/-- Program bytes of the inactive slot; bytes written twice take the later value. Log entry 96. -/
def State.stageBytes (s : State) (off : Nat) (bs : Bytes) : State := s.flashWrite (slotBase s.otherSlot + off) bs

/-- STAGE_DATA. -/
def execStageData (b : BasinId) (s : State) : Host.Outcome State Fault Refusal :=
  .next (s.command b 0x0011 true stageArgs (fun a t =>
    if t.pkg.shadow ≠ .staging then t.replyRefused b 1
    else (t.stageBytes (field a 0 4) (a.drop 8)).replyDone b []))

/-- STAGE_END. -/
def execStageEnd (b : BasinId) (s : State) : Host.Outcome State Fault Refusal :=
  .next (s.command b 0x0012 true (fun a => a.length == 0) (fun _ t =>
    if t.pkg.shadow ≠ .staging then t.replyRefused b 1
    else (t.setPkg { t.pkg with shadow := .staged, stager := none }).replyDone b []))

/-- Validate the inactive slot (R70): the shadow copies take a valid quire; the code is kept. -/
def State.runValidate (s : State) : State × ValidateOut :=
  let v := s.checkSlot (s.validateIn false) s.otherSlot
  let s := s.setPkg { s.pkg with shadow := if v.code = 0 then .valid else .invalid, lastCode := v.code, lastSheet := v.sheet,
                                 lastDie := 0 }
  (if v.code = 0 then
    s.forEach [0, 1, 2, 3, 4, 5] (fun s d =>
      s.setDie d { s.die d with shadow := keeperSheets v.sheets, shadowSeq := BitVec.ofNat 64 v.seq })
   else s, v)

/-- VALIDATE. Log entry 97. -/
def execValidate (b : BasinId) (s : State) : Host.Outcome State Fault Refusal :=
  .next (s.command b 0x0013 true (fun a => a.length == 0) (fun _ t =>
    if t.pkg.shadow ≠ .staged then t.replyRefused b 1
    else
      let r := t.runValidate
      r.1.answer (.basin b) 0x0013 r.2.code r.2.sheet 0xFFFF))

/-! ### Turns (R76, R77) -/

/-- Why the head keeper refuses a turn at once, if it does. Log entry 51. -/
def State.turnRefusal (s : State) : Option Nat :=
  let c := s.changedSheets
  if s.pkg.life = .returned ∨ s.pkg.life = .scrapped then some 8
  else if s.pkg.turn.isSome ∨ s.pkg.shadow = .staging ∨ s.pkg.shadow = .turning then some 7
  else if s.pkg.shadow ≠ .valid then some 1
  else if c.contains 8 || c.contains 12 then some 4
  else none

/-- A live turn is requested: PREPARE goes out with T at lock cycle L + 200; a longer wait is clamped (R81). -/
def State.requestTurn (s : State) (ch : Channel) (wait : Nat) : State :=
  match s.turnRefusal with
  | some code => (s.setPkg { s.pkg with lastCode := code, lastSheet := 0, lastDie := 0 }).answer ch 0x14 code 0 0
  | none =>
    let t : Turn :=
      { caller := ch, requested := s.lockCycle, waitMs := min wait (trustMaxWait s.sheets), started := s.lockCycle,
        boundary := s.lockCycle + 200, seq := (s.die s.pkg.head).shadowSeq, changed := s.changedSheets, votes := [],
        received := [], decision := none, standby := none, told := [], holds := [], swapped := false, acks := [],
        settled := false, writing := false, code := 0, die := 0, sheet := 0 }
    s.setPkg { s.pkg with shadow := .turning, turn := some t }

/-- TURN. Log entry 51. -/
def execTurn (b : BasinId) (s : State) : Host.Outcome State Fault Refusal :=
  .next (s.command b 0x0014 true (fun a => a.length == 2) (fun a t => t.requestTurn (.basin b) (field a 0 2)))

/-- A turn at reset sets Pending for the inactive slot. -/
def State.pendTurn (s : State) : State := s.writeSelector s.pkg.activeSlot true s.pkg.quireSeq

/-- TURN_AT_RESET. -/
def execTurnAtReset (b : BasinId) (s : State) : Host.Outcome State Fault Refusal :=
  .next (s.command b 0x0015 true (fun a => a.length == 0) (fun _ t =>
    if t.pkg.shadow ≠ .valid then t.replyRefused b 1 else t.pendTurn.replyDone b []))

/-- The code of SHADOW in KPR_QUIRE_STATUS (R499). -/
def ShadowState.code : ShadowState → Nat
  | .empty => 0
  | .staging => 1
  | .staged => 2
  | .valid => 3
  | .invalid => 4
  | .turning => 5

/-- QUIRE_QUERY: both slot sequences, the shadow state and the last code. Log entry 96. -/
def execQuireQuery (b : BasinId) (s : State) : Host.Outcome State Fault Refusal :=
  .next (s.command b 0x0016 true (fun a => a.length == 0) (fun _ t =>
    t.replyDone b (t.slotRead 0 0x10 8 ++ t.slotRead 1 0x10 8 ++ leBytes 1 t.pkg.shadow.code ++ leBytes 1 t.pkg.lastCode)))

/-- TURN_PREPARE: a keeper votes on its gates, and holds them when it votes YES. -/
def execTurnPrepare (d : DieId) (s : State) : Host.Outcome State Fault Refusal :=
  .next (match s.pkg.turn with
    | none => s
    | some t =>
      if t.decision.isSome ∨ !s.keeperLive d ∨ (nget (fun _ => none) t.votes d).isSome then s
      else
        let v := s.voteOf d t
        s.setTurn (some { t with votes := ninsert t.votes d (some v), holds := if v.yes then t.holds ++ [d.val] else t.holds }))

/-- TURN_VOTE: the first NO aborts, the sixth YES commits. Log entry 1. -/
def execTurnVote (d : DieId) (s : State) : Host.Outcome State Fault Refusal :=
  .next (match s.pkg.turn with
    | none => s
    | some t =>
      match nget (fun _ => none) t.votes d with
      | none => s
      | some v =>
        if t.decision.isSome ∨ (nget (fun _ => none) t.received d).isSome then s
        else
          let t := { t with received := ninsert t.received d (some v) }
          if !v.yes then s.abortTurn t v.code v.sheet d
          else if t.received.length = 6 then s.commitTurn t
          else s.setTurn (some t))

/-- TURN_VOTE_DEADLINE: L + 100 has passed with a vote missing. -/
def execTurnVoteDeadline (s : State) : Host.Outcome State Fault Refusal :=
  .next (match s.pkg.turn with
    | none => s
    | some t =>
      if t.decision.isSome ∨ s.lockCycle < t.started + 100 then s
      else
        let missing := ([0, 1, 2, 3, 4, 5].find? (fun d => (nget (fun _ => none) t.received d).isNone)).getD 0
        s.abortTurn t 5 0 missing)

/-- Exchange the changed sheets of a die: its blocks follow their new sheets. -/
def State.swapDie (s : State) (d : Nat) (changed : List Nat) : State :=
  (s.setDie d ((s.die d).exchange changed)).turnUnits (s.sheetsOn d) d changed

/-- TURN_DECISION: a keeper learns the decision. On ABORT it releases its holds at once; a COMMIT that comes after T is
applied at once (R79). Log entry 50. -/
def execTurnDecision (d : DieId) (s : State) : Host.Outcome State Fault Refusal :=
  .next (match s.pkg.turn with
    | none => s
    | some t =>
      if !s.keeperLive d then s
      else match t.decision with
        | none => s
        | some false =>
          if !t.holds.contains d.val then s
          else
            let t := { t with holds := t.holds.filter (· != d.val) }
            s.setTurn (if t.holds = [] ∧ t.waitMs = 0 then none else some t)
        | some true =>
          if t.told.contains d.val then s
          else if t.swapped then
            ((s.swapDie d t.changed).setTurn (some { t with told := t.told ++ [d.val], holds := t.holds.filter (· != d.val) })).settleTurn
          else s.setTurn (some { t with told := t.told ++ [d.val] }))

/-- TURN_SWAP: boundary T has come: every keeper that knows the COMMIT exchanges its pointers and releases its holds; the blocks
of its die follow their new sheets, those of a keeper without the decision do not (R79). Log entry 50. -/
def execTurnSwap (s : State) : Host.Outcome State Fault Refusal :=
  .next (match s.pkg.turn with
    | none => s
    | some t =>
      if t.decision ≠ some true ∨ t.swapped ∨ s.lockCycle < t.boundary then s
      else
        let s := s.forEach (t.told.filter (fun d => s.keeperLive d)) (fun s d => s.swapDie d t.changed)
        (s.setPkg { s.pkg with
          activeSlot := s.otherSlot, quireSeq := t.seq, volatileQuire := false
          turn := some { t with swapped := true, holds := t.holds.filter (fun d => !t.told.contains d) } }).settleTurn)

/-- TURN_ACK: a keeper that has exchanged acknowledges; after the last the selector write begins. -/
def execTurnAck (d : DieId) (s : State) : Host.Outcome State Fault Refusal :=
  .next (match s.pkg.turn with
    | none => s
    | some t =>
      if !t.swapped ∨ !t.told.contains d.val ∨ t.acks.contains d.val then s
      else
        let t := { t with acks := t.acks ++ [d.val] }
        let all := [0, 1, 2, 3, 4, 5].all (fun n => t.acks.contains n || !s.keeperLive n)
        (s.setTurn (some { t with writing := all })).settleTurn)

/-- SELECTOR_WRITE_COMPLETE: the record names the newly active slot; the turn reports 0x00. -/
def execSelectorWriteComplete (s : State) : Host.Outcome State Fault Refusal :=
  .next (match s.pkg.turn with
    | none => s
    | some t =>
      if !t.writing then s
      else
        let s := s.writeSelector s.pkg.activeSlot false s.pkg.quireSeq
        let s := s.setPkg { s.pkg with turn := none, lastCode := 0, lastSheet := 0, lastDie := 0 }
        s.answer t.caller 0x14 0 0 0)

/-- TURN_RETRY: after an ABORT with 0x03, every 1,000 lock cycles, until the wait limit expires; then the last code is
reported (R78). A shadow set that is being staged over meanwhile ends the turn with 0x01. Log entries 50 and 51. -/
def execTurnRetry (s : State) : Host.Outcome State Fault Refusal :=
  .next (match s.pkg.turn with
    | none => s
    | some t =>
      if t.decision ≠ some false ∨ t.waitMs = 0 ∨ s.lockCycle < t.started + 1000 then s
      else if s.pkg.shadow ≠ .valid then s.endAbort { t with code := 1, sheet := 0, die := 0 }
      else if t.requested + 1000 * t.waitMs ≤ s.lockCycle then s.endAbort t
      else
        s.setPkg { s.pkg with
          shadow := .turning
          turn := some { t with started := s.lockCycle, boundary := s.lockCycle + 200, votes := [], received := [],
                                decision := none, standby := none, told := [], holds := [] } })

/-- TURN_DECISION_QUERY_TIMEOUT: a keeper that holds at T without a decision got no answer within 1 ms: a keeper fault of
its die (R79). -/
def execTurnDecisionQueryTimeout (d : DieId) (s : State) : Host.Outcome State Fault Refusal :=
  .next (match s.pkg.turn with
    | none => s
    | some t =>
      if !t.holds.contains d.val ∨ t.told.contains d.val ∨ s.lockCycle < t.boundary + 1000 then s
      else s.raise 0x0B05 d 0xFF 0xFFFF 0 0)

/-! ### The firmware device of the management bus (R75, R63) -/

/-- The management bus is an administrator (R81). -/
def State.adminMgmt (s : State) : Bool := bitOf (trustAdmin s.sheets) 8

/-- Start staging over the management bus; without a valid slot the package accepts a recovery quire, but none in RETURNED or
SCRAPPED (R74, R99). -/
def execPldmRequestUpdate (s : State) : Host.Outcome State Fault Refusal :=
  .next (if !s.mgmtUp then s
    else if s.pkg.phase = .noSlot then
      if s.pkg.life = .returned ∨ s.pkg.life = .scrapped then s.emit (.pldmResult 8)
      else
        let s := s.setPkg { s.pkg with activeSlot := 1, pldmUpdate := true, shadow := .staging, stager := some .mgmt,
                                       volatileQuire := !s.pkg.flashReadable, volatileImage := [] }
        let s := if s.pkg.flashReadable then s.flashErase (slotBase 0) 0x4000000 else s
        s.emit (.pldmResult 0)
    else if s.pkg.phase ≠ .ready then s
    else if !s.adminMgmt then s.emit (.pldmResult 2)
    else match s.stageRefusal .mgmt with
      | some code => s.emit (.pldmResult code)
      | none =>
        let t := s.beginStaging .mgmt
        (t.setPkg { t.pkg with pldmUpdate := true }).emit (.pldmResult 0))

/-- What follows the last transfer (R75): TransferComplete, VerifyComplete with the result, and after a success ApplyComplete. -/
def State.pldmVerified (s : State) (code : Nat) : State :=
  let s := (s.emit .pldmTransfer).emit (.pldmResult code)
  if code = 0 then s.emit .pldmApply else s

/-- Bytes of a recovery quire go to slot A, or to keeper SRAM when the flash takes no writes. -/
def State.recoveryBytes (s : State) (off : Nat) (bs : Bytes) : State :=
  if s.pkg.volatileQuire then
    s.setPkg { s.pkg with volatileImage := bs.zipIdx.foldl (fun m e => nset (fun _ => 0) m (off + e.2) e.1) s.pkg.volatileImage }
  else s.flashWrite (slotBase 0 + off) bs

/-- Read the recovery quire back. -/
def State.recoveryRead (s : State) (off n : Nat) : Bytes :=
  if s.pkg.volatileQuire then (List.range n).map (fun i => nget (fun _ => 0) s.pkg.volatileImage (off + i))
  else s.flashRead (slotBase 0 + off) n

/-- Validation of a recovery quire: every check of R70 but the sequence. -/
def State.checkRecovery (s : State) : ValidateOut :=
  validateSlot { s.validateIn true with readable := true } s.recoveryRead

/-- PLDM_FIRMWARE_DATA: a stage data write; after the last, TransferComplete, the validation of the staged quire and its result.
-/
def execPldmFirmwareData (offset : W32) (data : Bytes) (last : Bool) (s : State) : Host.Outcome State Fault Refusal :=
  .next (if !s.mgmtUp ∨ !s.pkg.pldmUpdate ∨ s.pkg.shadow ≠ .staging ∨ s.pkg.stager ≠ some .mgmt ∨
        0x4000000 < offset.toNat + data.length then s
    else if s.pkg.phase = .noSlot then
      let t := s.recoveryBytes offset.toNat data
      if !last then t
      else
        let v := t.checkRecovery
        (t.setPkg { t.pkg with shadow := if v.code = 0 then .valid else .invalid, lastCode := v.code, lastSheet := v.sheet,
                               stager := none, pldmUpdate := v.code == 0 }).pldmVerified v.code
    else
      let t := s.stageBytes offset.toNat data
      if !last then t
      else
        let r := (t.setPkg { t.pkg with shadow := .staged, stager := none }).runValidate
        (r.1.setPkg { r.1.pkg with pldmUpdate := r.2.code == 0 }).pldmVerified r.2.code)

/-- PLDM_ACTIVATE_FIRMWARE: a live turn with wait limit 0, or a turn at reset; a recovery quire becomes the active one and
the start goes on (R63, R75). A bus that a turn has taken out of the administrator mask may turn nothing (R74, R81). -/
def execPldmActivateFirmware (selfContained : Bool) (s : State) : Host.Outcome State Fault Refusal :=
  .next (if !s.mgmtUp ∨ !s.pkg.pldmUpdate then s
    else if s.pkg.phase = .noSlot then
      if s.pkg.shadow ≠ .valid then s
      else
        let v := s.checkRecovery
        let t := (s.setPkg { s.pkg with shadow := .empty, pldmUpdate := false }).adoptQuire 0 v
        if t.pkg.volatileQuire then t.raise 0x0F03 t.pkg.head 0xFF 0xFFFF 0 0
        else t.writeSelector 0 false t.pkg.quireSeq
    else if s.pkg.phase ≠ .ready then s
    else if !s.adminMgmt then s.emit (.pldmResult 2)
    else
      let t := s.setPkg { s.pkg with pldmUpdate := false }
      if selfContained then t.requestTurn .mgmt 0
      else if t.pkg.shadow ≠ .valid then t.emit (.pldmResult 1)
      else t.pendTurn.emit (.pldmResult 0))

end Sys2Proof.Machine
end

