-- ==== Sys2Proof/Machine/Flags.lean ====
section
/-!
DEFINITION. The status words of the register reference (R499-R502, R504, R507), the records and logs as bytes behind
registers (R453, R488, R480), and the register at an offset of a die's slice or of the package region (R495-R498).
-/
namespace Sys2Proof.Machine

/-! ### Field maps (R499-R502) -/

def State.quireStatus (s : State) : Nat :=
  let p := s.pkg
  p.lastDie % 8 * 2 ^ 24 + p.lastSheet % 256 * 2 ^ 16 + p.lastCode % 256 * 2 ^ 8 + boolBit p.flashDegraded * 64 +
    boolBit p.volatileQuire * 32 + boolBit p.pendingSlot * 16 + p.activeSlot % 2 * 8 + p.shadow.code

def State.dieState (s : State) : Nat :=
  s.pkg.head * 2 ^ 16 + maskWhere 6 (fun d => (s.die d).isolated) * 2 ^ 8 + maskWhere 6 (fun d => (s.die d).inService)

/-- Spares that hold a logical cluster. -/
def State.sparesUsed (s : State) (d : Nat) : Nat :=
  ((topSpares (s.sheetsOn d) d).filter (fun p => decide (p < 36) && (s.die d).map.contains p)).eraseDups.length

def State.kprRetire (s : State) (d : Nat) : Nat :=
  let k := s.die d
  (k.fuses >>> 32) % 16 * 2 ^ 32 + s.sparesUsed d % 16 * 2 ^ 44 + min 255 k.skipped.length * 2 ^ 48 + k.fuses % 2 ^ 32

def State.clkStatus (s : State) (d : Nat) : Nat :=
  let k := s.die d
  boolBit (k.pllLock || k.holdover) * 32 + boolBit (!k.refQual0 && !k.refQual1) * 16 + boolBit k.holdover * 8 +
    k.refInUse % 2 * 4 + boolBit k.refQual1 * 2 + boolBit k.refQual0

def State.govStatus (s : State) : Nat :=
  s.pkg.c % 4096 * 2 ^ 16 + boolBit s.pkg.overTemp * 1024 + boolBit s.pkg.capUnattainable * 512 + s.pkg.f % 512

def State.seqStatus (s : State) (c : Nat) : Nat :=
  let k := s.core c
  k.tag.toNat * 2 ^ 16 + min 255 k.drawClamp * 2 ^ 8 + k.ctx.code

def PortState.code : PortState → Nat
  | .off => 0
  | .down => 1
  | .probation => 2
  | .up => 3
  | .fastRetrain => 4

def State.portStatus (s : State) (p : Nat) : Nat :=
  let k := s.port p
  boolBit k.reversed * 2 ^ 29 + boolBit k.polFixed * 2 ^ 28 + k.lastFail % 16 * 2 ^ 24 + k.dcDisabled.toNat * 2 ^ 16 +
    k.good.toNat * 2 ^ 8 + k.width % 4 * 64 + towMode (s.sheetsOn (p / 14)) p % 4 * 16 + k.st.code

def LinkState.code : LinkState → Nat
  | .down => 0
  | .training => 1
  | .active => 2
  | .narrow => 3
  | .severed => 4

def State.linkStatus (s : State) (l : Nat) : Nat :=
  let k := s.link l
  k.goodMask.toNat * 2 ^ 16 + k.attempts % 4 * 2 ^ 10 + boolBit k.kettle * 2 ^ 9 + boolBit k.rate16 * 2 ^ 8 +
    k.width % 32 * 8 + k.st.code

/-- STC_LINK_DETAIL as die d reads it; its partner is known once records have been exchanged. -/
def State.linkDetail (s : State) (d l : Nat) : Nat :=
  let k := s.link l
  let e := linkEnds l
  let far := if e.1 = d then e.2 else e.1
  let seen := if e.1 = d then k.record1.isSome else k.record0.isSome
  (if seen || k.st.carries then far else 0xFF) * 256 + k.detail

/-- The status word of a kettle line. -/
def State.kettleStatus (s : State) (line : Nat) : Nat :=
  let own := lineOwner s.sheets line
  nget (fun _ => 0) s.kettleDepartures line % 65536 * 2 ^ 16 + boolBit own.isSome * 16 + own.getD 0 * 2 +
    boolBit (nget (fun _ => false) s.kettleShort line)

def BasinState.code : BasinState → Nat
  | .closed => 0
  | .opening => 1
  | .open => 2
  | .resetting => 3
  | .unavailable => 4

/-- The index of a slice state in SLC_STATUS (R326). -/
def SliceState.index : SliceState → Nat
  | .empty => 0
  | .gathering => 1
  | .closed => 2
  | .norming => 3
  | .updating => 4
  | .broadcasting => 5
  | .done => 6

/-- BSN_STATUS (R504). -/
def State.bsnStatus (s : State) (b : Nat) : Nat :=
  let k := s.basin b
  k.epoch.toNat * 2 ^ 16 + boolBit k.mboxOverrun * 128 + boolBit k.mboxDone * 64 + boolBit k.mboxCmd.isSome * 32 + k.st.code

/-! ### Bytes behind registers -/

/-- The 32-bit word at an offset of a byte string; zero beyond its end. -/
def wordAt (bs : Bytes) (off : Nat) : Nat := field bs off 4

/-- A check record (R488). -/
def CheckRec.bytes (r : CheckRec) : Bytes :=
  leBytes 1 r.kind ++ leBytes 1 r.mode ++ leBytes 2 r.unit ++ leBytes 2 r.target.toNat ++ leBytes 2 r.received.toNat ++
    leBytes 2 r.expected.toNat ++ leBytes 1 r.basin ++ leBytes 1 r.algorithm ++ leBytes 4 r.bucket.toNat ++
    leBytes 8 r.computed.toNat ++ leBytes 8 r.expectedCrc.toNat ++ leBytes 8 r.timebase.toNat ++ List.replicate 8 0

/-- The slots of a log of n entries: its entries from the first slot on, an overflow entry in the last slot (R453, R461). -/
def logSlot (n : Nat) (l : List LogEntry) (i : Nat) : LogEntry :=
  if i = n - 1 then (l.find? (fun e => e.code == 0x1001)).getD .blank
  else (l.filter (fun e => e.code != 0x1001)).getD i .blank

/-- The history entry in a slot (R480); the list holds the newest first. -/
def State.historySlot (s : State) (i : Nat) : LogEntry :=
  let n := s.pkg.histCount
  s.pkg.history.getD ((n + 4096 - 1 - i) % 4096) .blank

/-! ### Endpapers behind their selects (R507, R464) -/

/-- Every endpaper a die stores. -/
def Die.endpapers (k : Die) : List Endpaper := k.localRing ++ k.procRegion ++ k.spineRegion

/-- The flash set that is current (R465). -/
def State.currentSet (s : State) : List Endpaper :=
  let seqOf := fun (l : List Endpaper) => (l.find? (fun e => e.scope == 4)).map (fun e => e.setSeq)
  match seqOf s.pkg.setA, seqOf s.pkg.setB with
  | some a, some b => if a = b ∨ (a - b).toNat < 2 ^ 31 then s.pkg.setA else s.pkg.setB
  | some _, none => s.pkg.setA
  | none, some _ => s.pkg.setB
  | none, none => []

/-- What the administrator sees; the HBM that holds an endpaper must be present. -/
def State.adminEndpapers (s : State) : List Endpaper :=
  ([0, 1, 2, 3].filter s.hbmPresent).flatMap (fun d => (s.die d).endpapers) ++ s.pkg.kept ++ s.currentSet

/-- What a basin sees: its own, with its present owner tag. -/
def State.basinEndpapers (s : State) (b : Nat) : List Endpaper :=
  s.adminEndpapers.filter (fun e => e.basin == b && e.ownerTag.toNat == bsnTag s.sheets b)

/-- The newest of a list: the highest sequence. -/
def newestEndpaper : List Endpaper → Option Endpaper
  | [] => none
  | e :: es => match newestEndpaper es with
    | some x => if x.seq.toNat < e.seq.toNat then some e else some x
    | none => some e

/-- The endpaper that a select names among the visible ones. -/
def selectedEndpaper (l : List Endpaper) (sel : W32) : Option Endpaper :=
  if sel = 0 then newestEndpaper l else l.find? (fun e => e.seq == sel)

/-- The page register: FOUND and PAGE. -/
def endpaperPage (l : List Endpaper) (sel page : W32) : Nat :=
  boolBit (selectedEndpaper l sel).isSome * 2 ^ 31 + page.toNat % 65536

def endpaperLast (l : List Endpaper) : Nat := ((newestEndpaper l).map (fun e => e.seq.toNat)).getD 0

/-- A word of the endpaper window. -/
def endpaperWord (l : List Endpaper) (sel page : W32) (off : Nat) : Nat :=
  match selectedEndpaper l sel with
  | some e => wordAt e.bytes (page.toNat % 65536 * 0x8000 + off)
  | none => 0

/-! ### Registers by region and offset (R495-R498) -/

/-- Whether the register's die or unit is absent: an isolated die, or a unit in reset (R494). -/
def State.regAbsent (s : State) (region off : Nat) : Bool :=
  if 6 ≤ region then false
  else
    (s.die region).isolated ||
    (decide (0x1000000 ≤ off) && decide (off < 0x3000000) && decide (region < 4) &&
      (let c := 32 * region + (off - 0x1000000) / 0x100000
       !s.clusterPresent c || (clusterOwner s.sheets c).isNone))

/-- A register pair by its LO register: the counters, KPR_RETIRE and TWP_PEER. -/
def State.pair (s : State) (region off : Nat) : Option Nat :=
  match s.counter region off with
  | some v => some v
  | none =>
    if region < 4 ∧ off = 0 then some (s.kprRetire region)
    else if region < 4 ∧ 0x5000000 ≤ off ∧ off < 0x500E000 ∧ off % 0x1000 = 0x40 then
      some (s.port (14 * region + (off - 0x5000000) / 0x1000)).peerSerial.toNat
    else none

/-- The single registers of a core block. -/
def State.coreWord (s : State) (c off : Nat) : Option Nat := if off = 0 then some (s.seqStatus c) else none

/-- The slices that a die's sluice owns in a state of R326. Of a bucket that has moved on, only its newest step counts, but a
slice of an active step of which nothing has been received is EMPTY whether or not it has an entry here. Log entry 105. -/
def State.slicesIn (s : State) (d st : Nat) : Nat :=
  if st ≠ 0 then
    (s.slices.filter (fun x => x.key.die.val == d && x.st.index == st &&
      !s.slices.any (fun y => y.key.basin == x.key.basin && y.key.die == x.key.die && y.key.bucket == x.key.bucket &&
        y.st != .empty && y.key.step == x.key.step + 1))).length
  else
    (s.steps.map (fun y => (y.table.filter (fun e =>
      let p := slcP (s.sheetsOn d) y.basin
      decide (0 < sliceLen p e.n (4 * slcMember (s.sheetsOn d) y.basin + d)) &&
        !s.slices.any (fun x => x.key.basin.val == y.basin && x.key.die.val == d && x.key.bucket == e.id &&
          x.key.step == y.step.setWidth 32 && x.st != .empty))).length)).sum

/-- The single registers of a die's slice; none where nothing is listed. -/
def State.sliceWord (s : State) (d off : Nat) : Option Nat :=
  let k := s.die d
  if d < 4 ∧ 0x20 ≤ off ∧ off < 0x40 then
    some (wordAt (k.map.map (BitVec.ofNat 8)) (off - 0x20))
  else if off = 0x40 then some (s.clkStatus d)
  else if 0x10000 ≤ off ∧ off < 0x10800 then
    some (wordAt (logSlot 64 k.log ((off - 0x10000) / 32)).bytes ((off - 0x10000) % 32))
  else if d < 4 ∧ 0x1000000 ≤ off ∧ off < 0x3000000 then
    let o := (off - 0x1000000) % 0x100000
    if 0x1000 ≤ o ∧ o < 0x9000 then
      s.coreWord (8 * (32 * d + (off - 0x1000000) / 0x100000) + (o - 0x1000) / 0x1000) (o % 0x1000)
    else none
  else if d < 4 ∧ 0x4000000 ≤ off ∧ off < 0x400001C then
    some (s.slicesIn d ((off - 0x4000000) / 4))
  else if d < 4 ∧ 0x5000000 ≤ off ∧ off < 0x500E000 then
    if off % 0x1000 = 0 then some (s.portStatus (14 * d + (off - 0x5000000) / 0x1000)) else none
  else if 0x6000000 ≤ off ∧ off < 0x6003000 then
    match linkAt d ((off - 0x6000000) / 0x1000) with
    | none => none
    | some l =>
      if off % 0x1000 = 0 then some (s.linkStatus l) else if off % 0x1000 = 4 then some (s.linkDetail d l) else none
  else if 0x7000000 ≤ off ∧ off < 0x7010000 then
    match checkAt d ((off - 0x7000000) / 0x1000) with
    | none => none
    | some u =>
      let o := off % 0x1000
      if o < 0x30 then some (match (s.check u).records with | r :: _ => wordAt r.bytes o | [] => 0)
      else if o = 0x30 then some (s.check u).records.length
      else if o = 0x38 then some 0
      else none
  else none

/-- The single registers of the package region. -/
def State.pkgWord (s : State) (off : Nat) : Option Nat :=
  let p := s.pkg
  let eps := s.adminEndpapers
  if off = 0 then some s.quireStatus
  else if off = 4 then some s.dieState
  else if off = 8 then some s.govStatus
  else if off = 0xC then some (p.w % 65536)
  else if off = 0x18 then some (leValue ([0, 1, 2, 3].map (fun d => BitVec.ofNat 8 (s.die d).freeboard)))
  else if 0x100 ≤ off ∧ off < 0x120 then
    let b := (off - 0x100) / 4
    some (if bsnEnabled s.sheets b then (s.basin b).scale % 512 else 256)
  else if 0x120 ≤ off ∧ off < 0x138 then some ((s.die ((off - 0x120) / 4)).thermal % 512)
  else if 0x1000 ≤ off ∧ off < 0x3000 then some (wordAt (logSlot 256 p.log ((off - 0x1000) / 32)).bytes (off % 32))
  else if off = 0x4000 then some (p.histSelect % 4096)
  else if off = 0x4008 then some (p.histCount % 4096 + boolBit (decide (4096 < p.histCount)) * 4096)
  else if 0x4020 ≤ off ∧ off < 0x4040 then some (wordAt (s.historySlot (p.histSelect % 4096)).bytes (off - 0x4020))
  else if off = 0x5000 then some p.epSelect.toNat
  else if off = 0x5004 then some (endpaperPage eps p.epSelect p.epPage)
  else if off = 0x5008 then some (endpaperLast eps)
  else if 0x8000 ≤ off ∧ off < 0x10000 then some (endpaperWord eps p.epSelect p.epPage (off - 0x8000))
  else if 0x20000 ≤ off ∧ off < 0x20100 then
    some (if off % 8 = 0 then (nget (fun _ => 0) s.kettleGen ((off - 0x20000) / 8)).toNat else s.kettleStatus ((off - 0x20000) / 8))
  else none

/-- A single register of a die's slice or of the package region. -/
def State.single (s : State) (region off : Nat) : Option Nat :=
  if region < 6 then s.sliceWord region off else if region = 6 then s.pkgWord off else none

end Sys2Proof.Machine
end

