-- ==== Sys2Proof/Machine/Towpath.lean ====
section
/-!
DEFINITION. The towpath's commands (13_towpath): training, loss and probation, native and Ethernet reception, flows, time
synchronisation, and the quiesce of a port.
-/
namespace Sys2Proof.Machine

/-! ### Training (R355-R358, R370) -/

/-- TRAINING_ATTEMPT: a down port starts an attempt after its DC check. -/
def execTrainingAttempt (p : PortId) (shorted : Byte) (s : State) : Host.Outcome State Fault Refusal :=
  let k := s.port p
  .next (if !s.pkg.pkgReady ∨ k.st ≠ .down ∨ k.training ∨ s.portHeld p ∨ !s.domainOn (6 * portDie p + 4) then s
    else
      let fresh := shorted &&& ~~~k.dcDisabled
      let s := s.setPort p { k with dcDisabled := k.dcDisabled ||| shorted, training := true }
      if fresh = 0 then s else s.portError 0x0902 p)

/-- Why an attempt fails, as LAST_FAIL codes it, or the agreed width and first lane. -/
def State.trainVerdict (s : State) (p : Nat) (o : TrainOutcome) : Nat ⊕ (Nat × Nat × Byte) :=
  let enabled := ~~~(s.port p).dcDisabled
  let locked := o.locked &&& enabled
  let trained := o.trained &&& locked
  let ids := o.idGood &&& trained
  let good := ids &&& o.peerGood
  if enabled = 0 then .inl 1
  else if locked = 0 then .inl 2
  else if trained = 0 then .inl 3
  else if ids = 0 ∨ o.peerMode.toNat ≠ towMode (s.sheetsOn (portDie p)) p ∨ (s.portNative p ∧ o.order = .other) then .inl 4
  else if s.portEthernet p then
    if good ≠ 0xFF then .inl 7 else if !o.inTime then .inl 6 else .inr (0, 0, good)
  else match widestGroup (towWidth (s.sheetsOn (portDie p)) p) good.toNat with
    | none => .inl 5
    | some g => if !o.inTime then .inl 6 else .inr (g.1, g.2, good)

/-- PORT_TRAINED: the attempt ends: failed, or the port is UP, or in PROBATION when it or its peer's port returns, or while
it is quiesced. Log entry 47. -/
def execPortTrained (p : PortId) (o : TrainOutcome) (s : State) : Host.Outcome State Fault Refusal :=
  let k := s.port p
  .next (if k.st ≠ .down ∨ !k.training then s
    else match s.trainVerdict p o with
      | .inl code => s.setPort p { k with training := false, lastFail := code }
      | .inr (w, first, good) =>
        let k' := { Port.reset with
          dcDisabled := k.dcDisabled, good := good, width := w, firstLane := first
          polFixed := o.inverted &&& good != 0, reversed := o.order == .reversed, lastFail := 0, peerSerial := o.peerSerial
          peerStratum := o.peerStratum.toNat, everUp := k.everUp, quiesced := k.quiesced, txFrames := k.txFrames
          fecCorr := s.fecTotal p, fecUncorr := k.fecUncorr, naks := k.naks, rxDrop := k.rxDrop, slowRx := k.slowRx
          st := .probation, sample := k.sample, held := k.held }
        let s := s.setPort p k'
        let s := if towWidth (s.sheetsOn (portDie p)) p < w then s.portError 0x0904 p else s
        if k.everUp ∨ o.peerReturning ∨ k.quiesced then s.pump p else s.portUp p)

/-- A loss (R360): a native port with a good lane left retrains fast, any other goes DOWN; its flows fail over. -/
def State.losePort (s : State) (p : Nat) (lost : Byte) : State :=
  let k := s.port p
  let left := k.good &&& ~~~lost
  if s.portNative p ∧ left ≠ 0 then
    (s.setPort p { k with st := .fastRetrain, fromUp := k.st == .up, good := left, naksInRow := 0 }).rerouteAll p
  else (s.portDown p).portError 0x0901 p

/-- PORT_LOSS: lanes lose signal or clock lock, or FEC alignment is lost. -/
def execPortLoss (p : PortId) (lost : Byte) (s : State) : Host.Outcome State Fault Refusal :=
  .next (if !(s.port p).st.carries then s else s.losePort p lost)

/-- FAST_RETRAIN_COMPLETE: back to the state the port came from, at the width its lanes give, or DOWN (R359, R360). -/
def execFastRetrainComplete (p : PortId) (good : Byte) (ok : Bool) (s : State) : Host.Outcome State Fault Refusal :=
  let k := s.port p
  .next (if k.st ≠ .fastRetrain then s
    else
      let left := k.good &&& good
      match (if ok then widestGroup (towWidth (s.sheetsOn (portDie p)) p) left.toNat else none) with
      | none => (s.portDown p).portError 0x0901 p
      | some (w, first) =>
        let s := s.setPort p { k with good := left, width := w, firstLane := first, st := .probation, probCount := 0 }
        let s := if k.width < w then s.portError 0x0904 p else s
        if k.fromUp then (s.portUp p).pump p else s.pump p)

/-- PROBATION_PASSED: both ends have received the count of error-free frames (R370). -/
def execProbationPassed (p : PortId) (s : State) : Host.Outcome State Fault Refusal :=
  let k := s.port p
  .next (if k.st ≠ .probation ∨ k.quiesced ∨ k.probCount < towProbation (s.sheetsOn (portDie p)) p then s else s.portUp p)

/-- PROBATION_TIMEOUT: 1 s without passing (R359). -/
def execProbationTimeout (p : PortId) (s : State) : Host.Outcome State Fault Refusal :=
  let k := s.port p
  .next (if k.st ≠ .probation ∨ k.quiesced then s else (s.portDown p).portError 0x0903 p)

/-! ### Native reception (R361-R365) -/

/-- DATA_FRAME: the bytes of a data frame arrive: damaged ones are handled as an uncorrectable frame, others enter the buffer in
sequence. A port in PROBATION takes class 3 only (R359). -/
def execDataFrame (p : PortId) (raw : Bytes) (s : State) : Host.Outcome State Fault Refusal :=
  .next (s.onFrame p raw (· == 1) (fun f s =>
    if (s.port p).st = .probation ∧ f.cls ≠ 3 then s else s.receiveData p f))

/-- Frames up to the last sequence leave the replay buffer, and the cumulative counts return credits. -/
def State.acknowledge (s : State) (p : Nat) (f : TowFrame) : State :=
  let k := s.port p
  let counts := (List.range 4).map (fun c => BitVec.ofNat 32 (field f.payload (4 * c) 4))
  let gone := k.replay.filter (fun x => (f.seq - x.frame.seq).toNat < 0x8000)
  let credits := (List.range 4).map (fun c => k.credits.getD c 0 + (counts.getD c 0 - k.peerReturned.getD c 0).toNat)
  let s := s.setPort p { k with
    replay := k.replay.filter (fun x => !((f.seq - x.frame.seq).toNat < 0x8000)), credits := credits, peerReturned := counts
    naksInRow := if gone = [] then k.naksInRow else 0 }
  (s.forEach gone (fun s x => s.ackFrame x.key x.frame.alive)).pump p

/-- ACK_CREDIT_FRAME, as its 16-byte header and what follows: a payload of other than four counts makes a damaged frame. -/
def execAckCreditFrame (p : PortId) (header payload : Bytes) (s : State) : Host.Outcome State Fault Refusal :=
  .next (s.onFrame p (header ++ payload) (· == 2) (fun f s => if f.payload.length = 16 then s.acknowledge p f else s.badFrame p))

/-- Every frame from the named sequence onward is replayed in its order before any new one; 16 NAKs in a row without progress are
a loss (R360). -/
def State.nakked (s : State) (p : Nat) (seq : W16) : State :=
  let k := s.port p
  let again := k.replay.filter (fun x => (x.frame.seq - seq).toNat < 0x8000)
  let s := (s.setPort p { k with naks := satCount (k.naks + 1), naksInRow := k.naksInRow + 1 }).restartCount p
  if 16 ≤ (s.port p).naksInRow then s.losePort p 0
  else
    let s := s.setPort p { s.port p with txFrames := satCount ((s.port p).txFrames + again.length) }
    s.forEach again (fun s x => s.emit (.frame p (s.wireBytes p x.key x.frame)))

/-- NAK_FRAME. -/
def execNakFrame (p : PortId) (raw : Bytes) (s : State) : Host.Outcome State Fault Refusal :=
  .next (s.onFrame p raw (· == 3) (fun f s => s.nakked p f.seq))

/-- UNCORRECTABLE_FRAME: a frame in an FEC codeword that could not be corrected. -/
def execUncorrectableFrame (p : PortId) (s : State) : Host.Outcome State Fault Refusal :=
  .next (if !(s.port p).st.carries then s else s.badFrame p)

/-- NAK_RESEND_TIMER: the expected sequence has not come, so the NAK goes out again. -/
def execNakResendTimer (p : PortId) (s : State) : Host.Outcome State Fault Refusal :=
  .next (if !s.portNative p ∨ !(s.port p).st.carries ∨ !(s.port p).nakOut then s
    else (s.setPort p { s.port p with nakOut := false }).sendNak p)

/-- CREDIT_RETURN_TIMER: the buffer is handed on as far as it goes, and the receiver acknowledges and returns credits. -/
def execCreditReturnTimer (p : PortId) (s : State) : Host.Outcome State Fault Refusal :=
  .next (if !s.portNative p ∨ !(s.port p).st.carries then s else (s.drainPort p).sendAck p)

/-- RESERVED_FRAME_KIND: discarded and counted. -/
def execReservedFrameKind (p : PortId) (raw : Bytes) (s : State) : Host.Outcome State Fault Refusal :=
  .next (s.onFrame p raw (fun k => decide (8 ≤ k)) (fun _ s => s.rxDropped p))

/-! ### Flows (R366, R367) -/

/-- RESUME_QUERY, as bytes 0x00 to 0x0B of the frame, its CRC and what follows. -/
def execResumeQuery (p : PortId) (head crc payload : Bytes) (s : State) : Host.Outcome State Fault Refusal :=
  .next (s.onFrame p (head ++ crc ++ payload) (· == 6) (fun f s => s.answerResume p f.payload))

/-- RESUME_ANSWER, in the same three parts. -/
def execResumeAnswer (p : PortId) (head crc payload : Bytes) (s : State) : Host.Outcome State Fault Refusal :=
  .next (s.onFrame p (head ++ crc ++ payload) (· == 7) (fun f s => s.resumeFlow p f.payload none))

/-- Cut a message into the payloads of its data frames: 4,096 bytes each, and in the last one the remainder, which may be none:
by its length the receiver knows the last (R366). Log entry 44. -/
def cutMessage : Nat → Bytes → List Bytes
  | 0, bs => [bs]
  | n + 1, bs => if bs.length < 4096 then [bs] else bs.take 4096 :: cutMessage n (bs.drop 4096)

/-- TOWPATH_SEND: the message is cut into frames on its flow. Class 0 from a basin without express entitlement travels as
class 1 (R421). Log entry 44. -/
def execTowpathSend (b : BasinId) (r : RingId) (s : State) : Host.Outcome State Fault Refusal :=
  .next (match s.nextOf b r 4 with
    | none => s
    | some (x, e, t) =>
      let f := entryTarget e
      let n := entryLength e
      match t.basinRead b (entryAddr e) n with
      | .error d => t.complete x ⟨3, 0x400 + d, 0, 0, 0⟩
      | .ok bs =>
        let cls := if entryClass e = 0 ∧ bsnRate t.sheets b = 0 then 1 else entryClass e
        let payloads := cutMessage (n / 4096) bs
        let t := t.setFlow f { t.flow f with msgs := (t.flow f).msgs ++ [⟨x, n, payloads.length, 0⟩] }
        let dies := ((flowPorts t.sheets f).map portDie).eraseDups
        let t := t.forEach (dies.flatMap (fun d => t.flowUnits 2 d f)) (fun t u => t.checkMessage u f bs)
        t.sendPayloads f cls (t.basin b).epoch payloads)

/-- SLOW_WATER_HOLD_END: 100 µs after throttling, by the cap or a thermal limit, ended, the flag stops (R368). -/
def execSlowWaterHoldEnd (b : BasinId) (s : State) : Host.Outcome State Fault Refusal :=
  .next (if s.heldBelow b then s else s.setBasin b { s.basin b with slow := false })

/-- PORT_QUIESCE: the port's flows move, and it is held in PROBATION (R377); the reply waits for the flows. -/
def execPortQuiesce (b : BasinId) (s : State) : Host.Outcome State Fault Refusal :=
  .next (s.command b 0x0018 true (fun a => a.length == 1) (fun a t =>
    let p := field a 0 1
    if 56 ≤ p then t.replyRefused b 1
    else
      let k := t.port p
      let t := t.setPort p { k with quiesced := true, st := if k.st = .up then .probation else k.st, probCount := 0 }
      let t := if k.st = .up then t.rerouteAll p else t
      (t.deferOn b (0x30000 + p)).settleQuiesce))

/-! ### Ethernet mode (R371-R373) -/

/-- An Ethernet port that is trained. -/
def State.ethernetUp (s : State) (p : Nat) : Bool := s.portEthernet p && (s.port p).st.carries

/-- What an Ethernet port does with the frame of a datagram it accepts, by its kind. Acknowledgements and NAKs of a flow carry its
counter in the alive field (R373). Log entry 46. -/
def State.datagramFrame (s : State) (p : Nat) (src : Bytes) (f : TowFrame) : State :=
  match f.kind.toNat with
  | 0 => s
  | 1 => if (s.port p).st = .probation ∧ f.cls ≠ 3 then s.rxDropped p else s.bufferFrame p f
  | 2 => match s.sentKey p f.flow.toNat (some src) with
    | some key => (s.ackThrough key f.alive).pump p
    | none => s
  | 3 => match s.sentKey p f.flow.toNat (some src) with
    | some key => (s.restartCount p).replayFlow p key f.alive
    | none => s
  | 6 => s.answerResume p f.payload
  | 7 => s.resumeFlow p f.payload (some src)
  | _ => s.rxDropped p

/-- ETHERNET_DATAGRAM: a datagram with the port's own MAC and address and the sheet's UDP port is accepted, any other discarded
and counted (R372); a damaged frame in one is uncorrectable (R362). -/
def execEthernetDatagram (p : PortId) (raw : Bytes) (s : State) : Host.Outcome State Fault Refusal :=
  .next (if !s.ethernetUp p then s
    else match acceptDatagram (s.sheetsOn (portDie p)) p raw with
      | none => s.rxDropped p
      | some a => match parseFrame a.frame with
        | none => s.badFrame p
        | some f => if f.seq ≠ 0 then s.badFrame p else s.datagramFrame p a.src f)

/-- ARP_REQUEST: answered for the port's own IPv4 address, and for nothing else. -/
def execArpRequest (p : PortId) (target : Bytes) (s : State) : Host.Outcome State Fault Refusal :=
  .next (if !s.ethernetUp p then s
    else if towPort (s.sheetsOn (portDie p)) p 3 1 = 4 ∧ target = (towIp (s.sheetsOn (portDie p)) p).take 4 then s.emit (.arpReply p)
    else s.rxDropped p)

/-- NEIGHBOR_SOLICITATION: answered for the port's own IPv6 address. -/
def execNeighborSolicitation (p : PortId) (target : Bytes) (s : State) : Host.Outcome State Fault Refusal :=
  .next (if !s.ethernetUp p then s
    else if towPort (s.sheetsOn (portDie p)) p 3 1 = 6 ∧ target = towIp (s.sheetsOn (portDie p)) p then s.emit (.neighborAdvert p)
    else s.rxDropped p)

/-- PAUSE_FRAME: the port sends nothing on the named priorities until a later frame frees them. Log entry 46. -/
def execPauseFrame (p : PortId) (priorities : Byte) (s : State) : Host.Outcome State Fault Refusal :=
  .next (if !s.ethernetUp p then s else (s.setPort p { s.port p with paused := priorities }).pump p)

/-- An Ethernet port speaks of the flow of an identifier: its record, where it has received on it. -/
def State.heardFlow (s : State) (p : Nat) (flow : FlowId) : Option Nat :=
  let key := s.recvKey p flow.toNat
  if s.ethernetUp p && (s.flow key).known && (decide (key < 1024) || decide (0x10000 ≤ key)) then some key else none

/-- FLOW_ACK_TIMER: the receiver acknowledges the last counter it delivered. Log entry 46. -/
def execFlowAckTimer (p : PortId) (flow : FlowId) (s : State) : Host.Outcome State Fault Refusal :=
  .next (match s.heardFlow p flow with
    | none => s
    | some key => (s.drainPort p).sendControl p key (controlFrame 2 0 flow (((s.drainPort p).flow key).expected - 1) (List.replicate 16 0)))

/-- FLOW_NAK_REPEAT: the NAK of the expected counter goes out again. Log entry 46. -/
def execFlowNakRepeat (p : PortId) (flow : FlowId) (s : State) : Host.Outcome State Fault Refusal :=
  .next (match s.heardFlow p flow with
    | none => s
    | some key => if !(s.flow key).nakOut then s else s.sendControl p key (controlFrame 3 0 flow (s.flow key).expected []))

/-- FLOW_GAP_TIMEOUT: 1 ms of NAKs without progress: the next frame is delivered with the gap flag. -/
def execFlowGapTimeout (p : PortId) (flow : FlowId) (s : State) : Host.Outcome State Fault Refusal :=
  .next (match s.heardFlow p flow with
    | none => s
    | some key => if !(s.flow key).nakOut then s else s.setFlow key { s.flow key with deliverGap := true })

/-! ### Time (R55, R369) -/

/-- The package's time stratum as a die holds it: 0 for a source. Log entry 49. -/
def State.stratumOf (s : State) (d : Nat) : Nat := if clkSource (s.sheetsOn d) then 0 else (s.die d).stratum

/-- The native port of a die that carries traffic and whose peer has the lowest stratum, lowest number first. -/
def State.timePort (s : State) (d : Nat) : Option Nat :=
  (diePorts d).foldl (fun best p =>
    if !s.portNative p || !(s.port p).st.carries then best
    else match best with
      | none => some p
      | some q => if (s.port p).peerStratum < (s.port q).peerStratum then some p else best) none

/-- TIME_REQUEST_TIMER: the keeper asks on its chosen port; when no die has one the package is not synchronised. -/
def execTimeRequestTimer (d : CDieId) (s : State) : Host.Outcome State Fault Refusal :=
  let k := s.die d
  .next (if !s.keeperLive d ∨ !k.running then s
    else match s.timePort d with
      | none =>
        let lost := [0, 1, 2, 3].all (fun e => (s.timePort e).isNone)
        s.setDie d { k with timePort := none, synced := k.synced && !lost, stratum := if lost then 15 else k.stratum }
      | some p => (s.setDie d { k with timePort := some p, timeSent := k.timebase }).sendControl p (0xFF00 + p)
          (controlFrame 4 0 0 0 (timePayload k.timebase 0 0)))

/-- TIME_REQUEST: answered with the times of reception and of sending and this package's stratum. -/
def execTimeRequest (p : PortId) (raw : Bytes) (s : State) : Host.Outcome State Fault Refusal :=
  .next (s.onFrame p raw (· == 4) (fun _ s =>
    let t := s.time (portDie p)
    s.sendControl p (0xFF00 + p) (controlFrame 5 0 0 0 (timePayload t t (s.stratumOf (portDie p))))))

/-- The offset of an exchange, half the difference of the two ways, rounded towards zero. Log entry 49. -/
def timeOffset (t1 t2 t3 t4 : W64) : Int := Int.tdiv ((t2 - t1).toInt - (t4 - t3).toInt) 2

/-- A die takes a stratum and slews towards a time that its timebase should show now. -/
def Die.follow (k : Die) (stratum : Nat) (target : W64) : Die :=
  { k with stratum := stratum, synced := true, slew := (target - k.timebase).toInt }

/-- The dies that have no native port of their own to follow, and are not in holdover: they are held with the die that has
(R53, R55). Log entry 49. -/
def State.timeFollowers (s : State) (d : Nat) : List Nat :=
  [0, 1, 2, 3, 4, 5].filter (fun e => e != d && (s.timePort e).isNone && (s.die e).running && !(s.die e).holdover)

/-- A response to a die's request: the timebase slews by the offset; the stratum is one more than the peer's. The dies of the
package that have no native port follow the same source. A source and a die in holdover are not corrected. Log entry 49. -/
def State.follow (s : State) (p : Nat) (t2 t3 : W64) (stratum : Nat) : State :=
  let d := portDie p
  let k := s.die d
  let s := s.setPort p { s.port p with peerStratum := stratum }
  if clkSource (s.sheetsOn d) ∨ k.holdover then s
  else if 15 ≤ stratum then
    s.forEach (d :: s.timeFollowers d) (fun s e => s.setDie e { s.die e with stratum := 15, synced := false, slew := 0 })
  else
    let target := k.timebase + BitVec.ofInt 64 (timeOffset k.timeSent t2 t3 k.timebase)
    s.forEach (d :: s.timeFollowers d) (fun s e => s.setDie e ((s.die e).follow (stratum + 1) target))

/-- TIME_RESPONSE, as bytes 0x00 to 0x0B of the frame, its CRC and what follows: taken from the port on which the die asked.
Log entry 49. -/
def execTimeResponse (p : PortId) (head crc payload : Bytes) (s : State) : Host.Outcome State Fault Refusal :=
  .next (s.onFrame p (head ++ crc ++ payload) (· == 5) (fun f s =>
    if (s.die (portDie p)).timePort ≠ some p.val then s
    else s.follow p (w64At f.payload 0) (w64At f.payload 8) (field f.payload 16 1)))

end Sys2Proof.Machine
end

