-- ==== Sys2Proof/Machine/Gov.lean ====
section
/-!
DEFINITION. The governor (16_current_power): lock-cycle boundaries, ramps and refills (R433-R435), the evaluation of the
package scale and its division (R436-R442), the trip (R443), freeboard (R444, R445), failed monitors (R448, R523) and the
PLDM sensors and effecter (R447, R481). Temperatures are in quarters of a degree.
-/
namespace Sys2Proof.Machine

/-! ### Power of a die whose monitor failed (R448, R519) -/

/-- A die's rails at their ceilings and nominal voltages, in mW. Log entry 77. -/
def State.dieCeiling (s : State) (d : Nat) : Nat :=
  if d < 4 then 760 * (700 + (s.die d).freeboard) + 180 * 750 + 130 * 750 + 45 * 1050 + 30 * 750 + 10 * 750
  else
    let volt := fun (n : Nat) => [980, 900, 840, 790, 730, 650].getD n 650
    150 * volt (s.complex (2 * (d - 4))).step + 150 * volt (s.complex (2 * (d - 4) + 1)).step + 60 * 800 + 15 * 1100 +
      30 * 850 + 8 * 750 + 10 * 750

/-- What failed monitors add to the measured power, in W; rail 38 is the package's V1P8. Log entry 77. -/
def State.assumedWatts (s : State) : Nat :=
  let dies := [0, 1, 2, 3, 4, 5].filter (fun d => s.dieIn d && (s.die d).monitorFailed.any (· != 38))
  let v1p8 := if [0, 1, 2, 3, 4, 5].any (fun d => (s.die d).monitorFailed.contains 38) then 3 * 1800 else 0
  ((dies.map s.dieCeiling).sum + v1p8) / 1000

/-! ### Freeboard (R445) -/

/-- Change a die's freeboard within 35 to 100 mV; a change counts as a trim. Log entry 78. -/
def State.trimDie (s : State) (d v : Nat) : State :=
  let k := s.die d
  if v = k.freeboard then s
  else (s.setDie d { k with freeboard := v, trimCount := satCount (k.trimCount + 1) }).sendVcore d k.freeboard v

/-- The event of a lock cycle below 10 mV (R445), in the history; the rule names no code for it, so the code is a free value. Log
entry 78. Log entry 78. -/
def State.slackEvent (s : State) (d mv : Nat) : State :=
  let f := s.free
  f.2.toHistory ⟨BitVec.ofNat 16 f.1, 0xFE, 3, d, 0xFF, 0xFFFF, s.time d, 0, BitVec.ofNat 32 mv, 0⟩

/-- The least slack of a lock cycle; below 10 mV freeboard rises by 10 mV at once, and an event is written. Log entry 78. -/
def State.noteSlack (s : State) (d mv : Nat) : State :=
  if !s.dieIn d then s
  else
    let k := s.die d
    let s := s.setDie d { k with leastSlack := some (match k.leastSlack with | some v => min v mv | none => mv) }
    if mv < 10 then (s.trimDie d (min 100 (k.freeboard + 10))).slackEvent d mv else s

/-- Write the trim record over the copy that does not stand (R444, R465). Log entry 78. -/
def State.writeTrim (s : State) : State :=
  let copy := fun (i : Nat) => s.flashRead (0x08000000 + 0x8000 * i) 64
  let ok := fun (r : Bytes) => field r 0 4 == 0x4D495254 && zeroAt r 12 48 && field r 0x3C 4 == (crc32c (r.take 0x3C)).toNat
  let seq := fun (i : Nat) => if ok (copy i) then field (copy i) 4 4 else 0
  let i := if !ok (copy 0) then 0 else if !ok (copy 1) then 1 else if seq 1 ≤ seq 0 then 1 else 0
  let body := leBytes 4 0x4D495254 ++ leBytes 4 ((max (seq 0) (seq 1) + 1) % 2 ^ 32) ++
    [0, 1, 2, 3].map (fun d => BitVec.ofNat 8 (s.die d).freeboard) ++ List.replicate 48 0
  (s.flashErase (0x08000000 + 0x8000 * i) 64).flashWrite (0x08000000 + 0x8000 * i) (body ++ leBytes 4 (crc32c body).toNat)

/-- The end of an hour at one die. Log entry 78. -/
def State.trimHour (s : State) (d : Nat) : State :=
  let k := s.die d
  match k.leastSlack with
  | none => s
  | some v =>
    let hours := (v :: k.hourSlack).take 24
    let calm := hours.length == 24 && hours.all (fun x => decide (45 ≤ x)) && decide (24 ≤ k.sinceFall + 1)
    let s := s.setDie d { k with leastSlack := none, hourSlack := hours, sinceFall := if calm then 0 else k.sinceFall + 1 }
    if v < 25 then
      if k.freeboard = 100 then s.raise 0x0D04 d 0xFF 0xFFFF v 0 else s.trimDie d (min 100 (k.freeboard + 5))
    else if calm then s.trimDie d (max 35 (k.freeboard - 5))
    else s

/-- HOURLY_TRIM: an hour of powered time ends; a trim that changed is written to the record. Log entry 33. -/
def execHourlyTrim (s : State) : Host.Outcome State Fault Refusal :=
  .next (if !s.pkg.pkgReady then s
    else
      let t := s.forEach ([0, 1, 2, 3].filter s.dieIn) (fun s d => s.trimHour d)
      if [0, 1, 2, 3].any (fun d => t.trim d != (t.die d).freeboard) then t.writeTrim else t)

/-! ### The lock-cycle boundary (R433, R435, R421) -/

/-- Some engine of a cluster waits for credits, a start or a ring barge among them; a sequencer at a DRAW is no engine
(R141). Log entry 16. -/
def State.clusterWaits (s : State) (k : Nat) : Bool :=
  (clusterCores k).any (fun c => (s.core c).engineWaits || (s.core c).loadSince.isSome) ||
    s.ringBarges.any (fun x => x.cluster == k && x.shaped && x.waitSince.isSome)

/-! ### Charging cycle by cycle (R211, R247, R279, R281) -/

/-- The first instruction of an engine with charges left may begin its next unit in this cycle: the engine does not wait for
a refill, the unit before it is done, and a press instruction waits for no earlier one (R206, R208). -/
def State.unitDue (s : State) (c : Nat) (e : Engine) : Bool :=
  let k := s.core c
  k.live && s.clocked c && !k.waitsAt e &&
    (match cutAt (fun f => f.charges != []) (k.flight.get e) with
      | (_, []) => false
      | (old, f :: _) => match e with
        | .press => !pressWaits old f.q
        | .vector => decide (k.vectorFrom ≤ s.now)
        | _ => true)

/-- The cycles the next unit of the vector engine takes. -/
def Core.vectorUnit (k : Core) : Nat :=
  match (cutAt (fun f => f.charges != []) k.flight.vector).2 with
  | f :: _ => match f.charges with
    | ch :: _ => ch.cycles
    | [] => 0
  | [] => 0

/-- The press and the vector engine of a core take the charge of a unit that is due. Log entry 18. -/
def State.chargeCore (s : State) (c : Nat) : State :=
  let s := if s.unitDue c .press then s.payEngine c .press 1 else s
  if s.unitDue c .vector then
    let n := (s.core c).vectorUnit
    let t := s.payEngine c .vector 1
    if (t.core c).waitsAt .vector then t else t.setCore c { t.core c with vectorFrom := s.now + n }
  else s

/-- The ring barge of a cluster whose beat is next, and the core whose start is next. Log entry 18. -/
def State.ringDue (s : State) (k : Nat) (waiting : Bool) : Option RingBarge :=
  s.ringBarges.find? (fun x => x.cluster == k && x.shaped && x.charges != [] && x.waitSince.isSome == waiting)
def State.startDue (s : State) (k : Nat) (waiting : Bool) : Option Nat :=
  (clusterCores k).find? (fun c => (s.core c).ctx == .loading && (s.core c).loadCharges != [] &&
    (s.core c).loadSince.isSome == waiting)

/-- One requester of a barge engine takes the charge of its next beat: 0 to 7 a core's port, 8 the rings, 9 the starts. None
when it has no beat due. -/
def State.chargeBeat (s : State) (k i : Nat) : Option State :=
  if i < 8 then (if s.unitDue (8 * k + i) .barge then some (s.payEngine (8 * k + i) .barge 1) else none)
  else if i = 8 then (if s.ringBarges.any (fun x => x.cluster == k && x.waitSince.isSome) then none
    else (s.ringDue k false).map (fun x => s.payRing x 1))
  else (s.startDue k false).map (fun c => s.payLoad c 1)

/-- The first requester from `turn` on, in the round of ten, that has a beat due takes it; the next turn is its successor's
(R279). Log entry 18. -/
def State.nextBeat (s : State) (k : Nat) : Nat → Nat → State
  | 0, _ => s
  | n + 1, i =>
    match s.chargeBeat k i with
    | some t => t.setCluster k { t.cluster k with turn := (i + 1) % 10 }
    | none => State.nextBeat s k n ((i + 1) % 10)

/-- The beats a barge engine moves in CCLK cycle n of a lock cycle: 128 bytes per FCLK cycle, 8 beats in 5 (R279). -/
def beatsOfCycle (n : Nat) : Nat := 8 * (n + 1) / 5 - 8 * n / 5

/-- The charges of one CCLK cycle in a cluster. Log entry 18. -/
def State.chargeCluster (s : State) (k : Nat) : State :=
  let s := s.forEach (clusterCores k) (fun s c => s.chargeCore c)
  s.forEach (List.range (beatsOfCycle s.cyc)) (fun s _ => s.nextBeat k 10 (s.cluster k).turn)

/-- A cluster with a unit of work to charge that does not wait for a refill. -/
def State.charges (s : State) (k : Nat) : Bool :=
  (clusterCores k).any (fun c => (s.core c).live && s.clocked c &&
      [Engine.press, .vector, .barge].any (fun e => !(s.core c).waitsAt e && ((s.core c).flight.get e).any (fun f => f.charges != []))) ||
    (s.ringDue k false).isSome || (s.startDue k false).isSome

/-- The rest of a lock cycle in a cluster, cycle by cycle. -/
def State.chargeRest (k : Nat) : Nat → State → State
  | 0, s => s
  | n + 1, s =>
    if !s.charges k then s
    else State.chargeRest k n { s.chargeCluster k with cyc := s.cyc + 1 }

/-- The clusters in which something is in flight. -/
def State.busyClusters (s : State) : List Nat :=
  let ks := (s.cores.filter (fun e => e.2.ctx != .idle)).map (fun e => e.1 / 8) ++ s.ringBarges.map (fun x => x.cluster)
  (List.range 128).filter ks.contains

/-- Ports hand on what their buffers hold, as their destinations take it (R363). -/
def State.drainPorts (s : State) : State :=
  s.forEach ((s.ports.filter (fun e => e.2.held != [])).map (fun e => e.1)) State.drainPort

/-- One CCLK cycle passes: the units of work that are due are charged, ports hand on what waits in them, and dies send the
drive words that have changed. Log entry 2. -/
def State.cycle (s : State) : State :=
  let s := s.drainPorts.sendDrives
  if s.cyc + 1 < 2200 then (s.forEach (s.busyClusters.filter s.charges) (fun s k => s.chargeCluster k)).tick else s

/-- Ramp level and quiet count after a lock cycle. `full` is the refill at level 8. -/
def rampAfter (ramp quiet charged full idle : Nat) (waited hold : Bool) : Nat × Nat :=
  if waited then (if hold then ramp else min 8 (ramp + 1), 0)
  else
    let q := if charged * 8 < full then quiet + 1 else 0
    if idle ≤ q then (1, idle) else (ramp, q)

/-- A cluster's next lock cycle: ramp, scale, refill; reservations that have run out lapse. Log entry 76. -/
def State.boundaryCluster (s : State) (k : Nat) : State :=
  let cl := s.cluster k
  if !cl.granted then s
  else
    let full := refill16 (powCluster (s.sheetsOn (k / 32)) k) cl.scale 8
    let r := rampAfter cl.ramp cl.quiet cl.charged full (powIdle (s.sheetsOn (k / 32))) (cl.waited || s.clusterWaits k) s.pkg.holdRises
    let s := s.forEach ((clusterCores k).filter (fun c => decide ((s.core c).reservedAt + 2 ≤ s.lockCycle))) (fun s c =>
      s.setCore c { s.core c with reservation := 0 })
    let bucket := match clusterOwner (s.sheetsOn (k / 32)) k with
      | some b => min 4096 (cl.express + 64 * bsnRate (s.sheetsOn (k / 32)) b)
      | none => cl.express
    let cl := { cl with ramp := r.1, quiet := r.2, waited := false, charged := 0, express := bucket
                        scale := if s.pkg.holdRises then min cl.scale cl.next else cl.next }
    let s := s.setCluster k cl
    s.setCluster k { cl with unreserved := s.refill k }

/-- A waiting DRAW is clamped to the share of the fresh refill and granted (R141). -/
def State.boundaryDraw (s : State) (c : Nat) : State :=
  match (s.core c).seqWait with
  | .draw request _ =>
    if !(s.cluster (c / 8)).granted then s
    else
      let q := (s.core c).clampDraw request (drawShare (s.refill (c / 8)))
      (s.setCore c q.2).grantDraw c q.1
  | _ => s

/-- A unit that waits takes its charge at the refill, when the fresh balance covers it. -/
def State.retry (s : State) (c : Nat) (e : Engine) : State :=
  if (s.core c).live && (s.core c).waitsAt e then s.payEngine c e 1 else s

/-- The same of a requester of a barge engine. -/
def State.retryBeat (s : State) (k i : Nat) : State :=
  if i < 8 then s.retry (8 * k + i) .barge
  else if i = 8 then (match s.ringDue k true with | some x => s.payRing x 1 | none => s)
  else (match s.startDue k true with | some c => s.payLoad c 1 | none => s)

/-- What waits for credits in a cluster takes its charge from the fresh balance: lower core first, press, then vector, then
the requesters of the barge engine in their turn; barges that wait for shaping go on. Log entry 18. -/
def State.boundaryPay (s : State) (k : Nat) : State :=
  let s := s.forEach (clusterCores k) (fun s c => (s.retry c .press).retry c .vector)
  let s := s.forEach (s.ringBarges.filter (fun x => x.cluster == k && !x.shaped)) (fun s x => s.shapeRing x)
  s.forEach ((List.range 10).map (fun i => ((s.cluster k).turn + i) % 10)) (fun s i => s.retryBeat k i)

/-- A sluice's next lock cycle. -/
def State.boundarySluice (s : State) (d : Nat) : State :=
  let k := s.sluice d
  if !k.granted then s
  else
    let full := refill16 (powSluice (s.sheetsOn d) d) k.scale 8
    let r := rampAfter k.ramp k.quiet k.charged full (powIdle (s.sheetsOn d)) (k.waited || k.work.any (fun j => j.left != [])) s.pkg.holdRises
    let k := { k with ramp := r.1, quiet := r.2, waited := false, charged := 0
                      scale := if s.pkg.holdRises then min k.scale k.next else k.next }
    (s.setSluice d { k with unreserved := refill16 (powSluice (s.sheetsOn d) d) k.scale k.ramp }).settleSluice d

/-- LOCK_CYCLE_BOUNDARY: a lock cycle of 2,200 CCLK cycles ends with its measurements, and the next begins. Log entry 2. -/
def execLockCycleBoundary (m : LockMeas) (s : State) : Host.Outcome State Fault Refusal :=
  let watts := m.watts + s.assumedWatts
  let cyc := s.cyc
  let s := s.forEach (s.busyClusters.filter s.charges) (fun s k =>
    { State.chargeRest k (2200 - cyc) s with cyc := cyc })
  let s := (s.advanceTimebases (100 - s.cyc / 22))
  let s := { s with lockCycle := s.lockCycle + 1, cyc := 0 }
  let p := s.pkg
  let s := s.setPkg { p with energy := satCount (p.energy + watts), wattSum := p.wattSum + watts, wattCount := p.wattCount + 1 }
  let s := s.forEach [0, 1, 2, 3] (fun s d => match m.slack[d]? with | some mv => s.noteSlack d mv | none => s)
  .next (if p.thermTrip then s
    else
      let ks := (List.range 128).filter (fun k => (s.cluster k).granted)
      let s := s.forEach ks (fun s k => s.boundaryCluster k)
      let s := s.forEach ks (fun s k => s.forEach (clusterCores k) (fun s c => s.boundaryDraw c))
      let s := s.forEach ks (fun s k => s.boundaryPay k)
      s.refillNorms.forEach [0, 1, 2, 3] (fun s d => s.boundarySluice d))

/-! ### The evaluation (R436-R442) -/

/-- The package scale after a period (R436). -/
def nextF (f w c : Nat) : Nat :=
  if c < w then max 16 (f * c / w)
  else if w < c then min 256 (f + (if w = 0 then 32 else min 32 (f * (c - w) / w)))
  else f

/-- The thermal scale of a junction temperature in quarters of a degree; a die with no sensor left counts as 105 °C (R442). -/
def thermalScale (t : Option Nat) : Nat :=
  let q := t.getD 420
  if q < 380 then 256 else if q ≤ 420 then max 16 (256 - 6 * (q - 380)) else 16

/-- The allotments a basin's units hold, in mA; a sluice counts in the first basin with sluice use (R437). -/
def State.throttled (s : State) (b : Nat) : Nat :=
  let t := s.sheets
  let own := (List.range 128).filter (fun c => bsnHasCluster t b c && (s.cluster c).granted && s.clusterPresent c)
  let first := basinIds.find? (slcEnabled t)
  (own.map (powCluster t)).sum +
    (if first = some b then (([0, 1, 2, 3].filter (fun d => (s.sluice d).granted && s.dieIn d)).map (powSluice t)).sum else 0)

/-- The passes that give out what is left by share (R437). -/
def dividePasses (a share : List Nat) (t : Nat) : Nat → List Nat → List Nat
  | 0, give => give
  | n + 1, give =>
    let left := t - give.sum
    let open_ := fun (b : Nat) => decide (give.getD b 0 < a.getD b 0)
    let w := ((basinIds.filter open_).map (fun b => share.getD b 0)).sum
    if left = 0 ∨ w = 0 then give
    else dividePasses a share t n (basinIds.map (fun b =>
      let g := give.getD b 0
      if open_ b then g + min (a.getD b 0 - g) (left * share.getD b 0 / w) else g))

/-- The basin scales of a package scale (R437). -/
def divide (a share : List Nat) (f : Nat) : List Nat :=
  let t := a.sum * f / 256
  let floors := basinIds.map (fun b => a.getD b 0 * 16 / 256)
  let r := t - floors.sum
  let give := basinIds.map (fun b => floors.getD b 0 + min (a.getD b 0 - floors.getD b 0) (share.getD b 0 * r / 256))
  let give := dividePasses a share t 8 give
  basinIds.map (fun b => if a.getD b 0 = 0 then 256 else max 16 (256 * give.getD b 0 / a.getD b 0))

/-- A scale moves to its target, up by at most 32 a period (R438). -/
def stepScale (now target : Nat) : Nat := min target (now + 32)

/-- The measured temperature of a die. Log entry 79. -/
def State.noteTemp (s : State) (d : Nat) (t : Option Nat) : State :=
  let k := s.die d
  let failed := t.isNone && !(k.temp.isNone && k.thermal == 16)
  let s := s.setDie d { k with temp := t, thermal := thermalScale t }
  if failed then s.raise 0x0D06 d 0xFF 0xFFFF 0 0 else s

/-- W above C at the floor for 64 periods, and at or below it for 64 (R441). -/
def State.floorCounts (s : State) (w c oldF : Nat) : State :=
  let p := s.pkg
  let beyond := if c < w ∧ oldF ≤ 16 then min 64 (p.floorOver + 1) else 0
  let under := if w ≤ c then min 64 (p.floorUnder + 1) else if oldF ≤ 16 then 0 else p.floorUnder
  let s := s.setPkg { p with floorOver := beyond, floorUnder := under }
  if !p.capUnattainable ∧ 64 ≤ beyond then
    ((s.setPkg { s.pkg with capUnattainable := true, floorUnder := 0 }).alert 3 true).raise 0x0D01 s.pkg.head 0xFF 0xFFFF 0 0
  else if p.capUnattainable ∧ 64 ≤ under then (s.setPkg { s.pkg with capUnattainable := false, floorOver := 0 }).alert 3 false
  else s

/-- A die above 105 °C (R442). -/
def State.overTempCheck (s : State) : State :=
  let hot := [0, 1, 2, 3, 4, 5].find? (fun d => match (s.die d).temp with | some q => decide (420 < q) | none => false)
  match hot with
  | some d =>
    if s.pkg.overTemp then s
    else ((s.setPkg { s.pkg with overTemp := true }).alert 4 true).raise 0x0D02 d 0xFF 0xFFFF 0 0
  | none => if s.pkg.overTemp then (s.setPkg { s.pkg with overTemp := false }).alert 4 false else s

/-- The step ceiling of an owned complex (R439, R441). -/
def State.ceilingOf (s : State) (x : Nat) : Nat :=
  match complexOwner (s.sheetsOn (complexDie x)) x with
  | none => 0
  | some b =>
    if s.pkg.f ≤ 16 then 5 else min 5 ((256 - min (s.basin b).scale (s.die (complexDie x)).thermal) / 32)

/-- GOVERNOR_EVALUATION: after 16 lock cycles, with the hottest sensor of each die. New refills hold from the next boundary.
Log entry 76. -/
def execGovernorEvaluation (temps : List (Option Nat)) (s : State) : Host.Outcome State Fault Refusal :=
  let p := s.pkg
  .next (if p.wattCount < 16 ∨ !p.pkgReady ∨ p.thermTrip then s
    else
      let w := p.wattSum / p.wattCount
      let c := min (powCap s.sheets) p.trayCap
      let s := s.forEach [0, 1, 2, 3, 4, 5] (fun s d => s.noteTemp d (temps.getD d none))
      let s := s.setPkg { s.pkg with w := w, c := c, f := nextF p.f w c, wattSum := 0, wattCount := 0, holdRises := false }
      let t := s.sheets
      let scales := divide (basinIds.map s.throttled) (basinIds.map (fun b => if bsnEnabled t b then bsnShare t b else 0)) s.pkg.f
      let s := s.forEach (basinIds.filter (bsnEnabled t)) (fun s b => s.setBasin b { s.basin b with scale := scales.getD b 256 })
      let s := s.forEach (List.range 128) (fun s k => match clusterOwner t k with
        | some b => s.setCluster k { s.cluster k with next := stepScale (s.cluster k).next (s.unitScale b (k / 32)) }
        | none => s)
      let s := s.forEach [0, 1, 2, 3] (fun s d => s.setSluice d { s.sluice d with next := stepScale (s.sluice d).next (s.sluiceScale d) })
      let s := s.forEach ([0, 1, 2, 3].filter (fun x => (complexOwner t x).isSome)) (fun s x =>
        (s.setComplex x { s.complex x with ceiling := s.ceilingOf x }).retarget x)
      let s := s.forEach (basinIds.filter (bsnEnabled t)) (fun s b =>
        if s.heldBelow b then s.setBasin b { s.basin b with slow := true } else s)
      (s.floorCounts w c p.f).overTempCheck)

/-! ### The trip (R443) -/

/-- A core whose clocks the trip has stopped: its context never goes on. Log entry 77. -/
def Core.tripped (k : Core) : Core :=
  if k.ctx = .idle then k else { k with ctx := .faulted, fault := some 0x0D03, reservation := 0, seqWait := .free }

/-- THERMAL_TRIP on a die: every switched domain of the package stops, and no endpaper is taken. The temperature reported is
115 °C or more. Log entry 77. -/
def execThermalTrip (d : DieId) (s : State) : Host.Outcome State Fault Refusal :=
  .next (if s.pkg.thermTrip ∨ s.pkg.phase = .off then s
    else
      let f := s.free
      let p := f.2.pkg
      let s := f.2.setPkg { p with thermTrip := true, tripDie := d, tripTemp := 460 + f.1,
                                   domains := List.replicate 32 false ++ p.domains.drop 32 }
      let s := s.forEach (s.cores.map (fun e => e.1)) (fun s c => s.setCore c (s.core c).tripped)
      let s := s.forEach (List.range 128) (fun s k =>
        s.setCluster k { s.cluster k with fenced := true, granted := false, unreserved := 0 })
      let s := s.forEach [0, 1, 2, 3] (fun s q => s.setSluice q { s.sluice q with granted := false, unreserved := 0 })
      let s := s.forEach [0, 1, 2, 3] (fun s x => s.setComplex x { s.complex x with running := false })
      let s := s.forEach (List.range 56) (fun s p => s.setPort p { s.port p with st := .off, training := false })
      { s with ringBarges := [] }.raise 0x0D03 d 0xFF 0xFFFF 0 0)

/-! ### Monitors, the effecter and sensors -/

/-- The die of a rail (R517); V1P8 is reported by the head keeper. -/
def State.railDie (s : State) (rail : Nat) : Nat :=
  if rail < 24 then rail / 6 else if rail < 38 then 4 + (rail - 24) / 7 else s.pkg.head

/-- POWER_MONITOR_FAIL. -/
def execPowerMonitorFail (rail : Fin 39) (s : State) : Host.Outcome State Fault Refusal :=
  let d := s.railDie rail
  let k := s.die d
  .next (if k.monitorFailed.contains rail.val ∨ s.pkg.phase = .off then s
    else (s.setDie d { k with monitorFailed := k.monitorFailed ++ [rail.val] }).raise 0x0D05 d 0xFF 0xFFFF rail 0)

/-- PLDM_SET_CAP: 1,200 W to 3,600 W; any other value is refused with a PLDM error. -/
def execPldmSetCap (watts : Nat) (s : State) : Host.Outcome State Fault Refusal :=
  .next (if s.pkg.phase = .off ∨ !s.mgmtUp ∨ s.pkg.phase = .boundaryScan then s
    else if 1200 ≤ watts ∧ watts ≤ 3600 then (s.setPkg { s.pkg with trayCap := watts }).emit (.pldmResult 0)
    else s.emit (.pldmResult 1))

/-- The value of a sensor. Log entry 79. -/
def State.sensor (s : State) (q : PldmSensor) : Nat :=
  match q with
  | .power => s.pkg.w
  | .energy => s.pkg.energy
  | .temperature d => (s.die d).temp.getD 420
  | .capUnattainable => boolBit s.pkg.capUnattainable
  | .overTemperature => boolBit s.pkg.overTemp
  | .freeboard d => (s.die d).freeboard
  | .packageScale => s.pkg.f
  | .historyCount => min 4096 s.pkg.histCount
  | .checkMismatches d => (((List.range 72).filter (fun u => checkDie u == d)).map (fun u =>
      ([1, 2, 3, 4, 5].map (fun i => (s.check u).counts.getD i 0)).sum)).sum
  | .portState p => (s.port p).st.code
  | .linkState l => (s.link l).st.code

/-- PLDM_SENSOR_READ. Log entry 79. -/
def execPldmSensorRead (q : PldmSensor) (s : State) : Host.Outcome State Fault Refusal :=
  .next (if s.pkg.phase = .off ∨ !s.mgmtUp ∨ s.pkg.phase = .boundaryScan then s else s.emit (.pldmValue (s.sensor q)))

end Sys2Proof.Machine
end

