-- ==== Sys2Proof/Machine/Regs.lean ====
section
/-!
DEFINITION. Reads and writes of control registers (R491-R494, R503-R508): the control page of a basin with its windows, the
latches of register pairs, and the writes that index, select, W1C and target registers take.
-/
namespace Sys2Proof.Machine

/-! ### Where an access goes -/

/-- A register: regions 0-5 are the dies' slices, 6 the package region, 8 + b the control page of basin b. A read through the
view window is relative to a basin's baseline (R479). -/
structure RegAt where
  region : Nat
  off : Nat
  rel : Option Nat
  deriving DecidableEq, Repr

/-- The register at a physical address of control space (R495). -/
def controlReg (addr : Nat) : Option RegAt :=
  if addr < 0xF000000000000 then none
  else
    let o := addr - 0xF000000000000
    if o < 0x700000000 then some ⟨o / 0x100000000, o % 0x100000000, none⟩
    else if o < 0x700080000 then some ⟨8 + (o - 0x700000000) / 0x10000, o % 0x10000, none⟩
    else none

/-- Region and offset of a view or administrator select. -/
def selRegion (sel : W32) : Nat := bitsOf sel.toNat 31 29
def viewOffset (sel : W32) : Nat := bitsOf sel.toNat 25 0 * 64
def admOffset (sel : W32) : Nat := bitsOf sel.toNat 19 0 * 4096

/-- The 64 bytes of a view belong to the basin: a cluster or port block it owns exclusively, or flow or kettle-line entries
that are all its own (R506). A logical cluster that is absent is not owned. Log entry 55. -/
def State.viewOwned (s : State) (b : Nat) (sel : W32) : Bool :=
  let t := s.sheets
  let r := selRegion sel
  let o := viewOffset sel
  if r < 4 ∧ 0x1000000 ≤ o ∧ o < 0x3000000 then
    let c := 32 * r + (o - 0x1000000) / 0x100000
    bsnHasCluster t b c && s.physCluster c != 0xFF
  else if r < 4 ∧ 0x5000000 ≤ o ∧ o < 0x500E000 then bsnHasPort t b (14 * r + (o - 0x5000000) / 0x1000)
  else if r = 6 ∧ 0x10000 ≤ o ∧ o < 0x14000 then
    (List.range 4).all (fun i => flowEnabled t ((o - 0x10000) / 16 + i) && flowBasin t ((o - 0x10000) / 16 + i) == b)
  else if r = 6 ∧ 0x20000 ≤ o ∧ o < 0x20100 then (List.range 8).all (fun i => bsnHasLine t b ((o - 0x20000) / 8 + i))
  else false

/-- BSN_VIEW_SELECT and BSN_ADM_SELECT as read: DENIED, ABSENT and what was written. -/
def State.viewSelectWord (s : State) (b : Nat) : Nat :=
  let sel := (s.basin b).viewSelect
  boolBit (!s.viewOwned b sel) * 2 ^ 28 + boolBit (s.regAbsent (selRegion sel) (viewOffset sel)) * 2 ^ 27 + sel.toNat
def State.admSelectWord (s : State) (b : Nat) : Nat :=
  let sel := (s.basin b).admSelect
  boolBit (!s.adminBasin b) * 2 ^ 28 + boolBit (s.regAbsent (selRegion sel) (admOffset sel)) * 2 ^ 27 + sel.toNat

/-- What an offset of a control page reaches: a register, or nothing while a window is denied or absent. Log entry 55. -/
def State.pageTarget (s : State) (b off : Nat) : Option RegAt :=
  let k := s.basin b
  if 0x340 ≤ off ∧ off < 0x380 then
    if !s.viewOwned b k.viewSelect || s.regAbsent (selRegion k.viewSelect) (viewOffset k.viewSelect) then none
    else some ⟨selRegion k.viewSelect, viewOffset k.viewSelect + (off - 0x340), some b⟩
  else if 0x6000 ≤ off ∧ off < 0x7000 then
    if !s.adminBasin b || s.regAbsent (selRegion k.admSelect) (admOffset k.admSelect) || selRegion k.admSelect == 7 then none
    else some ⟨selRegion k.admSelect, admOffset k.admSelect + (off - 0x6000), none⟩
  else some ⟨8 + b, off, none⟩

/-! ### Reading -/

/-- The core that receives a self-hosted basin's vectors; 0 in an external basin (R505). -/
def State.irqWord (s : State) (b : Nat) : Nat := if bsnSelf s.sheets b then (s.basin b).irqTarget else 0

/-- Counters of a control page (R503). -/
def State.pageCounter (s : State) (b off : Nat) : Option Nat :=
  let k := s.basin b
  if off = 0x218 then some k.phaseLog.lost
  else if off = 0x220 then some k.numLog.lost
  else if off = 0x228 then some k.sumLog.lost
  else if off = 0x260 then some k.expressHold
  else if off = 0x268 then some k.expressDemoted
  else none

/-- A word of a table of bytes. -/
def tableWord (m : NMap Byte) (off : Nat) : Nat := leValue ((List.range 4).map (fun i => nget (fun _ => 0) m (off + i)))

/-- The single registers of a control page; none where nothing is listed. -/
def State.pageWord (s : State) (b off : Nat) : Option Nat :=
  let k := s.basin b
  let eps := s.basinEndpapers b
  if off = 0 then some (s.bsnStatus b)
  else if off = 4 then some k.err.toNat
  else if off = 8 then some (s.irqWord b)
  else if off = 0xC ∨ off = 0x10 ∨ off = 0x308 then some 0
  else if 0x100 ≤ off ∧ off < 0x200 then
    let r := s.ring b ((off - 0x100) / 16)
    some (match off % 16 / 4 with
      | 0 => r.prod.toNat
      | 1 => r.cons.toNat
      | 2 => r.cplProd.toNat
      | _ => r.cplCons.toNat)
  else if off = 0x200 then some k.phaseLog.head.toNat
  else if off = 0x204 then some k.phaseLog.tail.toNat
  else if off = 0x208 then some k.numLog.head.toNat
  else if off = 0x20C then some k.numLog.tail.toNat
  else if off = 0x210 then some k.sumLog.head.toNat
  else if off = 0x214 then some k.sumLog.tail.toNat
  else if 0x240 ≤ off ∧ off < 0x260 then
    let c := s.collRing b ((off - 0x240) / 8)
    some (if off % 8 = 0 then c.head.toNat else c.tail.toNat)
  else if off = 0x300 then some (s.viewSelectWord b)
  else if off = 0x310 then some k.epSelect.toNat
  else if off = 0x314 then some (endpaperPage eps k.epSelect k.epPage)
  else if off = 0x318 then some (endpaperLast eps)
  else if off = 0x320 then some (s.admSelectWord b)
  else if 0x1000 ≤ off ∧ off < 0x2040 then some (tableWord k.mboxReq (off - 0x1000))
  else if 0x3000 ≤ off ∧ off < 0x4040 then some (tableWord k.mboxRsp (off - 0x3000))
  else if 0x8000 ≤ off ∧ off < 0x10000 then some (endpaperWord eps k.epSelect k.epPage (off - 0x8000))
  else none

/-- A pair by its LO register, as an access reads it. -/
def State.pairAt (s : State) (r : RegAt) : Option Nat :=
  if 8 ≤ r.region then s.pageCounter (r.region - 8) r.off
  else (s.pair r.region r.off).map (fun v =>
    if s.regAbsent r.region r.off then 0
    else match r.rel with
      | some b => v - nget (fun _ => 0) (s.basin b).baseline (counterKey r.region r.off)
      | none => v)

/-- A single register, as an access reads it. -/
def State.singleAt (s : State) (r : RegAt) : Option Nat :=
  if 8 ≤ r.region then s.pageWord (r.region - 8) r.off
  else (s.single r.region r.off).map (fun v => if s.regAbsent r.region r.off then 0 else v)

/-- The number of an access path among the latches (R491); the administrator window of a basin is a path of its own.
Log entry 54. -/
def pathIndex (p : AccessPath) (admin : Bool) : Nat :=
  match p with
  | .page b => if admin then 16 + b.val else b.val
  | .keeper d => 8 + d.val
  | .mgmt => 14

/-- Log entry 54. -/
def latchKey (path : Nat) (r : RegAt) : Nat := (path * 16 + r.region) * 0x100000000 + r.off

/-- A 32-bit read: LO latches HI, HI reads the latch; none where nothing is listed. Log entry 54. -/
def State.read32 (s : State) (path : Nat) (r : RegAt) : Option (Nat × State) :=
  let lo : RegAt := { r with off := r.off / 8 * 8 }
  match s.pairAt lo with
  | some v =>
    if r.off % 8 = 0 then
      some (v % 2 ^ 32, { s with latches := nset (fun _ => 0) s.latches (latchKey path lo) (BitVec.ofNat 32 (v / 2 ^ 32)) })
    else some ((nget (fun _ => (0 : W32)) s.latches (latchKey path lo)).toNat, s)
  | none => (s.singleAt r).map (fun v => (v, s))

/-- A 64-bit read: a pair is read as one value, and changes no latch. -/
def State.read64 (s : State) (path : Nat) (r : RegAt) : Option (Nat × State) :=
  match s.pairAt r with
  | some v => some (v % 2 ^ 64, s)
  | none =>
    match s.read32 path r with
    | none => none
    | some (lo, s) =>
      match s.read32 path { r with off := r.off + 4 } with
      | none => none
      | some (hi, s) => some (lo + hi * 2 ^ 32, s)

/-- A read through a control page; a misaligned one, one of another width, or one of an unlisted offset reads as zero and is
register misuse (R491). -/
def State.pageRead (s : State) (b off width : Nat) : Nat × State :=
  let admin := decide (0x6000 ≤ off) && decide (off < 0x7000)
  let path := if admin then 16 + b else b
  let bad := !(width == 4 || width == 8) || off % width != 0 || decide (0x10000 ≤ off)
  if bad then (0, s.misuse b)
  else match s.pageTarget b off with
    | none => (0, s)
    | some r => match (if width = 4 then s.read32 path r else s.read64 path r) with
      | some x => x
      | none => (0, s.misuse b)

/-! ### Writing -/

/-- Misuse, when the access came through a control page. Log entry 53. -/
def State.misuseBy (s : State) (who : Option Nat) : State :=
  match who with
  | some b => s.misuse b
  | none => s

/-- Misuse when reserved bits of a written value are not zero; the other fields take the write (R12). Log entry 53. -/
def State.reservedBits (s : State) (who : Option Nat) (v mask : W32) : State :=
  if v &&& mask = 0 then s else s.misuseBy who

/-- Pop the oldest unread check record (R497). -/
def State.popCheck (s : State) (u : Nat) : State := s.setCheck u { s.check u with records := (s.check u).records.drop 1 }

/-- A consumer index may not pass its producer (R503). -/
def indexPasses (head tail v : W32) : Bool := decide ((head - tail).toNat < (v - tail).toNat)

/-- A doorbell: the ring stops when more entries are announced than it holds (R417); one whose count is 0 is misuse.
Log entries 30 and 55. -/
def State.doorbell (s : State) (b r : Nat) (who : Option Nat) (prod : W32) : State :=
  let k := s.ring b r
  if k.count = 0 then s.misuseBy who
  else if k.count < (prod - k.cons).toNat then
    ((s.setRing b r { k with prod := prod, stopped := true }).setErr b (errRing r)).raise 0x0E01 s.pkg.head b r 0 0
  else s.setRing b r { k with prod := prod }

/-- A write to an index of a ring. -/
def State.ringWriteReg (s : State) (b r i : Nat) (who : Option Nat) (v : W32) : State :=
  let k := s.ring b r
  match i with
  | 0 => s.doorbell b r who v
  | 3 => if indexPasses k.cplProd k.cplCons v then s.misuseBy who else s.setRing b r { k with cplCons := v }
  | _ => s

/-- A write to the consumer index of a run log. Log entry 56. -/
def State.tailWrite (s : State) (b : Nat) (l : LogKind) (who : Option Nat) (v : W32) : State :=
  let k := s.basin b
  if indexPasses (k.runLog l).head (k.runLog l).tail v then s.misuseBy who
  else s.setBasin b (k.setRunLog l { k.runLog l with tail := v })

/-- Write four bytes of a byte table. -/
def tablePut (m : NMap Byte) (off : Nat) (v : W32) : NMap Byte :=
  (leBytes 4 v.toNat).zipIdx.foldl (fun m e => nset (fun _ => 0) m (off + e.2) e.1) m

/-- BSN_IRQ_TARGET (R505). -/
def State.irqWrite (s : State) (b : Nat) (who : Option Nat) (v : W32) : State :=
  if !bsnSelf s.sheets b then s
  else
    let s := s.reservedBits who v 0xFFFFFF00
    let c := v.toNat % 256
    if c < 144 ∧ bsnHasComplex s.sheets b (c / 36) then s.setBasin b { s.basin b with irqTarget := c } else s.misuseBy who

/-- BSN_IRQ_FWD (R505). -/
def State.irqForward (s : State) (b : Nat) (who : Option Nat) (v : W32) : State :=
  if v.toNat ≤ 13 then s.vector b (18 + v.toNat) else s.misuseBy who

/-- BSN_CHK_POP (R506). -/
def State.chkPopWrite (s : State) (b : Nat) (who : Option Nat) (v : W32) : State :=
  if v.toNat < 72 ∧ chkBasin s.sheets v.toNat = b ∧ chkMode s.sheets v.toNat ≠ 0 then s.popCheck v.toNat else s.misuseBy who

/-- A 32-bit write to a control page. The doorbell of the mailbox has its effect in the row of the command it announces.
While the basin resets, only W1C fields take a write (R508). Log entry 56. -/
def State.pageWrite (s : State) (b off : Nat) (who : Option Nat) (v : W32) : State :=
  let k := s.basin b
  if k.st = .resetting ∧ off ≠ 0 ∧ off ≠ 4 then s
  else if off = 0 then
    (s.setBasin b { k with mboxOverrun := k.mboxOverrun && !bitOf v.toNat 7, mboxDone := k.mboxDone && !bitOf v.toNat 6 }).reservedBits
      who v 0xFF00FF18
  else if off = 4 then (s.setBasin b { k with err := k.err &&& ~~~v }).reservedBits who v 0x0000FC01
  else if off = 8 then s.irqWrite b who v
  else if off = 0xC then s.irqForward b who v
  else if 0x100 ≤ off ∧ off < 0x200 then s.ringWriteReg b ((off - 0x100) / 16) (off % 16 / 4) who v
  else if off = 0x204 then s.tailWrite b .phase who v
  else if off = 0x20C then s.tailWrite b .numeric who v
  else if off = 0x214 then s.tailWrite b .summary who v
  else if 0x240 ≤ off ∧ off < 0x260 ∧ off % 8 = 4 then
    let d := (off - 0x240) / 8
    let c := s.collRing b d
    if v.toNat % 16 ≠ 0 ∨ indexPasses c.head c.tail v then s.misuseBy who else s.setCollRing b d { c with tail := v }
  else if off = 0x300 then
    (s.setBasin b { k with viewSelect := v &&& 0xE3FFFFFF }).reservedBits who v 0x04000000
  else if off = 0x308 then s.chkPopWrite b who v
  else if off = 0x310 then s.setBasin b { k with epSelect := v }
  else if off = 0x314 then (s.setBasin b { k with epPage := v &&& 0xFFFF }).reservedBits who v 0x7FFF0000
  else if off = 0x320 then
    (s.setBasin b { k with admSelect := v &&& 0xE00FFFFF }).reservedBits who v 0x07F00000
  else if 0x1000 ≤ off ∧ off < 0x2040 then s.setBasin b { k with mboxReq := tablePut k.mboxReq (off - 0x1000) v }
  else if (s.pageWord b off).isSome ∨ (s.pageCounter b (off / 8 * 8)).isSome then s
  else s.misuseBy who

/-- The reserved fields of a read-only register of the package region or a die's slice (R499-R502, R507). -/
def reservedOf (region off : Nat) : W32 :=
  if region = 6 then
    if off = 0 then 0xF8000080
    else if off = 4 then 0xFFF8C0C0
    else if off = 8 then 0xF000F800
    else if off = 0xC then 0xFFFF0000
    else if 0x100 ≤ off ∧ off < 0x138 then 0xFFFFFE00
    else if off = 0x4008 then 0xFFFFE000
    else 0
  else if off = 4 then 0xFF000FF0
  else if off = 0x40 then 0xFFFFFFC0
  else if 0x1000000 ≤ off ∧ off < 0x3000000 ∧ off % 0x1000 = 0 ∧ 0x1000 ≤ (off - 0x1000000) % 0x100000 then 0x000000F8
  else if 0x5000000 ≤ off ∧ off < 0x500E000 ∧ off % 0x1000 = 0 then 0xC0000008
  else if 0x6000000 ≤ off ∧ off < 0x6003000 ∧ off % 0x1000 = 0 then 0x0000F000
  else if 0x6000000 ≤ off ∧ off < 0x6003000 ∧ off % 0x1000 = 4 then 0xFFFF0000
  else 0

/-- A 32-bit write to the package region or a die's slice: selects, W1C and WO fields; a read-only register takes none. -/
def State.unitWrite (s : State) (region off : Nat) (who : Option Nat) (v : W32) : State :=
  if s.regAbsent region off then s
  else if region = 6 ∧ off = 0x4000 then (s.setPkg { s.pkg with histSelect := v.toNat % 4096 }).reservedBits who v 0xFFFFF000
  else if region = 6 ∧ off = 0x5000 then s.setPkg { s.pkg with epSelect := v }
  else if region = 6 ∧ off = 0x5004 then (s.setPkg { s.pkg with epPage := v &&& 0xFFFF }).reservedBits who v 0x7FFF0000
  else if region = 6 ∧ 0x20000 ≤ off ∧ off < 0x20100 ∧ off % 8 = 4 then
    let line := (off - 0x20000) / 8
    let s := if bitOf v.toNat 0 then { s with kettleShort := nset (fun _ => false) s.kettleShort line false } else s
    s.reservedBits who v 0x0000FFE0
  else if region < 6 ∧ 0x7000000 ≤ off ∧ off < 0x7010000 ∧ off % 0x1000 = 0x38 then
    match checkAt region ((off - 0x7000000) / 0x1000) with
    | some u => s.popCheck u
    | none => s
  else if (s.single region off).isSome ∨ (s.pair region (off / 8 * 8)).isSome then s.reservedBits who v (reservedOf region off)
  else s.misuseBy who

/-- A 32-bit write to a register. Log entry 53. -/
def State.write32 (s : State) (r : RegAt) (who : Option Nat) (v : W32) : State :=
  if 8 ≤ r.region then s.pageWrite (r.region - 8) r.off who v else s.unitWrite r.region r.off who v

/-- A write of 32 or 64 bits, naturally aligned. -/
def State.writeReg (s : State) (r : RegAt) (who : Option Nat) (width : Nat) (v : W64) : State :=
  let t := s.write32 r who (v.setWidth 32)
  if width = 8 then t.write32 { r with off := r.off + 4 } who (BitVec.ofNat 32 (v.toNat / 2 ^ 32)) else t

/-- A write through a control page (R491): the view window takes none. -/
def State.pageStore (s : State) (b off width : Nat) (v : W64) : State :=
  if !(width == 4 || width == 8) || off % width != 0 || decide (0x10000 ≤ off) then s.misuse b
  else if 0x340 ≤ off ∧ off < 0x380 then s
  else match s.pageTarget b off with
    | none => s
    | some r => s.writeReg r (some b) width v

/-- The host of a basin reaches its control page: the basin is defined and the package is ready (R88). Log entry 56. -/
def State.pageOpen (s : State) (b : Nat) : Bool := s.pkg.pkgReady && bsnEnabled s.sheets b

/-- An access over the management bus while bit 8 of the administrator mask is clear (R506). Log entry 57. -/
def State.mgmtDenied (s : State) (path : AccessPath) : Bool := path == .mgmt && !bitOf (trustAdmin s.sheets) 8

/-- An access over a management bus that carries no commands reaches nothing (R93, R100). -/
def State.pathDead (s : State) (path : AccessPath) : Bool := path == .mgmt && !s.mgmtUp

/-- A write on an access path: a control page takes an offset, the others an address of control space (R492). -/
def State.pathWrite (s : State) (path : AccessPath) (addr width : Nat) (v : W64) : State :=
  match path with
  | .page b => if s.pageOpen b then s.pageStore b addr width v else s
  | .keeper _ | .mgmt =>
    if s.pathDead path then s
    else if s.mgmtDenied path then s.emit .mctpError
    else if !(width == 4 || width == 8) || addr % width != 0 then s
    else match controlReg addr with
      | none => s
      | some r => s.writeReg r none width v

/-! ### The commands -/

/-- LO_READ_LATCH: a 32-bit read of the LO half of a pair. Log entry 54. -/
def execLoReadLatch (path : AccessPath) (addr : BitVec 52) (s : State) : Host.Outcome State Fault Refusal :=
  let a := addr.toNat
  let target := match path with
    | .page b => if s.pageOpen b && a % 4 == 0 && decide (a < 0x10000) then s.pageTarget b a else none
    | .keeper _ | .mgmt => if a % 4 == 0 then controlReg a else none
  let admin := decide (0x6000 ≤ a) && decide (a < 0x7000)
  .next (if s.pathDead path then s
    else if s.mgmtDenied path then s.emit .mctpError
    else match target with
    | none => s
    | some r =>
      if r.off % 8 ≠ 0 ∨ (s.pairAt r).isNone then s
      else match s.read32 (pathIndex path admin) r with
        | some (v, t) => t.emit (.regData (BitVec.ofNat 32 v))
        | none => s)

/-- RING_DOORBELL: a write to BSN_RING_PROD of a ring. -/
def execRingDoorbell (b : BasinId) (r : RingId) (prod : W32) (s : State) : Host.Outcome State Fault Refusal :=
  .next (if s.pageOpen b then s.pageWrite b (0x100 + 16 * r) (some b) prod else s)

/-- REGISTER_WRITE. -/
def execRegisterWrite (path : AccessPath) (addr : BitVec 52) (width : Nat) (v : W64) (s : State) :
    Host.Outcome State Fault Refusal :=
  .next (s.pathWrite path addr.toNat width v)

/-- BSN_IRQ_FWD: a host write. -/
def execBsnIrqFwd (b : BasinId) (v : W32) (s : State) : Host.Outcome State Fault Refusal :=
  .next (if s.pageOpen b then s.pageWrite b 0xC (some b) v else s)

/-- CHK_POP on a keeper's path, the management bus, or an administrator's window. -/
def execChkPop (path : AccessPath) (u : CheckId) (s : State) : Host.Outcome State Fault Refusal :=
  let ok := match path with
    | .page b => s.pageOpen b && s.adminBasin b
    | .keeper _ => true
    | .mgmt => bitOf (trustAdmin s.sheets) 8
  .next (if s.pathDead path then s
    else if s.mgmtDenied path then s.emit .mctpError
    else if ok && !(s.die (checkDie u)).isolated then s.popCheck u else s)

/-- BSN_CHK_POP: a host write. -/
def execBsnChkPop (b : BasinId) (v : W32) (s : State) : Host.Outcome State Fault Refusal :=
  .next (if s.pageOpen b then s.pageWrite b 0x308 (some b) v else s)

/-- MCTP_CONTROL_ACCESS: a 32-bit access of control space over the management bus, while bit 8 of the administrator mask is
set; otherwise it completes with an error (R506). Log entry 57. -/
def execMctpControlAccess (write : Bool) (addr : BitVec 52) (v : W32) (s : State) : Host.Outcome State Fault Refusal :=
  let a := addr.toNat
  let target := if a % 4 = 0 then controlReg a else none
  .next (if !s.mgmtUp then s
    else if !bitOf (trustAdmin s.sheets) 8 then s.emit .mctpError
    else match target with
      | none => if write then s else s.emit (.regData 0)
      | some r =>
        if write then s.write32 r none v
        else match s.read32 14 r with
          | some (x, t) => t.emit (.regData (BitVec.ofNat 32 x))
          | none => s.emit (.regData 0))

end Sys2Proof.Machine
end

