-- ==== Sys2Proof/Machine/Hosts.lean ====
section
/-!
DEFINITION. Accesses of hosts and devices to a basin (R404-R406, R424), PCIe segments (R405, R522) and the end of a basin's
opening (R425).
-/
namespace Sys2Proof.Machine

/-! ### Coherent accesses to a basin's memory -/

/-- Read piece by piece, with whether a piece was poisoned; the first failure gives its detail. -/
def State.hostFetch (s : State) (u : Option Nat) (b : Nat) : Nat → Nat → Nat → Except Nat (Bytes × Bool)
  | 0, _, _ => .ok ([], false)
  | f + 1, va, n =>
    if n = 0 then .ok ([], false)
    else match s.accessVia u b false va with
      | .error d => .error d
      | .ok pa => match State.hostFetch s u b f (va + pieceLen va n) (n - pieceLen va n) with
        | .error d => .error d
        | .ok r => .ok (s.readBytes pa (pieceLen va n) ++ r.1, s.poisoned pa || r.2)

/-- Every piece of a range may be written. -/
def State.writable (s : State) (u : Option Nat) (b : Nat) : Nat → Nat → Nat → Bool
  | 0, _, _ => true
  | f + 1, va, n =>
    if n = 0 then true
    else match s.accessVia u b true va with
      | .error _ => false
      | .ok _ => State.writable s u b f (va + pieceLen va n) (n - pieceLen va n)

/-- Write a range and leave no Dalpa copy of its lines (R264). -/
def State.hostStore (s : State) (u : Option Nat) (b : Nat) : Nat → Nat → Bytes → State
  | 0, _, _ => s
  | f + 1, va, bs =>
    if bs = [] then s
    else match s.accessVia u b true va with
      | .error _ => s
      | .ok pa =>
        State.hostStore (s.storeCoherent pa (bs.take (pieceLen va bs.length))) u b f
          (va + pieceLen va bs.length) (bs.drop (pieceLen va bs.length))

/-- The endpoint through which a basin's host reaches its memory; a self-hosted basin's cores use none. Log entry 13. -/
def State.hostUnit (s : State) (b : Nat) : Option Nat :=
  if bsnSelf s.sheets b then none else some (128 + bsnEndpoint s.sheets b)

/-- t, with what the endpoint's cache holds after a host's access to a range in s (R262). -/
def State.hostLearns (s : State) (b va n : Nat) (t : State) : State :=
  let r := s.learnRange (s.hostUnit b) b va n
  { t with tlb := r.tlb, freeCount := r.freeCount }

/-- Pieces that n bytes may span. -/
def piecesOf (n : Nat) : Nat := n / 64 + 2

/-! ### Hosts -/

/-- The regions of basin addresses that only the host reaches (R404). -/
inductive HostRegion where
  | memory
  | device
  | page (off : Nat)
  deriving DecidableEq, Repr

/-- Log entry 58. -/
def hostRegion (a : Nat) : HostRegion :=
  if 0xFFFFFFFF0000 ≤ a ∧ a < 0x1000000000000 then .page (a - 0xFFFFFFFF0000)
  else if (0xFFFE00000000 ≤ a ∧ a < 0xFFFF00000000) ∨ (0xFFFF00000000 ≤ a ∧ a < 0xFFFF10000000) then .device
  else .memory

/-- The host of a basin can send accesses: an external one over its endpoint's link, a self-hosted one while a complex of the
basin runs. -/
def State.hostLive (s : State) (b : Nat) : Bool :=
  s.pageOpen b &&
  (if bsnSelf s.sheets b then (List.range 4).any (fun x => bsnHasComplex s.sheets b x && (s.complex x).running)
   else (s.segment (bsnEndpoint s.sheets b)).linkUp)

/-- Before PKG_READY a Dalpa core of a basin reaches the DDR of its own complex's die and nothing else (R90). -/
def State.earlyOwn (s : State) (b a n : Nat) (write : Bool) : Bool :=
  s.pkg.phase == .ddr && bsnEnabled s.sheets b && bsnSelf s.sheets b && hostRegion a == .memory &&
    (List.range (if n = 0 then 0 else (a % 64 + n - 1) / 64 + 1)).all (fun i =>
      match s.access b write (a / 64 * 64 + 64 * i) with
      | .error _ => false
      | .ok pa => match placeOf pa with
        | .ddr pd _ => (List.range 4).any (fun x =>
            bsnHasComplex s.sheets b x && (s.complex x).running && complexDie x == 4 + pd)
        | _ => false)

/-- BAR2 reaches the basin addresses below its size; BAR0 reaches the control page (R405). Log entry 58. -/
def State.barReaches (s : State) (b a n : Nat) : Bool :=
  bsnSelf s.sheets b || (match hostRegion a with | .page _ => true | _ => false) ||
    decide (a + n ≤ 2 ^ (s.segment (bsnEndpoint s.sheets b)).bar2Log2)

/-- A root-port segment of the basin has its link up. Log entry 58. -/
def State.rootUp (s : State) (b : Nat) : Bool :=
  (bitsSet 32 (bsnRootMask s.sheets b)).any (fun g => (s.segment g).linkUp)

/-- A host read fails: Unsupported Request, and its bit (R405). -/
def State.hostUr (s : State) (b : Nat) : State := (s.emit (.unsupportedRequest b)).setErr b errHostUr

/-- HOST_READ. A read below a root port whose link is down returns all ones (R424). -/
def execHostRead (b : BasinId) (addr : W64) (len : Nat) (s : State) : Host.Outcome State Fault Refusal :=
  let a := addr.toNat
  .next (if !s.hostLive b && !s.earlyOwn b a len false then s
    else if !s.barReaches b a len then s.hostUr b
    else match hostRegion a with
      | .page off =>
        let r := s.pageRead b off len
        r.2.emit (.readData b (leBytes len r.1))
      | .device =>
        if s.rootUp b then s.emit (.deviceAccess b addr false []) else (s.hostUr b).emit (.readData b (List.replicate len 0xFF))
      | .memory =>
        let s := s.cohere (s.hostUnit b) b a len
        match s.hostFetch (s.hostUnit b) b (piecesOf len) a len with
        | .error _ => s.hostLearns b a len (s.hostUr b)
        | .ok (bs, false) => s.hostLearns b a len (s.emit (.readData b bs))
        | .ok (bs, true) => s.hostLearns b a len (s.emit (.readPoisoned b bs)))

/-- HOST_WRITE. A write that fails is discarded whole and sets its bit (R405). Log entry 58. -/
def execHostWrite (b : BasinId) (addr : W64) (data : Bytes) (s : State) : Host.Outcome State Fault Refusal :=
  let a := addr.toNat
  .next (if !s.hostLive b && !s.earlyOwn b a data.length true then s
    else if !s.barReaches b a data.length then s.setErr b errHostWr
    else match hostRegion a with
      | .page off => s.pageStore b off data.length (BitVec.ofNat 64 (leValue data))
      | .device => if s.rootUp b then s.emit (.deviceAccess b addr true data) else (s.hostUr b).setErr b errHostWr
      | .memory =>
        let u := s.hostUnit b
        s.hostLearns b a data.length (if s.writable u b (piecesOf data.length) a data.length
          then s.hostStore u b (piecesOf data.length) a data else s.setErr b errHostWr))

/-! ### Devices below root ports (R424) -/

/-- The basin whose devices stand below a root-port segment with its link up. -/
def State.deviceBasin (s : State) (g : Nat) : Option Nat :=
  if (s.segment g).linkUp ∧ pcieRole (s.sheetsOn (4 + g / 16)) g = 2 then
    ownerOf (fun b => bsnEnabled (s.sheetsOn (4 + g / 16)) b && bitOf (bsnRootMask (s.sheetsOn (4 + g / 16)) b) g)
  else none

/-- DEVICE_MEMORY_REQUEST: translated memory only; anything else completes with Unsupported Request. -/
def execDeviceMemoryRequest (g : SegId) (write : Bool) (addr : W64) (len : Nat) (data : Bytes) (s : State) :
    Host.Outcome State Fault Refusal :=
  let a := addr.toNat
  .next (match s.deviceBasin g with
    | none => s
    | some b =>
      let n := if write then data.length else len
      let u := dieUnit (4 + g.val / 16)
      if 2 ^ 47 < a + n then s.emit (.deviceUr g)
      else if write then
        if s.writable u b (piecesOf n) a n then s.hostStore u b (piecesOf n) a data else s.emit (.deviceUr g)
      else
        let s := s.cohere u b a n
        match s.hostFetch u b (piecesOf n) a n with
        | .error _ => s.emit (.deviceUr g)
        | .ok (bs, false) => s.emit (.deviceData g bs)
        | .ok (bs, true) => s.emit (.devicePoisoned g bs))

/-- DEVICE_IRQ_FWD: data 0 to 13 raise vector 18 + v, any other value misuse (R505). Log entry 58. -/
def execDeviceIrqFwd (g : SegId) (v : W32) (s : State) : Host.Outcome State Fault Refusal :=
  .next (match s.deviceBasin g with
    | none => s
    | some b => s.irqForward b (some b) v)

/-! ### Segments (R424, R522) -/

/-- A segment's link goes down: its CXL ranges become absent, and the owner's vector 1 is raised. Log entry 59. -/
def State.segmentDown (s : State) (g : Nat) : State :=
  if !(s.segment g).linkUp then s
  else
    let s := s.setSegment g { s.segment g with linkUp := false }
    let p := g / 4
    let left := (List.range 4).any (fun i => pcieRole (s.sheetsOn (4 + p / 4)) (4 * p + i) == 2 && (s.segment (4 * p + i)).linkUp)
    let s := if pcieRole (s.sheetsOn (4 + g / 16)) g = 2 ∧ !left then s.setCxlPort p { s.cxlPort p with present := false } else s
    match segmentOwner (s.sheetsOn (4 + g / 16)) g with
    | some b =>
      let s := if (s.basin b).err &&& errLinkDown = 0 then s.setErr b errLinkDown else s.vector b 1
      s.raise 0x0E03 (4 + g / 16) b g 0 0
    | none => s.raise 0x0E03 (4 + g / 16) 0xFF g 0 0

/-- ENDPOINT_LINK_DOWN. -/
def execEndpointLinkDown (g : SegId) (s : State) : Host.Outcome State Fault Refusal := .next (s.segmentDown g)

/-- PERST_N_ASSERT: an input of endpoint segments only; while it is low the link is held down. -/
def execPerstNAssert (g : SegId) (s : State) : Host.Outcome State Fault Refusal :=
  .next (if pcieRole (s.sheetsOn (4 + g / 16)) g ≠ 1 then s
    else
      let t := s.segmentDown g
      t.setSegment g { t.segment g with perst := true })

/-- PERST_N_RELEASE. -/
def execPerstNRelease (g : SegId) (s : State) : Host.Outcome State Fault Refusal :=
  .next (if pcieRole (s.sheetsOn (4 + g / 16)) g ≠ 1 then s else s.setSegment g { s.segment g with perst := false })

/-- SEGMENT_LINK_UP: an owned segment that is not held down; a CXL device returns only at the next basin reset. -/
def execSegmentLinkUp (g : SegId) (s : State) : Host.Outcome State Fault Refusal :=
  .next (if (segmentOwner (s.sheetsOn (4 + g / 16)) g).isNone ∨ (s.segment g).perst ∨ !s.dieIn (4 + g / 16) ∨ !s.pkg.pkgReady then s
    else s.setSegment g { s.segment g with linkUp := true, released := pcieRole (s.sheetsOn (4 + g / 16)) g == 2 })

/-- PCIE_CONFIG_REQUEST: the endpoint function's identity, its BARs, Resizable BAR from 1 GiB to 256 TiB, and MSI-X (R405).
Log entry 59. -/
def execPcieConfigRequest (g : SegId) (q : CfgReq) (s : State) : Host.Outcome State Fault Refusal :=
  let k := s.segment g
  let cut := fun (log2 : Nat) (v : W64) => BitVec.ofNat 64 (v.toNat / 2 ^ log2 * 2 ^ log2)
  .next (if !s.pkg.pkgReady then s.emit (.rrs g)
    else match segmentOwner (s.sheetsOn (4 + g / 16)) g with
      | none => s
      | some b =>
        if pcieRole (s.sheetsOn (4 + g / 16)) g ≠ 1 ∨ !k.linkUp then s
        else match q with
          | .readId =>
            (s.emit (.cfgData g (BitVec.ofNat 64 (0x2E57 + 0x4120 * 2 ^ 16 + 0xA1 * 2 ^ 32 + 0x120000 * 2 ^ 40)))).emit
              (.cfgData g (BitVec.ofNat 64 (0x2E57 + (0x10 + b) * 2 ^ 16)))
          | .setBar0 v => s.setSegment g { k with bar0 := cut 16 v }
          | .setBar2 v => s.setSegment g { k with bar2 := cut k.bar2Log2 v }
          | .resizeBar2 n => if 30 ≤ n ∧ n ≤ 48 then s.setSegment g { k with bar2Log2 := n, bar2 := cut n k.bar2 } else s
          | .msixEnable on => s.setSegment g { k with msix := on })

/-! ### Opening -/

/-- BASIN_OPEN_COMPLETE. Log entry 84. -/
def execBasinOpenComplete (b : BasinId) (s : State) : Host.Outcome State Fault Refusal :=
  .next (if (s.basin b).st = .opening then s.endOpen b else s)

end Sys2Proof.Machine
end

