-- ==== Sys2Proof/Machine/Keeper.lean ====
section
/-!
DEFINITION. Keepers and their roles (R82-R85), the life cycle and JTAG (R99-R102), and the ends of wipes that run on
(R97).
-/
namespace Sys2Proof.Machine

/-- KEEPER_LOCKSTEP_MISMATCH: a keeper fault of its die (R82). -/
def execKeeperLockstepMismatch (d : DieId) (s : State) : Host.Outcome State Fault Refusal :=
  .next (if s.keeperLive d then s.raise 0x0B01 d 0xFF 0xFFFF 0 0 else s)

/-- KEEPER_WATCHDOG_EXPIRY: a keeper fault of its die (R82). -/
def execKeeperWatchdogExpiry (d : DieId) (s : State) : Host.Outcome State Fault Refusal :=
  .next (if s.keeperLive d then s.raise 0x0B02 d 0xFF 0xFFFF 0 0 else s)

/-- HEARTBEAT_SEND: the head keeper sends a heartbeat to the standby on both paths (R84). -/
def execHeartbeatSend (s : State) : Host.Outcome State Fault Refusal :=
  .next (if s.pkg.standby.isSome ∧ s.keeperLive s.pkg.head then (s.emit (.heartbeat 0)).emit (.heartbeat 1) else s)

/-- A new head carries out the decision recorded with it; without one the turn aborts with 0x05 (R79). -/
def State.inheritTurn (s : State) : State :=
  match s.pkg.turn with
  | none => s
  | some t =>
    match t.standby with
    | some v => s.setTurn (some { t with decision := some v, told := if v && !t.told.contains s.pkg.head then t.told ++ [s.pkg.head] else t.told })
    | none => s.abortTurn t 5 0 0

/-- HEARTBEAT_LOSS: the standby takes the head role and treats the former head's die as having a keeper fault (R84). -/
def execHeartbeatLoss (s : State) : Host.Outcome State Fault Refusal :=
  .next (match s.pkg.standby with
    | none => s
    | some n =>
      if !s.keeperLive n then s
      else
        let old := s.pkg.head
        let t := s.setPkg { s.pkg with head := n, standby := none, holdRises := true }
        (t.inheritTurn).raise 0x0B03 old 0xFF 0xFFFF 0 0)

/-- PROCESSOR_KEEPER_SILENCE: a compute-die keeper asserts CYCLE_REQ_N, and the switched domains are held (R85, R472).
Log entry 75. -/
def execProcessorKeeperSilence (d : CDieId) (s : State) : Host.Outcome State Fault Refusal :=
  .next (if s.keeperLive d then (s.holdDomains.setPkg { s.holdDomains.pkg with cycleReq := true }).raise 0x0B04 d 0xFF 0xFFFF 0 0 else s)

/-! ### Life cycle (R99-R101) -/

def LifeCycle.ofIndex : Nat → LifeCycle
  | 0 => .blank
  | 1 => .provisioned
  | 2 => .deployed
  | 3 => .returned
  | _ => .scrapped

/-- The arguments of the command: target, hash count, two reserved bytes, the hashes. -/
def lifeArgs (a : Bytes) : Bool := decide (field a 1 1 ≤ 4) && a.length == 4 + 48 * field a 1 1 && zeroAt a 2 2

/-- The hashes supplied, for owner slots from 0 on. -/
def lifeHashes (a : Bytes) : NMap Bytes := (List.range (field a 1 1)).map (fun i => (i, slice a (4 + 48 * i) 48))

/-- The check of R101 on the inactive slot; the code of its failure, 0 when it passes. Log entry 98. -/
def State.provisionCheck (s : State) (a : Bytes) : Nat :=
  let v := s.checkSlot { s.validateIn true with life := .provisioned, hashes := lifeHashes a, ownMask := true } s.otherSlot
  let n := field a 1 1
  if v.code ≠ 0 then v.code
  else if n ≤ v.keyIndex then 5
  else if !bitOf (idLifeMask v.sheets) 1 then 9
  else if 2 ^ n ≤ trustSigning v.sheets then 5
  else 0

/-- Why a transition is refused: 0 when it is accepted. Log entry 98. -/
def State.lifeRefusal (s : State) (a : Bytes) : Nat :=
  let now := s.pkg.life.index
  let target := field a 0 1
  if target = 4 ∧ now < 4 then 0
  else if target ≠ now + 1 ∨ 4 < target then 1
  else if !bitOf (idLifeMask s.sheets) target then 9
  else if now = 0 then (if field a 1 1 = 0 then 1 else s.provisionCheck a)
  else 0

/-- The transition (R99): everything is wiped, the flash endpaper slot erased, the fuses blown, the package reset. -/
def State.transition (s : State) (a : Bytes) : State :=
  let life := LifeCycle.ofIndex (field a 0 1)
  let fuse := decide (s.pkg.life = .blank) && decide (life = .provisioned)
  let t := if fuse then s.pendTurn else s
  let t := t.flashErase 0x08000000 0x800000
  let t := { t with mem := [], poison := [], caches := [], snoopLines := [] }
  let t := t.setPkg { t.pkg with
    life := life, keyHash := if fuse then lifeHashes a else t.pkg.keyHash, setA := [], setB := [], history := []
    histCount := 0, histLost := 0 }
  t.restart

/-- LIFE_CYCLE: the reply comes before the transition begins. -/
def execLifeCycle (b : BasinId) (s : State) : Host.Outcome State Fault Refusal :=
  .next (s.command b 0x0017 true lifeArgs (fun a t =>
    let code := t.lifeRefusal a
    if code ≠ 0 then t.replyRefused b code else (t.replyDone b []).transition a))

/-- JTAG_INSTRUCTION (R99, R102): in DEPLOYED and SCRAPPED only the mandatory set, while RESET_N is low; all else is BYPASS. -/
def execJtagInstruction (ir : JtagIr) (s : State) : Host.Outcome State Fault Refusal :=
  let mandatory := match ir with
    | .bypass | .sample | .preload | .extest => true
    | .boundaryOptional | .debug => false
  let open_ := s.pkg.life != .deployed && s.pkg.life != .scrapped
  .next (s.setPkg { s.pkg with jtagIr := if open_ || (mandatory && !s.pkg.resetN) then ir else .bypass })

/-! ### Wipes that run on (R97) -/

/-- DDR_BLOCK_ZEROED: a block's clear-pending mark is cleared. Log entry 80. -/
def execDdrBlockZeroed (block : Nat) (s : State) : Host.Outcome State Fault Refusal :=
  .next { s with ddrMarks := unmark block s.ddrMarks }

/-- CXL_ZERO_FILL_COMPLETE: the range becomes available. -/
def execCxlZeroFillComplete (range : Fin 64) (s : State) : Host.Outcome State Fault Refusal :=
  .next { s with cxlFilling := s.cxlFilling.filter (· != range.val), cxlFresh := s.cxlFresh.filter (fun e => e.1 != range.val) }

end Sys2Proof.Machine
end

