-- ==== Sys2Proof/Machine/Stitch.lean ====
section
/-!
DEFINITION. Stitch links (14_stitch): capability exchange and width (R380-R383), messages (R385-R389), lane faults
(R390, R391), and the loss and return of a partner (R393-R395).
-/
namespace Sys2Proof.Machine

/-- An error of a link, logged on the die of its first end (R397). -/
def State.linkError (s : State) (detail l : Nat) (module : Nat) : State :=
  (s.setLink l { s.link l with detail := detail }).raise (0x0A00 + detail) (linkEnds l).1 0xFF l module 0

/-! ### Capability records (R380, R381) -/

/-- A window entry: reserved bits clear, and the whole entry zero beyond the window count. -/
def windowOk (r : Bytes) (i : Nat) : Bool :=
  let w := field r (0x20 + 8 * i) 8
  decide (w < 2 ^ 60) && (decide (i < field r 9 1) || w == 0)

/-- A record whose values all lie in the ranges of R380. Log entry 61. -/
def recordOk (r : Bytes) : Bool :=
  r.length == 64 && field r 0 2 == 1 && field r 2 1 == 1 && field r 3 1 != 0 && decide (field r 3 1 < 4) &&
    decide (field r 5 1 ≤ 3) && decide (field r 6 1 ≤ 5) && bitOf (field r 7 1) 0 && bitOf (field r 7 1) 3 &&
    decide (field r 8 1 ≤ 1) && decide (1 ≤ field r 9 1) && decide (field r 9 1 ≤ 4) && decide (1 ≤ field r 0xA 2) &&
    decide (field r 0xA 2 ≤ 4096) && (List.range 4).all (fun k => field r (0xC + k) 1 != 0) && zeroAt r 0x18 8 &&
    (List.range 4).all (windowOk r)

/-- Wide with wide, the two hinge roles, spine with spine. -/
def rolesPair (a b : Nat) : Bool := (a == 0 && b == 0) || (a == 1 && b == 2) || (a == 2 && b == 1) || (a == 3 && b == 3)

/-- The rates both ends and the stitch sheet allow, as bits 0 (16 GT/s) and 1 (32 GT/s). -/
def commonRates (t : Sheets) (l : Nat) (a b : Bytes) : Nat := field a 3 1 &&& field b 3 1 &&& (if stcRate t l = 1 then 1 else 3)

/-- Two records match. -/
def recordsMatch (t : Sheets) (l : Nat) (a b : Bytes) : Bool :=
  recordOk a && recordOk b && commonRates t l a b != 0 && rolesPair (field a 5 1) (field b 5 1) && field a 0x10 8 == field b 0x10 8

/-- A capability failure: the link stays down. Log entry 61. -/
def State.capabilityFails (s : State) (l : Nat) : State :=
  (s.setLink l { s.link l with st := .down, record0 := none, record1 := none, kettle := false }).linkError 5 l 0

/-- CAPABILITY_RECORD: an end's record arrives while the link trains; with both, they are matched. -/
def execCapabilityRecord (l : LinkId) (fromSecond : Bool) (record : Bytes) (s : State) : Host.Outcome State Fault Refusal :=
  let k := s.link l
  .next (if k.st ≠ .training then s
    else
      let k := if fromSecond then { k with record1 := some record } else { k with record0 := some record }
      let s := s.setLink l k
      if !recordOk record then s.capabilityFails l
      else match k.record0, k.record1 with
        | some a, some b =>
          if recordsMatch s.sheets l a b then
            s.setLink l { k with kettle := field a 8 1 == 1 && field b 8 1 == 1, rate16 := !bitOf (commonRates s.sheets l a b) 1 }
          else s.capabilityFails l
        | _, _ => s)

/-! ### Width (R382, R383) -/

/-- The groups of the width ladder in order of preference, as (width, first module), up to a width. -/
def ladder (design limit : Nat) : List (Nat × Nat) :=
  ([16, 8, 4, 2, 1].filter (fun w => decide (w ≤ design) && decide (w ≤ limit))).flatMap
    (fun w => (List.range (design / w)).map (fun i => (w, w * i)))

def groupGood (mask : Nat) (g : Nat × Nat) : Bool := (List.range g.1).all (fun i => bitOf mask (g.2 + i))

/-- The receive width and group of an end: the widest wholly good group. -/
def pickGroup (design limit mask : Nat) : Option (Nat × Nat) := (ladder design limit).find? (groupGood mask)

/-- Good modules of a link: the mask without the modules marked bad, within the design width. -/
def Link.cut (k : Link) (l : Nat) (mask : BitVec 16) : Nat :=
  maskWhere (designWidth l) (fun m => bitOf mask.toNat m && !k.bad.contains m)

/-- Not carried by the new width: modules of the design width that an end does not receive. Log entry 61. -/
def lostModules (l : Nat) (common : Nat) (bad : List Nat) : List Nat :=
  (List.range (designWidth l)).filter (fun m => !bitOf common m && !bad.contains m)

/-- The link severed (R390): no module is good in both masks. What it held takes the detour; a kettle word is sent anew. -/
def State.sever (s : State) (l : Nat) : State :=
  let k := s.link l
  let e := linkEnds l
  let cut := { k with st := .severed, width := 0, held := false, retraining := []
                      first := { k.first with waiting := [] }, second := { k.second with waiting := [] } }
  let s := ((s.setLink l cut).restartChecks l).linkError 3 l 0
  let s := s.forEach (k.first.waiting.filter (fun m => m.type != 7)) (fun s m => s.sendToward e.1 m)
  s.forEach (k.second.waiting.filter (fun m => m.type != 7)) (fun s m => s.sendToward e.2 m)

/-- The link runs at a width; one to a returning die carries class 3 only until admission (R394). Modules lost on the way
are recorded. Log entry 61. -/
def State.activate (s : State) (l : Nat) (g : Nat × Nat) (st : LinkState) (common attempts : Nat) : State :=
  let e := linkEnds l
  let k := s.link l
  let lost := lostModules l common k.bad
  let s := s.setLink l { k with
    st := st, width := g.1, firstModule := g.2, attempts := attempts, goodMask := BitVec.ofNat 16 common, bad := k.bad ++ lost,
    class3Only := (s.die e.1).isolated || (s.die e.2).isolated, held := false, retraining := [] }
  let s := s.setLink l (if k.st.carries then s.link l else (s.link l).fresh l)
  (s.pumpLink l).forEach lost (fun s m => s.linkError 2 l m)

/-- Both ends try again at the lower of their widths, at the lowest group good in both masks, or narrower. -/
def retryGroup (design a b common : Nat) : Option (Nat × Nat) := pickGroup design (min a b) common

/-- Each end sends its echo: its receive width, its good receive modules and the attempt (R383). -/
def State.sendEchoes (s : State) (l : Nat) (wa wb : Option Nat) (a b n : Nat) : State :=
  (s.emit (.widthEcho l false (wa.getD 0) a n)).emit (.widthEcho l true (wb.getD 0) b n)

/-- WIDTH_ECHO: the echoes of an attempt are compared. From the second attempt on, each end receives at most the group the
last attempt settled. -/
def execWidthEcho (l : LinkId) (first second : BitVec 16) (s : State) : Host.Outcome State Fault Refusal :=
  let k := s.link l
  let design := designWidth l
  let a := k.cut l first
  let b := k.cut l second
  let common := a &&& b
  let n := if k.width = 0 then 1 else k.attempts + 1
  let pick := fun (mask : Nat) =>
    if k.width ≠ 0 ∧ groupGood mask (k.width, k.firstModule) then some (k.width, k.firstModule)
    else pickGroup design (if k.width = 0 then linkLimit s.sheets l else k.width) mask
  .next (if k.st ≠ .training then s
    else
      let s := s.sendEchoes l ((pick a).map (·.1)) ((pick b).map (·.1)) a b n
      match pickGroup design 1 common with
      | none => (s.setLink l { k with attempts := n, goodMask := 0 }).sever l
      | some narrowest =>
        match pick a, pick b with
        | some ga, some gb =>
          if ga = gb then s.activate l ga .active common n
          else if 3 ≤ n then (s.activate l narrowest .narrow common 3).linkError 1 l 0
          else
            let g := (retryGroup design ga.1 gb.1 common).getD narrowest
            s.setLink l { k with width := g.1, firstModule := g.2, attempts := n, goodMask := BitVec.ofNat 16 common }
        | _, _ => s)

/-! ### Requests and completions (R385-R388) -/

/-- The completion of a request: back to its source, its tag echoed. -/
def hdrReply (h : StitchHdr) (status : Nat) : StitchHdr :=
  { h with coherent := false, part := false, poisoned := status == 3, src := h.dst, dst := h.src,
           status := BitVec.ofNat 8 status, addr := h.tag.setWidth 52 }

/-- A request awaits its completion at its source. Log entry 60. -/
def State.track (s : State) (h : StitchHdr) (write : Bool) : State :=
  let r : StitchReq := ⟨h.src, h.dst, h.tag, write, h.coherent, h.addr⟩
  if s.requests.contains r then s else { s with requests := s.requests ++ [r] }

/-- A die answers a request with its one completion. -/
def State.stitchReply (s : State) (d : Nat) (h : StitchHdr) (status : Nat) (data : Bytes) : State :=
  s.sendToward d ⟨3, hdrReply h status, 0, data⟩

/-- Pass a message on, unchanged, along the route; a request whose route is lost completes absent (R258). Log entry 60. -/
def State.passOn (s : State) (d : Nat) (m : StitchMsg) : State :=
  if s.nextDie d m.hdr.dst ≠ 0xFF then s.sendToward d m
  else if m.type = 1 ∨ m.type = 2 then s.stitchReply d m.hdr 1 []
  else s

/-- A request's epoch is stale for its basin (R387); class 3 carries none. Log entry 60. -/
def State.staleRequest (s : State) (h : StitchHdr) : Bool :=
  h.cls.toNat != 3 && decide (127 < (h.epoch - (s.basin h.basin).epoch).toNat)

/-- The pieces a request names. -/
def hdrPieces (h : StitchHdr) : List Nat := (List.range (h.pieces + 1)).map (fun i => h.addr.toNat + 64 * i)

/-- The control slice of a die. Log entry 57. -/
def inControl (d a : Nat) : Bool := match controlReg a with | some r => r.region == d | none => false

/-- The status of a piece at its destination: 2 outside the die's windows or unmapped, 1 absent. -/
def State.pieceStatus (s : State) (d a : Nat) : Nat :=
  if inControl d a then 0
  else if placeOf a = .unmapped ∨ placeDie (placeOf a) ≠ d then 2
  else match s.accStat a with
    | .ok => 0
    | .absent => 1
    | .unmapped => 2

/-- The status of a request before poison. -/
def State.requestStatus (s : State) (d : Nat) (h : StitchHdr) : Nat :=
  if s.staleRequest h then 4
  else (((hdrPieces h).map (s.pieceStatus d)).find? (· != 0)).getD 0

/-- A home agent records that a processor die's caches hold a line. An HBM filter holds at most 1,048,576 lines of its stack; a
further one recalls the oldest, which is written back if it is dirty. DDR and CXL lines stand in their processor die's
directory (R263). Log entry 63. -/
def State.recordLine (s : State) (line die : Nat) : State :=
  if s.snoopLines.contains (line, die) then s
  else match s.memUnit (64 * line) with
    | some (d, u) =>
      let mine := if d < 4 then s.snoopLines.filter (fun e => s.memUnit (64 * e.1) == some (d, u)) else []
      let s := match (if 1048576 ≤ mine.length then mine.head? else none) with
        | some old =>
          let k := s.die d
          let i := u % 3
          (s.setDie d { k with snoopRecall := nset (fun _ => 0) k.snoopRecall i (satCount (nget (fun _ => 0) k.snoopRecall i + 1)) }).snoopHolder
            .recall old
        | none => s
      { s with snoopLines := s.snoopLines ++ [(line, die)] }
    | none => { s with snoopLines := s.snoopLines ++ [(line, die)] }

/-- Bytes that a read returns; control space gives no register to an access of 64 bytes (R491). -/
def State.stitchBytes (s : State) (d : Nat) (h : StitchHdr) : Bytes :=
  (hdrPieces h).flatMap (fun a => if inControl d a then List.replicate 64 0 else s.readBytes a 64)

/-- A die takes a message: its fabric works, in service or not (R27); one that is returning takes class 3 only (R394). -/
def State.takes (s : State) (d : Nat) (h : StitchHdr) : Bool :=
  !(s.die d).isolated || (h.cls.toNat == 3 && (s.die d).keeperUp)

/-- STITCH_READ at a die on its way. -/
def execStitchRead (d : DieId) (h : StitchHdr) (s : State) : Host.Outcome State Fault Refusal :=
  .next (if !s.takes d h ∨ h.src = d then s
    else
      let s := (s.track h false).received d ⟨1, h, 0, []⟩
      if h.dst ≠ d then s.passOn d ⟨1, h, 0, []⟩
      else
        let st := s.requestStatus d h
        if st ≠ 0 then s.stitchReply d h st []
        else
          let s := if h.coherent then s.forEach (hdrPieces h) (fun s a => s.downgradeLine (a / 64)) else s
          let s := if h.coherent && decide (4 ≤ h.src.val) then s.forEach (hdrPieces h) (fun s a => s.recordLine (a / 64) h.src) else s
          s.stitchReply d h (if (hdrPieces h).any s.poisoned then 3 else 0) (s.stitchBytes d h))

/-- Store one piece of a write: all of it, or the bytes its enables cover; a poisoned one leaves poison where memory carries
it (R283). A write of four or eight aligned bytes reaches a register. -/
def State.stitchStore (s : State) (d : Nat) (h : StitchHdr) (a : Nat) (enables : W64) (bs : Bytes) : State :=
  let en := if h.part then enables.toNat else 2 ^ 64 - 1
  let s := if h.coherent then s.invalidateLine (a / 64) else s
  if inControl d a then
    match ([4, 8].flatMap (fun w => (List.range (64 / w)).map (fun i => (w, w * i)))).find?
        (fun x => en == (2 ^ x.1 - 1) <<< x.2) with
    | some (w, o) => match controlReg (a + o) with
      | some r => s.writeReg r none w (BitVec.ofNat 64 (field bs o w))
      | none => s
    | none => s
  else if h.poisoned then (if holdsPoison a then s.addPoison (a / 64) else s)
  else if en = 2 ^ 64 - 1 then s.storePiece a bs
  else s.forEach ((List.range 64).filter (bitOf en)) (fun s i => s.setByte (a + i) (bs.getD i 0))

/-- STITCH_WRITE at a die on its way: nothing is stored unless every piece can be. -/
def execStitchWrite (d : DieId) (h : StitchHdr) (enables : W64) (data : Bytes) (s : State) : Host.Outcome State Fault Refusal :=
  .next (if !s.takes d h ∨ h.src = d then s
    else
      let m : StitchMsg := ⟨2, h, enables, data⟩
      let s := (s.track h true).received d m
      if h.dst ≠ d then s.passOn d m
      else
        let st := s.requestStatus d h
        let s := if st ≠ 0 then s
          else s.forEach (hdrPieces h) (fun s a => s.stitchStore d h a enables (slice data (a - h.addr.toNat) 64))
        s.stitchReply d h st [])

/-- The lines that a coherent read brings stand in the caches of the processor die; its harts may store into them at once.
Log entry 63. -/
def State.fillCaches (s : State) (d a : Nat) (data : Bytes) : State :=
  s.forEach (List.range (data.length / 64)) (fun s i =>
    let r := s.hartStores ⟨a / 64 + i, d, false, slice data (64 * i) 64⟩
    r.1.keepCopy r.2)

/-- STITCH_COMPLETION: it ends the request at its source; a status from 5 on counts as 2 (R387). Log entry 60. -/
def execStitchCompletion (d : DieId) (h : StitchHdr) (data : Bytes) (s : State) : Host.Outcome State Fault Refusal :=
  let mine := fun (r : StitchReq) => r.die == d.val && r.dst == h.src.val && r.tag == h.addr.setWidth 12
  .next (if !s.takes d h ∨ h.src = d then s
    else
      let m : StitchMsg := ⟨3, h, 0, data⟩
      let s := s.received d m
      if h.dst ≠ d then s.passOn d m
      else match s.requests.find? mine with
      | none => s
      | some r =>
        let s := { s with requests := s.requests.erase r }
        let s := if r.coherent && !r.write && decide (4 ≤ d.val) && h.status == 0 then s.fillCaches d r.addr.toNat data else s
        s.emit (.stitchDone d r.tag (if 5 ≤ h.status.toNat then 2 else h.status.toNat) data))

/-- STITCH_RESERVED_TYPE: the message is discarded and counted. -/
def execStitchReservedType (l : LinkId) (type : Byte) (s : State) : Host.Outcome State Fault Refusal :=
  let k := s.link l
  .next (if !k.st.carries ∨ (type.toNat ≠ 0 ∧ type.toNat < 9) then s
    else s.setLink l { k with rxDrop := satCount (k.rxDrop + 1) })

/-! ### Snoops (R263, R386) -/

/-- SNOOP_REQUEST at a processor die: it answers with the line's bytes if harts have stored into its copy; a downgraded line
stays as a clean copy, an invalidated or recalled one leaves the caches. Log entry 63. -/
def execSnoopRequest (d home : DieId) (line : BitVec 52) (kind : SnoopKind) (s : State) : Host.Outcome State Fault Refusal :=
  let n := line.toNat / 64
  .next (if d.val < 4 ∨ !s.dieIn d then s
    else
      let m : StitchMsg := ⟨5, { plainHdr home d with status := BitVec.ofNat 8 (snoopCode kind), addr := line }, 0, []⟩
      let s := s.received d m
      let r := s.surrender n d kind
      let s := match kind with
        | .downgrade => r.1
        | _ => { r.1 with snoopLines := r.1.snoopLines.erase (n, d.val) }
      let dirty := match r.2 with | some e => if e.dirty then e.data else [] | none => []
      s.sendToward d ⟨6, { plainHdr d home with status := if dirty = [] then 0 else 1, addr := line }, 0, dirty⟩)

/-- SNOOP_RESPONSE at the home agent: dirty data is written back. Log entry 63. -/
def execSnoopResponse (home : DieId) (line : BitVec 52) (dirty : Bool) (data : Bytes) (s : State) :
    Host.Outcome State Fault Refusal :=
  let a := line.toNat / 64 * 64
  .next (if !dirty ∨ s.pieceStatus home a ≠ 0 ∨ inControl home a then s else s.storePiece a (slice data 0 64))

/-! ### Loss of a partner (R393, R26) -/

/-- Requests of a die to or through the lost one complete absent. Log entry 62. -/
def State.failRequests (s : State) (d lost : Nat) : State :=
  let hit := fun (r : StitchReq) => r.die == d && (r.dst == lost || s.routeVia d r.dst lost)
  let gone := s.requests.filter hit
  ({ s with requests := s.requests.filter (fun r => !hit r) }).forEach gone (fun s r => s.emit (.stitchDone d r.tag 1 []))

/-- A die is isolated (R26, R286): barges to it or through it fail with the beats they have begun, and routes through it go by
their alternates; a drain back to a path through it ends. Log entry 62. -/
def State.isolate (s : State) (lost : Nat) : State :=
  if (s.die lost).isolated then s
  else
    let s := s.failBarges (fun k pa => k / 32 != lost && s.routeVia (k / 32) (placeDie (placeOf pa)) lost)
    let s := s.divert lost
    let keep := s.draining.filter (fun p => p.1 != lost && !(primaryRoute p.1 p.2).contains lost)
    let waits := fun (m : StitchMsg) => keep.contains (m.hdr.src.val, m.hdr.dst.val)
    let go := s.drainWait.filter (fun m => !waits m)
    let s := State.forEach { s with draining := keep, drainWait := s.drainWait.filter waits } go (fun s m => s.sendToward m.hdr.src m)
    s.forEach ((s.cores.map (fun e => e.1)).filter (fun c => c / 256 == lost)) (fun s c => s.depart c true)

/-- A die learns that another is lost: it stops sending to it, fails requests, masks its kettle drive and reports it. The
first report isolates the lost die and moves the routes through it. Log entry 62. -/
def State.loseDie (s : State) (d lost : Nat) : State :=
  let s := s.failRequests d lost
  let k := s.die d
  let s := s.setDie d { k with kettleMask := if k.kettleMask.contains lost then k.kettleMask else k.kettleMask ++ [lost] }
  let s := match linkBetween d lost with
    | some l =>
      if (s.link l).st = .severed then s
      else
        let k := s.link l
        let down := { k with st := .down, held := false, retraining := [], record0 := none, record1 := none
                             first := { k.first with waiting := [] }, second := { k.second with waiting := [] } }
        (s.setLink l down).restartChecks l
    | none => s
  if (s.die lost).isolated then s else (s.isolate lost).raise 0x0A04 lost 0xFF lost 0 0

/-- ISOLATION_NOTICE at die d. Log entry 62. -/
def execIsolationNotice (d lost : DieId) (_reason : Fin 3) (s : State) : Host.Outcome State Fault Refusal :=
  .next (if d = lost ∨ !s.dieIn d then s else s.loseDie d lost)

/-- FLIT_LOSS_TIMEOUT: one end of an active link sees no flit for 1 µs. -/
def execFlitLossTimeout (l : LinkId) (lostSecond : Bool) (s : State) : Host.Outcome State Fault Refusal :=
  let e := linkEnds l
  let d := if lostSecond then e.1 else e.2
  let lost := if lostSecond then e.2 else e.1
  .next (if !(s.link l).st.carries ∨ !s.dieIn d then s else s.loseDie d lost)

/-! ### Lane faults (R390, R391) -/

/-- LANE_FAULT: the link holds its units while the module retrains; a fault on another module joins the same retrain. Past
the threshold the module has counted more retries than it, an open number of them. Log entry 62. -/
def execLaneFault (l : LinkId) (module : Fin 16) (cause : LaneFaultCause) (s : State) : Host.Outcome State Fault Refusal :=
  let k := s.link l
  .next (if !k.st.carries ∨ designWidth l ≤ module.val ∨ k.bad.contains module.val then s
    else
      let held := { k with held := true, retraining := if k.retraining.contains module.val then k.retraining else k.retraining ++ [module.val] }
      match cause with
      | .stuck => s.setLink l held
      | .retryThreshold =>
        let f := s.free
        let n := nget (fun _ => 0) k.retries module.val + stcThreshold s.sheets l + 1 + f.1
        f.2.setLink l { held with retries := nset (fun _ => 0) k.retries module.val (satCount n) })

/-- STITCH_RETRAIN_DONE: a module whose repair is exhausted is lost; one pair of echoes settles the width, which never
widens (R40). The link resumes from its held units. -/
def execStitchRetrainDone (l : LinkId) (repaired : Bool) (first second : BitVec 16) (s : State) : Host.Outcome State Fault Refusal :=
  let k := s.link l
  .next (if !k.st.carries ∨ k.retraining = [] then s
    else
      let t := if repaired then s
        else (s.setLink l { k with bad := k.bad ++ k.retraining }).forEach k.retraining (fun s m => s.linkError 2 l m)
      let k := t.link l
      let a := k.cut l first
      let b := k.cut l second
      let design := designWidth l
      let width := fun (mask : Nat) => (pickGroup design k.width mask).map (·.1)
      let t := t.sendEchoes l (width a) (width b) a b k.attempts
      match pickGroup design 1 (a &&& b) with
      | none => (t.setLink l { k with goodMask := 0 }).sever l
      | some narrowest =>
        match pickGroup design k.width a, pickGroup design k.width b with
        | some ga, some gb =>
          if ga = gb then t.activate l ga k.st (a &&& b) k.attempts
          else t.activate l narrowest .narrow (a &&& b) k.attempts
        | _, _ => t)

/-- ROUTE_DRAIN_COMPLETE: with no transaction left on the alternate, the pair's route is the primary one again,
and the transactions that waited for it go out. -/
def execRouteDrainComplete (a t : DieId) (s : State) : Host.Outcome State Fault Refusal :=
  let p := (a.val, t.val)
  .next (if !s.draining.contains p ∨ s.requests.any (fun r => r.die == a.val && r.dst == t.val) then s
    else
      let mine := fun (m : StitchMsg) => m.hdr.src == a && m.hdr.dst == t
      let s' := { s with draining := s.draining.erase p, alternates := s.alternates.erase p, drainWait := s.drainWait.filter (fun m => !mine m) }
      s'.forEach (s.drainWait.filter mine) (fun s m => s.sendToward a m))

end Sys2Proof.Machine
end

