-- ==== Sys2Proof/Machine/Ladder.lean ====
section
/-!
DEFINITION. The ladder of recoveries (17_faults_recovery): the scope of an error (R451, R452), the logs (R453, R461), the
re-faults (R458), merging, pre-emption and queueing (R460), and the fence (R459, R469, R533).
-/
namespace Sys2Proof.Machine

/-! ### Scopes -/

/-- A scope with its unit: level 0 context (core), 1 engine (cluster), 2 basin, 3 die, 4 package, 5 power cycle. -/
structure Target where
  level : Nat
  unit : Nat
  deriving DecidableEq, Repr

/-- A context error's target: its core while the context is FAULTED; the context may have ended already (R451). -/
def State.contextTarget (s : State) (c : Nat) : Option Target :=
  if c < 1024 ∧ (s.core c).ctx = .faulted then some ⟨0, c⟩ else none

/-- The scope an error takes the first time it occurs (R451, R452); none when it is logged and reported only. -/
def State.firstScope (s : State) (e : ErrEvent) : Option Target :=
  let code := e.code.toNat
  let d := e.die.val
  let b := e.basin.toNat
  let u := e.unit.toNat
  let named := if b < 8 then some (Target.mk 2 b) else some ⟨3, d⟩
  if (0x100 ≤ code ∧ code < 0x600) ∨ (0x601 ≤ code ∧ code ≤ 0x605) then s.contextTarget u
  else match code with
    | 0x0606 => named
    | 0x0701 => named
    | 0x0702 => some ⟨3, d⟩
    | 0x0803 => if s.pkg.phase = .ready then some ⟨3, d⟩ else none
    | 0x0806 => some ⟨3, d⟩
    | 0x0A04 => if (s.die (u % 6)).inService then some ⟨3, u % 6⟩ else none
    | 0x0B01 => some ⟨3, d⟩
    | 0x0B02 => some ⟨3, d⟩
    | 0x0B03 => some ⟨3, d⟩
    | 0x0B04 => some ⟨5, 0⟩
    | 0x0B05 => some ⟨3, d⟩
    | 0x0C03 => some ⟨3, d⟩
    | 0x1005 => some ⟨4, 0⟩
    | 0x1006 => some ⟨5, 0⟩
    | 0x1007 =>
      if e.data = 0 then s.contextTarget u else if e.data = 1 then some ⟨1, u⟩ else if b < 8 then some ⟨2, b⟩ else none
    | 0x1008 => if b < 8 then some ⟨2, b⟩ else none
    | _ => none

/-- The next level of a scope (R457, R461): a cluster owned by no basin goes to its die. -/
def State.widen (s : State) (x : Target) (die : Nat) : Target :=
  match x.level with
  | 0 => ⟨1, x.unit / 8⟩
  | 1 => match clusterOwner s.sheets x.unit with
    | some b => ⟨2, b⟩
    | none => ⟨3, x.unit / 32⟩
  | 2 => ⟨3, die⟩
  | 3 => ⟨4, 0⟩
  | _ => ⟨5, 0⟩

/-- A basin uses a die (R533). -/
def basinUses (t : Sheets) (b d : Nat) : Bool :=
  bsnEnabled t b &&
  ((List.range 128).any (fun c => bsnHasCluster t b c && c / 32 == d) ||
   (bitsSet 12 (bsnStackMask t b)).any (fun k => k / 3 == d) ||
   (bitsSet 16 (bsnChannelMask t b)).any (fun c => 4 + c / 8 == d) ||
   (bitsSet 56 (bsnPortMask t b)).any (fun p => p / 14 == d) ||
   (bitsSet 4 (bsnComplexMask t b)).any (fun x => complexDie x == d) ||
   (List.range 32).any (fun g => bsnHasSegment t b g && 4 + g / 16 == d) ||
   (basinRanges t b).any (fun r => r.kind != 3 && placeDie (placeOf (r.first * 0x40000000)) == d))

/-- Both scopes reach some unit (R460). -/
def overlap (t : Sheets) (x y : Target) : Bool :=
  let clusterIn := fun (k : Nat) (z : Target) => match z.level with
    | 0 => z.unit / 8 == k
    | 1 => z.unit == k
    | 2 => bsnHasCluster t z.unit k
    | 3 => k / 32 == z.unit
    | _ => true
  match x.level, y.level with
  | 0, 0 => x.unit == y.unit
  | 0, _ => clusterIn (x.unit / 8) y
  | 1, _ => clusterIn x.unit y
  | _, 0 => clusterIn (y.unit / 8) x
  | _, 1 => clusterIn y.unit x
  | 2, 2 => x.unit == y.unit
  | 2, 3 => basinUses t x.unit y.unit
  | 3, 2 => basinUses t y.unit x.unit
  | 3, 3 => x.unit == y.unit
  | _, _ => true

/-- The first scope lies within the second (R460). -/
def within (t : Sheets) (x y : Target) : Bool :=
  decide (x.level ≤ y.level) && overlap t x y &&
  (if x.level = 2 ∧ y.level = 3 then [0, 1, 2, 3, 4, 5].all (fun d => d == y.unit || !basinUses t x.unit d) else true)

def Recovery.target (r : Recovery) : Target := ⟨r.scope, r.unit⟩

/-! ### Entries -/

/-- The log entry of an error detected at a time (R453). -/
def entryOf (e : ErrEvent) (at_ : W64) (level state : Nat) : LogEntry :=
  { code := e.code, scope := level, state := state, die := e.die, basin := e.basin.toNat, unit := e.unit, timebase := at_,
    endpaper := 0, data := e.data, addr := if e.code.toNat / 256 = 8 then e.addr else 0 }

/-- A log of n slots is full: every slot but the reserved one is taken (R461). -/
def fullLog (n : Nat) (l : List LogEntry) : Bool := decide (n - 1 ≤ (l.filter (fun e => e.code != 0x1001)).length)

/-- Put an entry into a log. -/
def State.intoLog (s : State) (w : Option Nat) (e : LogEntry) : State := (s.setLog w (s.getLog w ++ [e])).toHistory e

/-- Log an error of a recovery: in its die's log, and from basin scope on in the package log. Log entry 68. -/
def State.logError (s : State) (e : LogEntry) : State :=
  let s := s.intoLog (some e.die) e
  if 2 ≤ e.scope then s.intoLog none e else s

/-- Count an error in the overflow entry of a log (R461), which it opens with the scope it takes; the tray
controller hears of it (R452). Log entry 70. -/
def State.overflowInto (s : State) (w : Option Nat) (e : ErrEvent) (at_ : W64) (level : Nat) : State :=
  if (s.getLog w).any (fun x => x.code == 0x1001) then
    s.setLog w ((s.getLog w).map (fun x => if x.code = 0x1001 then
      { x with data := x.data + 1, scope := if x.scope = 0xFE ∨ (level ≠ 0xFE ∧ x.scope < level) then level else x.scope } else x))
  else (s.intoLog w { entryOf e at_ level (if level = 0xFE then 3 else 1) with code := 0x1001, data := 1, addr := 0 }).emit (.pldmEvent 0x1001)

/-- An error of scope none enters a log of n slots, is copied and leaves; a full log only counts it (R453, R461, R480). -/
def State.passLog (s : State) (w : Option Nat) (n : Nat) (e : ErrEvent) (at_ : W64) : State :=
  if fullLog n (s.getLog w) then s.overflowInto w e at_ 0xFE else s.toHistory (entryOf e at_ 0xFE 3)

/-- A unit that failed its step of the start (R91): a stack, a channel, a die. Log entry 99. -/
def startLoss (code : Nat) : Bool := [0x0803, 0x0804, 0x0A04].contains code

/-- An error of scope none is logged; one of R91 is seen in the package log too. Log entry 99. -/
def State.logOnly (s : State) (e : ErrEvent) (at_ : W64) : State :=
  let s := s.passLog (some e.die.val) 64 e at_
  if startLoss e.code.toNat then s.passLog none 256 e at_ else s

/-- Who hears of an error at once: the basin it names, and the tray controller for the classes of R452. -/
def State.tell (s : State) (e : ErrEvent) : State :=
  let cls := e.code.toNat / 256
  let s := if e.basin.toNat < 8 then s.setErr e.basin.toNat errError else s
  if [0x0B, 0x0C, 0x0D, 0x10].contains cls ∧ e.code ≠ 0x1007 ∧ e.code ≠ 0x1008 then s.emit (.pldmEvent e.code) else s

/-! ### Re-faults (R458) -/

/-- The physical cluster behind a logical one, numbered over the package. -/
def State.physId (s : State) (k : Nat) : Nat := k / 32 * 256 + s.physCluster k

/-- Count a re-fault of a unit; the Bool says whether its count in the window has reached the limit. Log entries 72 and 88. -/
def State.countRefault (s : State) (kind unit : Nat) : State × Bool :=
  let recent := s.pkg.refaults.filter (fun r => decide (s.lockCycle ≤ r.time + 1000 * recWindow s.sheets))
  let now := recent ++ [⟨kind, unit, s.lockCycle⟩]
  (s.setPkg { s.pkg with refaults := now },
    decide (recLimit s.sheets ≤ (now.filter (fun r => r.kind == kind && r.unit == unit)).length))

/-- A cluster is permanent (R31, R32, R458): its fuse is blown and the policy applied to the live map, or its logical cluster
is absent until the next start where the sheet forbids retirement. -/
def State.makePermanent (s : State) (l : Nat) : State :=
  let d := l / 32
  let k := s.die d
  let p := s.physCluster l
  if 36 ≤ p then s
  else if recNeverBlow s.sheets then
    s.setDie d { k with map := k.map.set (l % 32) 0xFF, permAbsent := k.permAbsent ++ [l % 32] }
  else
    let fuses := k.fuses ||| 2 ^ p
    let t := s.sheetsOn d
    let r := resolveRetired (topPolicy t) fuses (topSpares t d) (k.map, []) p
    let fresh := (r.2.filter (fun q => !k.skipped.contains q)).eraseDups
    let found := r.1.getD (l % 32) 0xFF != 0xFF
    s.setDie d { k with fuses := fuses, map := r.1, skipped := k.skipped ++ fresh
                        substituting := if found then k.substituting ++ [l % 32] else k.substituting }

/-! ### Fences (R459) -/

/-- A context in a failed scope stops, without an error code of its own (R463), and departs from its lines (R305).
Log entry 69. -/
def State.scopeFault (s : State) (c : Nat) : State :=
  let s := match (s.core c).ctx with
    | .running | .draining | .loading =>
      let s := s.releaseDraw c
      s.setCore c { s.core c with ctx := .faulted, fault := none, faultIndex := (s.core c).pc, seqWait := .free }
    | _ => s
  s.depart c true

/-- Fence a cluster: its window is absent, starts are refused, barges of others into it fail. Log entry 69. -/
def State.fenceCluster (s : State) (k : Nat) : State :=
  let hit := fun (m pa : Nat) => m != k && (match placeOf pa with
    | .pool c _ => c == k
    | .scratch core _ => core / 8 == k
    | .gauge c _ => c == k
    | _ => false)
  let s := s.failBarges hit
  let s := s.setCluster k { s.cluster k with fenced := true }
  s.forEach (clusterCores k) (fun s c => s.scopeFault c)

/-- A mailbox command in progress when a basin reset begins is interrupted, but for the reset command itself (R427). -/
def State.interruptMailbox (s : State) (b : Nat) : State := if s.deferred b 9 0x20000 then s else s.replyRefused b 0xFE

/-- Fence a basin. -/
def State.fenceBasin (s : State) (b : Nat) : State :=
  let s := s.interruptMailbox b
  let s := s.forEach (basinClusters s.sheets b) (fun s k => s.fenceCluster k)
  s.setBasinState b .resetting

/-- A basin that uses a lost die is UNAVAILABLE until the die returns; its sluice work is discarded (R533). -/
def State.loseBasin (s : State) (b code : Nat) : State :=
  let s := s.setBasin b { s.basin b with lostDie := true }
  if (s.basin b).st = .open then ((s.setBasinState b .unavailable).setErr b errUnavailable).discardBasin b code else s

/-- Fence a die: the others isolate it, its clusters stop, its ports and complexes are gone, its basins lose it. -/
def State.fenceDie (s : State) (d code : Nat) : State :=
  let s := if (s.die d).isolated then s else s.sendIsolation d (if 0x0B01 ≤ code ∧ code ≤ 0x0B03 then 2 else 0)
  let s := s.isolate d
  let s := s.forEach ([0, 1, 2, 3, 4, 5].filter (fun x => x != d && s.dieIn x)) (fun s x => s.loseDie x d)
  let s := if d < 4 then s.forEach ((List.range 32).map (fun l => 32 * d + l)) (fun s k => s.fenceCluster k) else s
  let s := s.forEach (diePorts d) (fun s p => s.setPort p { s.port p with st := .off, training := false, waiting := [] })
  let s := s.forEach (diePorts d) (fun s p => s.rerouteAll p)
  let s := s.forEach ((List.range 4).filter (fun x => complexDie x == d)) (fun s x => s.stopComplex x)
  s.forEach (basinIds.filter (fun b => basinUses s.sheets b d)) (fun s b => s.loseBasin b code)

/-- Step 1 of R459 for a scope. For a package reset and a power cycle the flash copy of R466 comes first. -/
def State.fence (s : State) (x : Target) (code : Nat) : State :=
  match x.level with
  | 0 => s
  | 1 => s.fenceCluster x.unit
  | 2 => s.fenceBasin x.unit
  | 3 => s.fenceDie x.unit code
  | _ => s.setPkg { s.pkg with copying := true }

/-! ### The decision (R459, R460) -/

/-- An entry of a recovery; of one that a full log widened, the overflow entry of its die's log. -/
def Recovery.owns (r : Recovery) (e : LogEntry) : Bool :=
  if r.event.code = 0x1001 then e.code == 0x1001 && e.die == r.event.die.val
  else e.code == r.event.code && e.scope == r.scope && e.die == r.event.die.val && e.basin == r.event.basin.toNat && e.unit == r.event.unit

/-- A recovery runs: it has begun and not ended. -/
def Recovery.running (r : Recovery) : Bool := r.phase != .queued

/-- Begin a recovery: a turn that uses the scope is withdrawn, and the scope is fenced. -/
def State.startRecovery (s : State) (r : Recovery) : State :=
  let s := (s.withdraw r.scope).fence r.target r.event.code.toNat
  s.setPkg { s.pkg with recoveries := s.pkg.recoveries ++ [{ r with phase := .fenced }] }

/-- The errors that reach the re-fault limit (R458): what the scope becomes, whether the limit was reached, and whether the
unit stays out. -/
structure Limit where
  target : Target
  hit : Bool
  final : Bool

/-- Count a hang, an engine reset, a die reset or a package reset, and take the action of R458 at the limit. Log entry 88. -/
def State.refault (s : State) (code : Nat) (x : Target) : State × Limit :=
  let hang := decide (0x602 ≤ code) && decide (code ≤ 0x604) && x.level == 0
  let h := if hang then s.countRefault 0 (s.physId (x.unit / 8)) else (s, false)
  let s := h.1
  let x := if h.2 then Target.mk 1 (x.unit / 8) else x
  match x.level with
  | 1 =>
    let r := s.countRefault 1 (s.physId x.unit)
    (if r.2 then r.1.makePermanent x.unit else r.1, ⟨x, h.2 || r.2, false⟩)
  | 3 =>
    let r := s.countRefault 2 x.unit
    (r.1, ⟨x, r.2, r.2⟩)
  | 4 =>
    let r := s.countRefault 3 0
    (r.1, ⟨if r.2 then ⟨5, 0⟩ else x, r.2, false⟩)
  | _ => (s, ⟨x, h.2, false⟩)

/-- The entry 0x1003, merged at once into the recovery of the error that reached the limit (R452, R458). Log entry 68. -/
def State.logLimit (s : State) (e : ErrEvent) (at_ : W64) (level : Nat) : State :=
  (s.toHistory { entryOf e at_ level 2 with code := 0x1003, addr := 0 }).emit (.pldmEvent 0x1003)

/-- Merge an error into the recovery that covers it (R460). Log entry 70. -/
def State.mergeError (s : State) (e : ErrEvent) (at_ : W64) (level : Nat) (r : Recovery) : State :=
  let s := s.toHistory (entryOf e at_ level 2)
  s.setPkg { s.pkg with recoveries := s.pkg.recoveries.map (fun x => if x.id = r.id then { x with merged := x.merged + 1 } else x) }

/-- Pre-empt the recoveries that lie within a wider scope: they end, their entries merged; the sequence of an endpaper one of
them took is kept for the wider recovery's header (R460). Log entry 70. -/
def State.preempt (s : State) (x : Target) : State × W32 :=
  let inner := s.pkg.recoveries.filter (fun r => within s.sheets r.target x)
  let seq := (inner.map (fun r => r.seq)).foldl (fun a b => if a = 0 then b else a) 0
  let s := s.forEach inner (fun s r => s.settle r.owns 2)
  (s.setPkg { s.pkg with recoveries := s.pkg.recoveries.filter (fun r => !within s.sheets r.target x) }, seq)

/-- Give an error the scope decided for it: merged, pre-empting, queued, or at once (R460). A full log widens it (R461).
Log entry 70. -/
def State.takeScope (s : State) (e : ErrEvent) (at_ : W64) (x : Target) : State :=
  let die := e.die.val
  let dieFull := fullLog 64 (s.getLog (some die))
  let x := if dieFull then s.widen x die else x
  let pkgFull := decide (2 ≤ x.level) && fullLog 256 (s.getLog none)
  let x := if pkgFull ∧ x.level < 4 then Target.mk 4 0 else x
  match s.pkg.recoveries.find? (fun r => r.running && within s.sheets x r.target) with
  | some r => s.mergeError e at_ x.level r
  | none =>
    let q := s.refault e.code.toNat x
    let s := q.1
    let x := q.2.target
    let s := if q.2.hit then s.logLimit e at_ x.level else s
    let p := s.preempt x
    let s := p.1
    let busy := decide (2 ≤ x.level) && s.pkg.recoveries.any (fun r =>
      decide (2 ≤ r.scope) && r.running && !(overlap s.sheets r.target x && decide (r.scope < x.level)))
    let beyond := dieFull || pkgFull
    let ev := if beyond then { e with code := 0x1001 } else e
    let r : Recovery := ⟨s.pkg.nextRec, at_, x.level, x.unit, ev, .queued, 0, if q.2.hit then 1 else 0, p.2, q.2.final⟩
    let s := s.setPkg { s.pkg with nextRec := s.pkg.nextRec + 1 }
    let entry := entryOf e at_ x.level (if busy then 0 else 1)
    let s := if dieFull then s.overflowInto (some die) e at_ x.level else s.intoLog (some die) entry
    let s := if x.level < 2 then s else if pkgFull then s.overflowInto none e at_ x.level else s.intoLog none entry
    if busy then s.setPkg { s.pkg with recoveries := s.pkg.recoveries ++ [r] } else s.startRecovery r

/-- The decision about an error detected at a time (R459): who hears of it, and its scope. Log entry 67. -/
def State.decideError (s : State) (e : ErrEvent) (at_ : W64) : State :=
  let s := s.tell e
  match s.firstScope e with
  | none => s.logOnly e at_
  | some x => s.takeScope e at_ x

/-- With no recovery of basin scope or wider running, the first queued one starts, its entries now in recovery (R460).
Log entry 70. -/
def State.startQueued (s : State) : State :=
  if s.pkg.recoveries.any (fun r => decide (2 ≤ r.scope) && r.running) then s
  else match s.pkg.recoveries.find? (fun r => r.phase == .queued) with
    | none => s
    | some r =>
      let s := s.setPkg { s.pkg with recoveries := s.pkg.recoveries.filter (fun x => x.id != r.id) }
      (s.restate r.owns 1).startRecovery r

/-- A recovery ends: its entries are resolved, and with them the overflow entry of a widened one (R453, R461). -/
def State.endRecovery (s : State) (r : Recovery) : State :=
  let s := s.settle r.owns 3
  let s := s.setPkg { s.pkg with recoveries := s.pkg.recoveries.filter (fun x => x.id != r.id) }
  s.startQueued

end Sys2Proof.Machine
end

