-- ==== Sys2Proof/Machine/Recovery.lean ====
section
/-!
DEFINITION. The rows of 17_faults_recovery: hangs (R454-R456), the decision (R459), endpapers (R462-R467), the resets
(R94-R98), their time-outs (R457), re-admission (R471), the package reset and the power cycle (R466, R472).
-/
namespace Sys2Proof.Machine

/-! ### Hangs (R454-R456) -/

/-- One sample of a progress counter: its value, and for how many samples it has stood while work was pending. -/
def nextSample (old : Nat × Nat) (count : Nat) (pending : Bool) : Nat × Nat :=
  (count, if pending && count == old.1 then old.2 + 1 else 0)

/-- The sequencer, or an engine queue. -/
def State.queueBlockedOn (s : State) (c : Nat) : Option Engine → Option Engine
  | none =>
    let k := s.core c
    if k.seqWait = .barrier then
      (k.barriers.find? (fun b => bitOf b.hold.toNat 0 && !k.waitMet b.wait b.counts)).bind
        (fun b => engines.find? (fun e => bitOf b.wait.toNat (engineBit e) && decide (k.completed.get e < b.counts.get e)))
    else match s.fetch c with
      | .word w => engines.find? (fun e => engineQueue e == wQueue w && decide (16 ≤ (k.queue.get e).length))
      | _ => none
  | some e =>
    let k := s.core c
    match k.flight.get e, k.queue.get e with
    | [], q :: _ =>
      (k.barriers.find? (fun b => bitOf b.hold.toNat (engineBit e + 1) && decide (b.position.get e ≤ q.number) &&
        !k.waitMet b.wait b.counts)).bind
        (fun b => engines.find? (fun e => bitOf b.wait.toNat (engineBit e) && decide (k.completed.get e < b.counts.get e)))
    | _, _ => none

/-- The end of the wait chain of R129 that begins at a queue; none is the sequencer (R455). Log entry 66. -/
def State.chainEnd (s : State) (c : Nat) : Nat → Option Engine → Option Engine
  | 0, q => q
  | n + 1, q => match s.queueBlockedOn c q with
    | some e => if some e = q then q else State.chainEnd s c n (some e)
    | none => q

/-- Samples of a core: its queues in a RUNNING or DRAINING context. Log entry 66. -/
def State.sampleCore (s : State) (c : Nat) : State :=
  let k := s.core c
  let seq := nextSample k.sampleSeq k.retiredSeq (k.ctx == .running)
  let one := fun (e : Engine) =>
    nextSample (k.sample.get e) (k.retired.get e) (k.live && !((k.queue.get e).isEmpty && (k.flight.get e).isEmpty))
  s.setCore c { k with sampleSeq := seq, sample := ⟨one .press, one .vector, one .barge, one .sync⟩ }

/-- The queue of a core that hangs, if one does: the sequencer first, then in the order of R14. Log entry 66. -/
def State.hungQueue (s : State) (c : Nat) : Option (Option Engine) :=
  let k := s.core c
  let w := recQueue s.sheets
  if !k.live then none
  else if w ≤ k.sampleSeq.2 then some none
  else (engines.find? (fun e => decide (w ≤ (k.sample.get e).2))).map some

/-- Decide at once the errors that a state has raised beyond those of another (R459: at the sample that declares a hang). -/
def State.decideNew (s before : State) : State :=
  let fresh := s.pkg.raised.drop before.pkg.raised.length
  (s.setPkg { s.pkg with raised := s.pkg.raised.take before.pkg.raised.length }).forEach fresh (fun s e => s.decideError e.1 e.2)

/-- A hung queue takes its context through R149, with the wait graph in its endpaper (R455, R463). -/
def State.hangCore (s : State) (c : Nat) : State :=
  match s.hungQueue c with
  | none => s
  | some q =>
    let n := match s.chainEnd c 5 q with
      | none => 0
      | some e => engineQueue e
    let t := s.setCore c { s.core c with deadlockGraph := s.waitGraph c }
    (t.enterFault c (0x0601 + n) (s.core c).pc).decideNew s

/-- The basins with a bucket open on a die's sluice. -/
def State.openBasins (s : State) (d : Nat) : List Nat :=
  basinIds.filter (fun b => s.buckets.any (fun k => k.die == d && k.basin == b && k.sent && !k.done) ||
    s.slices.any (fun x => x.key.die.val == d && x.key.basin.val == b && x.st != .empty && x.st != .done))

/-- A sample of a die's sluice; a hang resets every basin with a bucket open on it (R456). -/
def State.sampleSluice (s : State) (d : Nat) : State :=
  let k := s.sluice d
  let now := nextSample k.sample k.closed (s.sluiceBusy d)
  if recSluice s.sheets ≤ now.2 then
    let t := s.setSluice d { k with sample := (now.1, 0) }
    (t.forEach (s.openBasins d) (fun t b => t.raise 0x0606 d b d 0 0)).decideNew s
  else s.setSluice d { k with sample := now }

/-- A sample of a port; a hang takes it to DOWN (R456). -/
def State.samplePort (s : State) (p : Nat) : State :=
  let k := s.port p
  let now := nextSample k.sample k.txFrames (k.st.carries && !k.waiting.isEmpty)
  if recPort s.sheets ≤ now.2 then
    let t := (s.setPort p { k with sample := (now.1, 0) }).portDown p
    (t.raise 0x0607 (portDie p) (s.portBasin p) p 0 0).decideNew s
  else s.setPort p { k with sample := now }

/-- HANG_SAMPLE: the keeper of die d samples its progress counters and declares hangs. Log entry 66. -/
def execHangSample (d : DieId) (s : State) : Host.Outcome State Fault Refusal :=
  let mine := (s.cores.map (fun e => e.1)).filter (fun c => c / 256 == d.val)
  .next (if !s.keeperLive d then s
    else
      let s := s.forEach mine (fun s c => s.sampleCore c)
      let s := s.forEach mine (fun s c => s.hangCore c)
      if d.val < 4 then (s.sampleSluice d).forEach (diePorts d) (fun s p => s.samplePort p) else s)

/-! ### The decision (R459) -/

/-- Codes that no other command raises: what a unit's own detectors find (R452). Log entries 32 and 67. -/
def detectorCode (code : Nat) : Bool := [0x0702, 0x0801, 0x0802, 0x0803, 0x0805, 0x0806, 0x1006].contains code

/-- RECOVERY_DECISION: the keeper fixes the scope of an error that a unit has reported, and fences it. An uncorrectable memory
error that a controller reports so poisons its piece (R283). While the package is held in the power-cycle state a requested
package reset ends every other recovery (R472). Log entries 67 and 90. -/
def execRecoveryDecision (e : ErrEvent) (s : State) : Host.Outcome State Fault Refusal :=
  let found := s.pkg.raised.find? (fun x => x.1 == e)
  .next (if found.isNone ∧ !detectorCode e.code.toNat then s
    else
      let fresh := found.isNone && (e.code == 0x0801 || e.code == 0x0802)
      let s := if fresh then s.poisonPiece (e.addr.toNat / 64) else s
      let s := s.setPkg { s.pkg with raised := match found with | some x => s.pkg.raised.erase x | none => s.pkg.raised }
      let s := if s.pkg.cycleHeld ∧ e.code = 0x1005 then s.setPkg { s.pkg with recoveries := [] } else s
      s.decideError e ((found.map (·.2)).getD (s.time e.die)))

/-! ### Endpapers (R462-R467) -/

def State.recovery (s : State) (n : Nat) : Option Recovery := s.pkg.recoveries.find? (fun r => r.id == n)
def State.setRecovery (s : State) (r : Recovery) : State :=
  s.setPkg { s.pkg with recoveries := s.pkg.recoveries.map (fun x => if x.id = r.id then r else x) }

/-- The cluster in which an error arose: a core's, or the cluster that a reset names (R462). -/
def errorCluster (e : ErrEvent) : Option Nat :=
  let code := e.code.toNat
  let u := e.unit.toNat
  if (0x100 ≤ code ∧ code < 0x600) ∨ (0x601 ≤ code ∧ code ≤ 0x605) then some (u / 8)
  else if code = 0x1007 ∨ code = 0x1002 then (if e.data = 0 then some (u / 8) else if e.data = 1 then some u else none)
  else none

/-- The die's log, or the package log, with every slot (R462). -/
def State.dieLogSlots (s : State) (d : Nat) : List LogEntry := (List.range 64).map (logSlot 64 (s.die d).log)
def State.pkgLogSlots (s : State) : List LogEntry := (List.range 256).map (logSlot 256 s.pkg.log)

/-- An endpaper of a recovery over some clusters, with a log. -/
def State.recoveryPaper (s : State) (r : Recovery) (die : Nat) (log : List LogEntry) (clusters : List Nat) : Endpaper :=
  let cores := (clusters.flatMap clusterCores).filter (fun c => (s.core c).recorded)
  let near := fun (c : Nat) => r.scope == 1 || errorCluster r.event == some (c / 8)
  let e := { entryOf r.event r.time r.scope 1 with die := die }
  s.endpaper e r.scope r.merged r.preempted log (cores.filter near) (cores.filter (fun c => !near c))

def dieClusters (d : Nat) : List Nat := if d < 4 then (List.range 32).map (fun l => 32 * d + l) else []

/-- Store a die endpaper where R464 and R467 say; for a processor die the leaf partner is that of its store. -/
def State.storeDie (s : State) (d : Nat) (e : Endpaper) : State :=
  if d < 4 then
    if s.hbmPresent (spinePartner d) then s.storeSpine (spinePartner d) e else s.storeLocal (leafPartner d) e
  else
    let home := if d = 4 then 0 else 2
    if s.hbmPresent home then s.storeProc home e else s.storeLocal (leafPartner home) e

/-- The endpapers of a recovery: one per die of a basin, one for a cluster or die. -/
def State.storePapers (s : State) (r : Recovery) : State :=
  match r.scope with
  | 1 => s.storeLocal (r.unit / 32) (s.recoveryPaper r (r.unit / 32) (s.dieLogSlots (r.unit / 32)) [r.unit])
  | 2 =>
    let ks := basinClusters s.sheets r.unit
    s.forEach ([0, 1, 2, 3].filter (fun d => ks.any (fun k => k / 32 == d))) (fun s d =>
      s.storeLocal d (s.recoveryPaper r d (s.dieLogSlots d) (ks.filter (fun k => k / 32 == d))))
  | _ => s.storeDie r.unit (s.recoveryPaper r r.unit (s.dieLogSlots r.unit) (dieClusters r.unit))

/-- ENDPAPER_STORED: the endpapers of a recovery are taken and stored; its entries name the first (R453). -/
def execEndpaperStored (n : Nat) (s : State) : Host.Outcome State Fault Refusal :=
  .next (match s.recovery n with
    | none => s
    | some r =>
      if r.phase ≠ .fenced ∨ r.scope < 1 ∨ 3 < r.scope then s
      else
        let t := s.storePapers r
        let seq := if t.pkg.endpaperSeq = s.pkg.endpaperSeq then 0 else s.pkg.endpaperSeq
        let t := t.amend r.owns (fun e => { e with endpaper := seq })
        t.setRecovery { r with phase := .stored, seq := seq })

/-! ### The resets (R94) -/

/-- A core after a die reset: nothing of it is left, the counters included (R479). Log entry 86. -/
def State.zeroCluster (s : State) (k : Nat) : State :=
  let s := s.forEach (clusterCores k) (fun s c => s.setCore c .reset)
  s.setCluster k { Cluster.reset with fenced := (s.cluster k).fenced }

/-- The memory of a die (R94): its HBM, or its DDR channels. The endpaper regions are kept apart and stand. Log entry 86. -/
def State.wipeDie (s : State) (d : Nat) : State :=
  if d < 4 then s.wipe (d * 0x4000000000) 0x3000000000
  else s.wipeDdr (0x40000000000 + (d - 4) * 0x20000000000) 0x20000000000

/-- A die's own state after its reset: counters, log and kettle words are gone; fuses, live map, freeboard, the endpaper
regions and what its inputs show stand. The repairs recorded for its HBM are applied, those of DDR wait for the package
reset (R282). Its PLL locks to a qualified reference; with none it stays in holdover (R47). It takes its keeper image from the
head keeper (R71, R104). Log entries 73 and 82. -/
def Die.restarted (k head : Die) (compute : Bool) : Die :=
  { Die.reset with
    rowRepairs := if compute then [] else k.rowRepairs
    refQual0 := k.refQual0, refQual1 := k.refQual1
    refInUse := if k.refQual k.refInUse then k.refInUse else if k.refQual (1 - k.refInUse) then 1 - k.refInUse else k.refInUse
    holdover := !(k.refQual0 || k.refQual1), pllLock := true, keeperUp := true, testFailed := k.testFailed,
    active := head.active, shadow := head.shadow, shadowSeq := head.shadowSeq, inService := k.inService, isolated := true,
    fuses := k.fuses, map := k.map, skipped := k.skipped, permAbsent := k.permAbsent, freeboard := k.freeboard,
    temp := k.temp, thermal := k.thermal, localRing := k.localRing, procRegion := k.procRegion,
    spineRegion := k.spineRegion, monitorFailed := k.monitorFailed }

/-- A die that restarts takes the sets then in force from the head keeper: of a turn that has been swapped it knows the decision
and holds nothing more, and its map follows a new topology sheet (R79). Log entry 73. -/
def State.rejoinTurn (s : State) (d : Nat) : State :=
  match s.pkg.turn with
  | some t =>
    if !t.swapped ∨ t.told.contains d then s
    else
      let s := s.setTurn (some { t with told := t.told ++ [d], holds := t.holds.filter (· != d) })
      if !t.changed.contains 4 then s
      else
        let s := s.setDie d { s.die d with inService := bitOf (topService (s.sheetsOn d)) d }
        if d < 4 then s.deriveMap d else s
  | none => s

/-- The reset of a die: its clusters, sluice, ports, links, complexes and memories. A link to a die that is lost and not
reset yet stays down until that die returns (R395). Log entry 73. -/
def State.resetDie (s : State) (d code : Nat) : State :=
  let s := s.forEach (dieClusters d) (fun s k => s.resetCluster k code)
  let s := s.forEach (dieClusters d) (fun s k => s.zeroCluster k)
  let s := s.wipeDie d
  let home := fun (line : Nat) => placeDie (placeOf (64 * line)) == d
  let s := { s with
    snoopLines := s.snoopLines.filter (fun e => e.2 != d && !home e.1),
    caches := s.caches.filter (fun e => e.die != d && !home e.line), wards := s.wards.filter (fun w => w.die != d),
    buckets := s.buckets.filter (fun k => k.die != d), slices := s.slices.filter (fun x => x.key.die.val != d)
    pieces := s.pieces.filter (fun x => x.die != d) }
  let s := s.setSluice d .reset
  let s := s.forEach (diePorts d) (fun s p => s.setPort p { Port.reset with dcDisabled := (s.port p).dcDisabled })
  let s := s.forEach ((List.range 9).filter (fun l => (linkEnds l).1 == d || (linkEnds l).2 == d)) (fun s l =>
    let e := linkEnds l
    let other := if e.1 = d then e.2 else e.1
    let absent := (s.die other).isolated && !s.pkg.recoveries.any (fun r => r.scope == 3 && r.unit == other && r.phase == .resetDone)
    let s := if absent then s.setLink l { Link.reset with bad := (s.link l).bad } else s.trainLink l (s.link l).bad
    s.restartChecks l)
  let s := s.forEach ((List.range 32).filter (fun g => 4 + g / 16 == d)) (fun s g => s.setSegment g { s.segment g with linkUp := false })
  let s := s.forEach ((List.range 8).filter (fun p => 4 + p / 4 == d)) (fun s p => s.setCxlPort p { s.cxlPort p with present := false })
  let s := s.forEach ((List.range 72).filter (fun u => checkDie u == d)) (fun s u => s.setCheck u .reset)
  let head := if s.pkg.head = d then s.die d else s.die s.pkg.head
  let s := s.setDie d { (s.die d).restarted head (decide (d < 4)) with image := s.keeperImage d }
  let s := s.rejoinTurn d
  s.forEach (basinIds.filter (fun b => basinUses s.sheets b d)) (fun s b => s.nextEpoch b)

/-- An owner change zeroes the basin's endpapers in every local ring (R464). -/
def State.forgetPapers (s : State) (b : Nat) : State :=
  s.forEach [0, 1, 2, 3] (fun s d => s.setDie d { s.die d with localRing := (s.die d).localRing.filter (fun e => e.basin != b) })

/-- RESET_COMPLETE: the reset and wipe of a stored recovery end, and epochs increase. A cluster's self-test may fail, which
is the silicon's doing and open here; it is then permanent at once (R458, R471). Log entry 71. -/
def execResetComplete (n : Nat) (s : State) : Host.Outcome State Fault Refusal :=
  .next (match s.recovery n with
    | none => s
    | some r =>
      if r.phase ≠ .stored then s
      else
        let code := r.event.code.toNat
        let t := match r.scope with
          | 1 =>
            let f := (s.resetCluster r.unit code).free
            if f.1 % 2 = 1 then f.2.makePermanent r.unit else f.2
          | 2 =>
            let u := (s.wipeBasin r.unit code).nextEpoch r.unit
            if r.event.code = 0x1008 then u.forgetPapers r.unit else u
          | _ => s.resetDie r.unit code
        t.setRecovery { r with phase := .resetDone })

/-! ### Time-outs (R457) -/

/-- RESET_TIMEOUT: the reset of a recovery has not completed in its time; the recovery ends as widened, and 0x1002 takes the
next scope: for a basin the die reset of each die it uses, for a package reset, which ends at PKG_READY, the power cycle.
Log entry 73. -/
def execResetTimeout (n : Nat) (s : State) : Host.Outcome State Fault Refusal :=
  .next (match (match s.recovery n with | some r => some r | none => s.pkg.resetRec.filter (fun r => r.id == n)) with
    | none => s
    | some r =>
      if r.phase = .queued ∨ 4 < r.scope then s
      else
        let e : ErrEvent := { r.event with code := 0x1002, unit := BitVec.ofNat 16 r.unit, data := BitVec.ofNat 32 r.scope, addr := 0 }
        let dies := if r.scope = 2 then [0, 1, 2, 3, 4, 5].filter (fun d => basinUses s.sheets r.unit d) else [r.event.die.val]
        let t := s.settle r.owns 4
        let t := t.setPkg { t.pkg with recoveries := t.pkg.recoveries.filter (fun x => x.id != r.id), resetRec := none }
        t.forEach dies (fun t d => (t.tell e).takeScope e (s.time e.die) (t.widen r.target d)))

/-! ### Re-admission (R471) -/

/-- The reset commands that wait for a scope are answered: it accepts work (R414). -/
def State.answerResets (s : State) (x : Target) : State :=
  s.forEach basinIds (fun s b =>
    match (s.basin b).mboxCmd with
    | some c =>
      let own : Target := if c.unit < 0x10000 then ⟨0, c.unit⟩ else if c.unit < 0x20000 then ⟨1, c.unit - 0x10000⟩ else ⟨2, b⟩
      if c.code = 9 ∧ within s.sheets own x then s.replyDone b [] else s
    | none => s)

/-- A cluster is admitted; a substitution is then settled (R33). Log entry 71. -/
def State.readmitCluster (s : State) (k : Nat) : State :=
  let d := s.die (k / 32)
  (s.setDie (k / 32) { d with substituting := d.substituting.filter (· != k % 32) }).admitCluster k

/-- A basin after its reset: default map, allotments, complexes, CXL devices; OPEN, but UNAVAILABLE while a die it uses is
lost. An owner change opens it anew (R425, R426). -/
def State.readmitBasin (s : State) (b code : Nat) : State :=
  let s := s.forEach (basinClusters s.sheets b) (fun s k => s.readmitCluster k)
  if code = 0x1008 then (s.returnCxl b).beginOpen b
  else
    let s := s.setBasinState b (if (s.basin b).lostDie then .unavailable else .open)
    let s := (s.installMap b).returnCxl b
    s.startComplexes b (s.basinComplexes b)

/-- The partners from which a returning die may take its timebase, in order (R54). Log entry 73. -/
def timebaseSources (d : Nat) : List Nat :=
  match d with
  | 4 => [0, 1, 5]
  | 5 => [2, 3, 4]
  | d => [spinePartner d, leafPartner d]

/-- A basin returns from the loss of its last lost die to OPEN; only complexes on the returned die start (R533). A basin reset
that the die reset took over ends with it (R457, R460). -/
def State.returnBasin (s : State) (b d code : Nat) : State :=
  if (s.basin b).st = .resetting then
    if s.pkg.recoveries.any (fun r => r.scope == 2 && r.unit == b) then s
    else
      let s := s.setBasin b { s.basin b with lostDie := false }
      (s.wipeBasin b code).readmitBasin b code
  else if [0, 1, 2, 3, 4, 5].any (fun x => basinUses s.sheets b x && (s.die x).isolated) then s
  else
    let lost := (s.basin b).lostDie
    let s := s.setBasin b { s.basin b with lostDie := false }
    let s := if lost ∧ (s.basin b).st = .unavailable then s.setBasinState b .open else s
    s.startComplexes b ((s.basinComplexes b).filter (fun x => complexDie x == d))

/-- Admit a die: its timebase, routes drained back, kettle drive unmasked, links open to every class, allotments granted, its
ports and basins back. A former head's keeper becomes the standby (R84). -/
def State.admitDie (s : State) (d source code : Nat) : State :=
  let s := s.setDie d { s.die d with isolated := false, timebase := s.time source, running := true }
  let back := s.alternates.filter (fun p => (primaryRoute p.1 p.2).all (fun x => !(s.die x).isolated) && !s.draining.contains p &&
    s.unsevered p.1 (primaryRoute p.1 p.2))
  let s := { s with draining := s.draining ++ back }
  let s := s.forEach [0, 1, 2, 3, 4, 5] (fun s x => s.setDie x { s.die x with kettleMask := (s.die x).kettleMask.filter (· != d) })
  let s := s.forEach (List.range 9) (fun s l =>
    let e := linkEnds l
    (s.setLink l { s.link l with class3Only := (s.link l).class3Only && ((s.die e.1).isolated || (s.die e.2).isolated) }).pumpLink l)
  let s := s.settleTurn
  let s := s.forEach (dieClusters d) (fun s k => s.readmitCluster k)
  let s := if d < 4 then s else s.forEach (List.range 16) (fun s i => s.emptyCache (128 + 16 * (d - 4) + i))
  let s := if d < 4 then s.grantSluice d else s
  let s := s.forEach (diePorts d) (fun s p => s.initPort p)
  let s := if 4 ≤ d ∧ d ≠ s.pkg.head then s.setPkg { s.pkg with standby := some d } else s
  s.forEach (basinIds.filter (fun b => basinUses s.sheets b d)) (fun s b => s.returnBasin b d code)

/-- READMISSION: a unit that is reset returns to service at a lock-cycle boundary, and its recovery is resolved. A die whose
resets reached the limit stays isolated (R458); one without a timebase source waits (R54). -/
def execReadmission (n : Nat) (s : State) : Host.Outcome State Fault Refusal :=
  .next (match s.recovery n with
    | none => s
    | some r =>
      if r.phase ≠ .resetDone then s
      else
        let x := r.target
        match r.scope with
        | 1 => ((s.readmitCluster r.unit).endRecovery r).answerResets x
        | 2 => ((s.readmitBasin r.unit r.event.code.toNat).endRecovery r).answerResets x
        | _ =>
          if r.final then s.endRecovery r
          else match (timebaseSources r.unit).find? (fun p => !(s.die p).isolated) with
            | none => s
            | some p => ((s.admitDie r.unit p r.event.code.toNat).endRecovery r).answerResets x)

/-! ### The package reset and the power cycle (R465, R466, R472) -/

/-- PACKAGE_RESET_REQUEST over the management bus: error 0x1005; in SCRAPPED nothing (R100). Log entry 72. -/
def execPackageResetRequest (s : State) : Host.Outcome State Fault Refusal :=
  .next (if s.mgmtUp then s.raise 0x1005 s.pkg.head 0xFF 0xFFFF 0 0 else s)

/-- The package endpaper (R462), and the latest die endpaper of each region of R464. -/
def State.packagePapers (s : State) (r : Recovery) (setSeq : W32) : List Endpaper :=
  let logs := s.pkgLogSlots ++ [0, 1, 2, 3, 4, 5].flatMap s.dieLogSlots
  let p := s.recoveryPaper r s.pkg.head logs (List.range 128)
  let stored := ([0, 1, 2, 3].filter s.hbmPresent).flatMap (fun d => (s.die d).procRegion ++ (s.die d).spineRegion)
  { p with scope := 4, die := 0xFF, setSeq := setSeq } ::
    [0, 1, 2, 3, 4, 5].filterMap (fun d => newestEndpaper (stored.filter (fun e => e.scope == 3 && e.die == d)))

/-- The set sequence of a set's package endpaper. -/
def setSeqOf (l : List Endpaper) : Option W32 := (l.find? (fun e => e.scope == 4)).map (fun e => e.setSeq)

/-- Set A is current (R465). -/
def State.setAIsCurrent (s : State) : Bool :=
  match setSeqOf s.pkg.setA, setSeqOf s.pkg.setB with
  | some a, some b => a == b || decide ((a - b).toNat < 2 ^ 31)
  | some _, none => true
  | none, _ => false

/-- Write the set that is not current: A with sequence 1 when neither is valid. Log entry 72. -/
def State.copyToFlash (s : State) (r : Recovery) : State :=
  if s.setAIsCurrent then
    s.setPkg { s.pkg with setB := s.packagePapers r ((setSeqOf s.pkg.setA).getD 0 + 1) }
  else s.setPkg { s.pkg with setA := s.packagePapers r ((setSeqOf s.pkg.setB).getD 0 + 1) }

/-- ENDPAPER_FLASH_COPY_DONE: the copy before a package reset or a power cycle has ended; one that could not be written
raises 0x1004. The package reset is then taken: everything stops and starts again from R87, and the counts of package resets
stand. The regions of R98 are cleared only once their contents are in the flash. -/
def execEndpaperFlashCopyDone (ok : Bool) (s : State) : Host.Outcome State Fault Refusal :=
  .next (match s.pkg.recoveries.find? (fun r => decide (4 ≤ r.scope) && r.running) with
    | none => s
    | some r =>
      if !s.pkg.copying then s
      else
        let e : ErrEvent := ⟨0x1004, r.event.die, 0xFF, 0xFFFF, 0, 0⟩
        let t := if ok then s.copyToFlash r else (s.tell e).logOnly e (s.time e.die)
        let t := t.setPkg { t.pkg with copying := false }
        if r.scope ≠ 4 then t
        else
          let kept := t.pkg.refaults.filter (fun x => x.kind == 3)
          let u := t.restart
          let u := if ok then u else u.forEach [0, 1, 2, 3] (fun u d => u.setDie d { u.die d with spineRegion := (t.die d).spineRegion })
          u.setPkg { u.pkg with refaults := kept, nextRec := t.pkg.nextRec, resetRec := some r })

/-- The places of the two endpaper sets in the flash (R465). -/
def setPlace (i : Nat) : Nat := 0x08010000 + i * 0x2F0000

/-- A byte of an endpaper set: the package's endpaper, then a place for each die's. -/
def flashSetByte (set : List Endpaper) (off : Nat) : Byte :=
  let whole := decide (off < 0x110000)
  let e := if whole then set.find? (fun e => e.scope == 4) else set.find? (fun e => e.scope == 3 && e.die == (off - 0x110000) / 0x50000)
  match e with
  | some e => e.bytes.getD (if whole then off else (off - 0x110000) % 0x50000) 0xFF
  | none => 0xFF

/-- A byte of the flash as the device holds it: the endpaper sets stand in their places of R465, the rest as it was written. -/
def State.flashAt (s : State) (a : Nat) : Byte :=
  if decide (setPlace 0 ≤ a) && decide (a < setPlace 1) then flashSetByte s.pkg.setA (a - setPlace 0)
  else if decide (setPlace 1 ≤ a) && decide (a < setPlace 2) then flashSetByte s.pkg.setB (a - setPlace 1)
  else s.flashByte a

/-- ENDPAPER_SET_ERASE: the set that is not current is erased after PKG_READY. -/
def execEndpaperSetErase (s : State) : Host.Outcome State Fault Refusal :=
  .next (if s.pkg.phase ≠ .ready ∨ s.pkg.copying then s
    else if s.setAIsCurrent then s.setPkg { s.pkg with setB := [] }
    else if (setSeqOf s.pkg.setB).isSome then s.setPkg { s.pkg with setA := [] }
    else s)

/-- POWER_CYCLE_REQUEST: once the flash copy has been tried, the PLDM event is sent and CYCLE_REQ_N asserted; where the sheet
forbids it the package stays held with ALERT_N asserted. Log entries 72 and 75. -/
def execPowerCycleRequest (s : State) : Host.Outcome State Fault Refusal :=
  .next (match s.pkg.recoveries.find? (fun r => r.scope == 5 && r.running) with
    | none => s
    | some _ =>
      if s.pkg.copying ∨ s.pkg.cycleReq ∨ s.pkg.cycleHeld then s
      else
        let t := s.holdDomains.emit (.pldmEvent 0x1006)
        if recNoCycle t.sheets then (t.setPkg { t.pkg with cycleHeld := true }).alert 5 true
        else t.setPkg { t.pkg with cycleReq := true })

end Sys2Proof.Machine
end

