-- ==== Sys2Proof/Machine/Seq.lean ====
section
/-!
DEFINITION. The sequencer's instructions (R118-R145): one meaning for each row of queue 0.
-/
namespace Sys2Proof.Machine

abbrev Result := Host.Outcome State Fault Refusal

/-- A register instruction of format A: rd gets a function of rs1 and rs2. -/
def State.aluReg (s : State) (c op : Nat) (f : W64 → W64 → W64) : State :=
  s.seqRun c op maskA (fun _ => false) (fun k w =>
    s.setCore c (k.setAreg (wA w) (f (k.areg (wB w)) (k.areg (wC w)))).issued)

/-- An immediate instruction of format B: rd gets a function of rs1 and the sign-extended imm32. -/
def State.aluImm (s : State) (c op : Nat) (f : W64 → W64 → W64) : State :=
  s.seqRun c op maskB (fun _ => false) (fun k w =>
    s.setCore c (k.setAreg (wA w) (f (k.areg (wB w)) (wSImm32 w))).issued)

/-- A shift by an immediate: a value above 63 counts as a non-zero reserved field (R118). -/
def State.shiftImm (s : State) (c op : Nat) (f : W64 → Nat → W64) : State :=
  s.seqRun c op maskB (fun w => decide (63 < wImm32 w)) (fun k w =>
    s.setCore c (k.setAreg (wA w) (f (k.areg (wB w)) (wImm32 w))).issued)

/-- NOP: no effect; every field zero. -/
def execNop (c : CoreId) (s : State) : Result :=
  .next (s.seqRun c 0x00 maskHead (fun _ => false) (fun k _ => s.setCore c k.issued))

/-- ADD. Log entry 1. -/
def execAdd (c : CoreId) (s : State) : Result := .next (s.aluReg c 0x01 (fun a b => a + b))
/-- SUB. -/
def execSub (c : CoreId) (s : State) : Result := .next (s.aluReg c 0x02 (fun a b => a - b))
/-- AND. -/
def execAnd (c : CoreId) (s : State) : Result := .next (s.aluReg c 0x03 (fun a b => a &&& b))
/-- OR. -/
def execOr (c : CoreId) (s : State) : Result := .next (s.aluReg c 0x04 (fun a b => a ||| b))
/-- XOR. -/
def execXor (c : CoreId) (s : State) : Result := .next (s.aluReg c 0x05 (fun a b => a ^^^ b))
/-- SLL: by rs2[5:0]. -/
def execSll (c : CoreId) (s : State) : Result := .next (s.aluReg c 0x06 (fun a b => a <<< (b.toNat % 64)))
/-- SRL: by rs2[5:0]. -/
def execSrl (c : CoreId) (s : State) : Result := .next (s.aluReg c 0x07 (fun a b => a >>> (b.toNat % 64)))
/-- SRA: by rs2[5:0]. -/
def execSra (c : CoreId) (s : State) : Result := .next (s.aluReg c 0x08 (fun a b => a.sshiftRight (b.toNat % 64)))
/-- MUL: the low 64 bits. -/
def execMul (c : CoreId) (s : State) : Result := .next (s.aluReg c 0x09 (fun a b => a * b))
/-- MULHU: the high 64 bits of the unsigned product. -/
def execMulhu (c : CoreId) (s : State) : Result :=
  .next (s.aluReg c 0x0A (fun a b => BitVec.ofNat 64 (a.toNat * b.toNat / 2 ^ 64)))
/-- SLT: signed. -/
def execSlt (c : CoreId) (s : State) : Result := .next (s.aluReg c 0x0B (fun a b => if slt64 a b then 1 else 0))
/-- SLTU: unsigned. -/
def execSltu (c : CoreId) (s : State) : Result := .next (s.aluReg c 0x0C (fun a b => if a.toNat < b.toNat then 1 else 0))
/-- MINU. -/
def execMinu (c : CoreId) (s : State) : Result := .next (s.aluReg c 0x0D (fun a b => if a.toNat < b.toNat then a else b))
/-- MAXU. -/
def execMaxu (c : CoreId) (s : State) : Result := .next (s.aluReg c 0x0E (fun a b => if a.toNat < b.toNat then b else a))
/-- ADDI. -/
def execAddi (c : CoreId) (s : State) : Result := .next (s.aluImm c 0x10 (fun a i => a + i))
/-- ANDI. -/
def execAndi (c : CoreId) (s : State) : Result := .next (s.aluImm c 0x11 (fun a i => a &&& i))
/-- ORI. -/
def execOri (c : CoreId) (s : State) : Result := .next (s.aluImm c 0x12 (fun a i => a ||| i))
/-- XORI. -/
def execXori (c : CoreId) (s : State) : Result := .next (s.aluImm c 0x13 (fun a i => a ^^^ i))
/-- SLLI. -/
def execSlli (c : CoreId) (s : State) : Result := .next (s.shiftImm c 0x14 (fun a n => a <<< n))
/-- SRLI. -/
def execSrli (c : CoreId) (s : State) : Result := .next (s.shiftImm c 0x15 (fun a n => a >>> n))
/-- SRAI. -/
def execSrai (c : CoreId) (s : State) : Result := .next (s.shiftImm c 0x16 (fun a n => a.sshiftRight n))

/-- LI: imm48 sign-extended. -/
def execLi (c : CoreId) (s : State) : Result :=
  .next (s.seqRun c 0x18 maskC (fun _ => false) (fun k w =>
    s.setCore c (k.setAreg (wA w) (sext64 48 (wImm48 w))).issued))

/-- LIH: bits [63:48] of rd; imm48[47:16] is reserved. -/
def execLih (c : CoreId) (s : State) : Result :=
  .next (s.seqRun c 0x19 (fieldMask 63 49 ||| fieldMask 15 0) (fun _ => false) (fun k w =>
    s.setCore c (k.setAreg (wA w)
      (BitVec.ofNat 64 ((wImm48 w % 65536) * 2 ^ 48 + (k.areg (wA w)).toNat % 2 ^ 48))).issued))

/-- The offset of an LD or ST (R119). -/
def memOffset (k : Core) (w : W64) : Nat := (k.areg (wB w) + wSImm32 w).toNat

/-- An LD or ST offset is a multiple of 8 and lies in the allocation (R119, R113). -/
def offsetBad (k : Core) (w : W64) : Bool := memOffset k w % 8 != 0 || !k.inAlloc (memOffset k w) 8

/-- LD. -/
def execLd (c : CoreId) (s : State) : Result :=
  .next (s.seqRun c 0x1A maskB (fun _ => false) (fun k w =>
    if offsetBad k w then s.precise c 0x05
    else s.setCore c (k.setAreg (wA w)
      (BitVec.ofNat 64 (leValue (s.allocRead c (memOffset k w) 8)))).issued))

/-- ST: the register named in the rd field. -/
def execSt (c : CoreId) (s : State) : Result :=
  .next (s.seqRun c 0x1B maskB (fun _ => false) (fun k w =>
    if offsetBad k w then s.precise c 0x05
    else (s.allocWrite c (memOffset k w) (leBytes 8 (k.areg (wA w)).toNat)).setCore c k.issued))

/-- The iteration index of loop level n, level 0 outermost; 0 when inactive (R122). -/
def Core.lidx (k : Core) (n : Nat) : Nat := ((k.loops.reverse)[n]?.map (fun l => l.iter)).getD 0

/-- The special registers of R122. -/
def State.special (s : State) (c : Nat) (n : Nat) : W64 :=
  let k := s.core c
  match n with
  | 0 => BitVec.ofNat 64 c
  | 1 => BitVec.ofNat 64 k.tag.toNat
  | 2 => (s.basin k.basin).step
  | 3 => s.time (c / 256)
  | 4 => BitVec.ofNat 64 (satCount (s.now - k.firstIssue))
  | 5 => BitVec.ofNat 64 k.loops.length
  | 10 => BitVec.ofNat 64 k.rungLast
  | 11 => BitVec.ofNat 64 (satCount (s.stallsNow c))
  | _ => BitVec.ofNat 64 (k.lidx (n - 6))

/-- RDSR: rs1 is reserved; an index above 11 is detail 0x0A. -/
def execRdsr (c : CoreId) (s : State) : Result :=
  .next (s.seqRun c 0x1C (fieldMask 63 49 ||| fieldMask 43 12) (fun _ => false) (fun k w =>
    if 11 < wImm32 w then s.precise c 0x0A
    else s.setCore c (k.setAreg (wA w) (s.special c (wImm32 w))).issued))

/-- The detail a taken branch to an index faults with: beyond the image, out of the innermost loop body, out of the
retry region (R121, R133, R135). -/
def Core.branchFault (k : Core) (dest : Nat) : Option Nat :=
  firstFailure
    [(decide (k.len ≤ dest), 0x04),
     (match k.loops with | l :: _ => !(decide (l.start ≤ dest) && decide (dest ≤ l.stop)) | [] => false, 0x07),
     (match k.region with | some r => !(decide (r.rtry < dest) && decide (dest ≤ r.target)) | none => false, 0x08)]

/-- Take a branch. -/
def State.takeBranch (s : State) (c dest : Nat) : State :=
  let k := s.core c
  match k.branchFault dest with
  | some d => s.precise c d
  | none => s.setCore c { k.retire with pc := dest }

/-- A conditional branch; imm31 is reserved. Not taken, it goes on and never faults for its target (R121). -/
def State.condBranch (s : State) (c op : Nat) (p : W64 → W64 → Bool) : State :=
  s.seqRun c op (fieldMask 63 31) (fun _ => false) (fun k w =>
    if p (k.areg (wA w)) (k.areg (wB w)) then s.takeBranch c (wTarget w) else s.setCore c k.issued)

/-- JMP: rs1, rs2 and imm31 reserved. -/
def execJmp (c : CoreId) (s : State) : Result :=
  .next (s.seqRun c 0x20 (maskHead ||| fieldMask 43 31) (fun _ => false) (fun _ w => s.takeBranch c (wTarget w)))
/-- BEQ. -/
def execBeq (c : CoreId) (s : State) : Result := .next (s.condBranch c 0x21 (fun a b => a == b))
/-- BNE. -/
def execBne (c : CoreId) (s : State) : Result := .next (s.condBranch c 0x22 (fun a b => a != b))
/-- BLT: signed. -/
def execBlt (c : CoreId) (s : State) : Result := .next (s.condBranch c 0x23 (fun a b => slt64 a b))
/-- BGE: signed. -/
def execBge (c : CoreId) (s : State) : Result := .next (s.condBranch c 0x24 (fun a b => !slt64 a b))
/-- BLTU: unsigned. -/
def execBltu (c : CoreId) (s : State) : Result := .next (s.condBranch c 0x25 (fun a b => decide (a.toNat < b.toNat)))
/-- BGEU: unsigned. -/
def execBgeu (c : CoreId) (s : State) : Result := .next (s.condBranch c 0x26 (fun a b => decide (b.toNat ≤ a.toNat)))
/-- JMPR: to the index in rs1; target, rs2 and imm31 reserved. -/
def execJmpr (c : CoreId) (s : State) : Result :=
  .next (s.seqRun c 0x27 (maskHead ||| fieldMask 53 49) (fun _ => false) (fun k w => s.takeBranch c (k.areg (wA w)).toNat))

/-- The detail a loop instruction faults with (R130, R132, R135). Log entry 15. -/
def Core.loopFault (k : Core) (target count : Nat) : Option Nat :=
  firstFailure
    [(decide (count ≠ 0) && decide (4 ≤ k.loops.length) && decide (count < 2 ^ 32), 0x06),
     (!(decide (k.pc < target) && decide (target < k.len)) || decide (2 ^ 32 ≤ count) ||
        (match k.loops with | l :: _ => decide (l.stop < target) | [] => false), 0x07),
     (match k.region with | some r => decide (r.target < target) | none => false, 0x08)]

/-- Enter a loop, or skip its body for a zero count (R131). Log entry 15. -/
def State.enterLoop (s : State) (c : Nat) (k : Core) (target count : Nat) : State :=
  match k.loopFault target count with
  | some d => s.precise c d
  | none =>
    if count = 0 then s.setCore c (k.retire.after target)
    else s.setCore c { k.retire with loops := ⟨k.pc + 1, target, count, 0⟩ :: k.loops, pc := k.pc + 1 }

/-- LOOP: the count from rs1; rs2 and imm31 reserved. -/
def execLoop (c : CoreId) (s : State) : Result :=
  .next (s.seqRun c 0x30 (maskHead ||| fieldMask 53 49 ||| fieldMask 43 31) (fun _ => false) (fun k w =>
    s.enterLoop c k (wTarget w) (k.areg (wA w)).toNat))
/-- LOOPI: the count in imm31; rs1 and rs2 reserved. -/
def execLoopi (c : CoreId) (s : State) : Result :=
  .next (s.seqRun c 0x31 (maskHead ||| fieldMask 43 0) (fun _ => false) (fun k w =>
    s.enterLoop c k (wTarget w) (wImm31 w)))

/-- BREAK: frees the innermost imm31[1:0] + 1 levels and goes on after the outermost of them (R133). -/
def execBrk (c : CoreId) (s : State) : Result :=
  .next (s.seqRun c 0x32 (maskHead ||| fieldMask 1 0) (fun _ => false) (fun k w =>
    let n := wImm31 w % 4
    match k.loops[n]? with
    | none => s.precise c 0x07
    | some l =>
      let rest := k.loops.drop (n + 1)
      let leaves := match k.region with
        | some r => decide (rest.length < r.loopDepth) ||
            (decide (l.stop = r.target) && (goOn r.loopDepth rest l.stop).2.isNone)
        | none => false
      if leaves then s.precise c 0x08
      else s.setCore c (Core.after { k.retire with loops := rest } l.stop)))

/-- QBAR: records the wait counts; a hold mask of zero counts as a reserved field, a wait mask of zero is a no-op (R127). -/
def execQbar (c : CoreId) (s : State) : Result :=
  .next (s.seqRun c 0x38 (fieldMask 63 45) (fun w => wHold w == 0) (fun k w =>
    let k' := k.issued
    if wWait w = 0 then s.setCore c k'
    else
      let b : Barrier := ⟨BitVec.ofNat 4 (wWait w), k.dispatched, BitVec.ofNat 5 (wHold w), k.dispatched⟩
      if k.waitMet b.wait b.counts then s.setCore c k'
      else s.setCore c { k' with barriers := k'.barriers ++ [b]
                                 seqWait := if bitOf (wHold w) 0 then .barrier else k'.seqWait }))

/-- PHASE: a mark with its wait set; at once when that is empty and no mark waits before it. Not in a region (R135). -/
def execPhase (c : CoreId) (s : State) : Result :=
  .next (s.seqRun c 0x39 (maskHead ||| fieldMask 53 50 ||| fieldMask 15 0) (fun _ => false) (fun k w =>
    if k.region.isSome then s.precise c 0x08
    else
      let now := if wWait w = 0 then some (s.time (c.val / 256), s.stallsNow c) else none
      let m : Mark := ⟨BitVec.ofNat 16 (bitsOf w.toNat 15 0), BitVec.ofNat 4 (wWait w), k.dispatched,
        (s.basin k.basin).step, now⟩
      (s.setCore c k.issued).flushMarks c (k.marks ++ [m])))

/-- RTRY: opens a region at its start rung; regions do not nest, and end inside the image and the loop (R134, R135). -/
def execRtry (c : CoreId) (s : State) : Result :=
  .next (s.seqRun c 0x3A (maskHead ||| fieldMask 43 31 ||| fieldMask 1 0) (fun _ => false) (fun k w =>
    let t := wTarget w
    if k.region.isSome || !(decide (k.pc < t) && decide (t < k.len)) ||
        (match k.loops with | l :: _ => decide (l.stop < t) | [] => false) then s.precise c 0x08
    else s.setCore c { k.retire with
      region := some ⟨k.pc, t, wImm31 w % 4, k.loops.length, k.dispatched, false, false, none, []⟩
      pc := k.pc + 1 }))

/-- DRAW: releases the reservation in force, then asks for imm32 credits, clamped to the core's share (R141, R142).
Log entry 16. -/
def execDraw (c : CoreId) (s : State) : Result :=
  .next (s.seqRun c 0x3B (maskHead ||| fieldMask 43 12) (fun _ => false) (fun k w =>
    if k.region.isSome then s.precise c 0x08
    else
      let t := s.releaseDraw c
      let q := (t.core c).clampDraw (wImm32 w) (drawShare (t.refill (c.val / 8)))
      let t := t.setCore c q.2
      if q.1 * 16 ≤ (t.cluster (c.val / 8)).unreserved then t.grantDraw c q.1
      else (t.setCore c { t.core c with seqWait := .draw q.1 t.now }).noteStall c))

/-- HALT: stops dispatch; the context drains and its loop levels are freed (R145). -/
def execHalt (c : CoreId) (s : State) : Result :=
  .next (s.seqRun c 0x3F (maskHead ||| fieldMask 43 12) (fun w => decide (65535 < wImm32 w)) (fun k w =>
    if k.region.isSome then s.precise c 0x08
    else s.setCore c { k.retire with ctx := .draining, loops := [], haltStatus := BitVec.ofNat 16 (wImm32 w) }))

/-- A queue selector of 5 to 7, or an opcode that its queue does not list (R147, R118, R197, R217, R265, R293). -/
def undefinedWord (flight : Bool) (w : W64) : Option Nat :=
  let op := wOp w
  match wQueue w with
  | 0 => if op ≤ 0x0E ∨ (0x10 ≤ op ∧ op ≤ 0x16) ∨ (0x18 ≤ op ∧ op ≤ 0x1C) ∨ (0x20 ≤ op ∧ op ≤ 0x27) ∨
      (0x30 ≤ op ∧ op ≤ 0x32) ∨ (0x38 ≤ op ∧ op ≤ 0x3B) ∨ op = 0x3F then none else some 0x02
  | 1 => if 1 ≤ op ∧ op ≤ 5 then none else some 0x02
  | 2 => if (1 ≤ op ∧ op ≤ 5 ∧ !flight) ∨ (0x10 ≤ op ∧ op ≤ 0x15) ∨ (op = 0x20 ∧ flight) then none else some 0x02
  | 3 => if op = 1 ∨ op = 2 then none else some 0x02
  | 4 => if (1 ≤ op ∧ op ≤ 4) ∨ (0x10 ≤ op ∧ op ≤ 0x13) then none else some 0x02
  | _ => some 0x01

/-- UNDEFINED_OPCODE: the sequencer decodes such a word and faults precisely. Log entry 14. -/
def execUndefinedOpcode (c : CoreId) (s : State) : Result :=
  .next (match s.fetch c with
    | .held => s
    | .past => s.precise c 0x04
    | .word w =>
      match undefinedWord (s.core c).flightMode w with
      | some d => s.precise c d
      | none => s)

/-- PHASE_MARK_TAKEN: the wait set of a mark has completed (R144). -/
def execPhaseMarkTaken (c : CoreId) (s : State) : Result :=
  .next (if (s.core c).ctx = .running ∨ (s.core c).ctx = .draining then s.takeMark c else s)

end Sys2Proof.Machine
end

