-- ==== Sys2Proof/Machine/Watch.lean ====
section
/-!
DEFINITION. The close of a step summary (R477) and the intervals of the stitch-mode check units (R485).
-/
namespace Sys2Proof.Machine

/-- A count in a field of n bytes saturates (R479). Log entry 65. -/
def narrowCount (n v : Nat) : Bytes := leBytes n (min v (2 ^ (8 * n) - 1))

/-- The 24 bytes of one phase identifier (R477). -/
def PhaseAgg.bytes (p : PhaseAgg) : Bytes :=
  leBytes 2 p.id.toNat ++ narrowCount 2 p.count ++ leBytes 8 p.first.toNat ++ leBytes 8 p.last.toNat ++
    leBytes 2 p.lastCore ++ [0, 0]

/-- The 2,048 bytes of a summary of a basin, closed at a timebase with the basin's bubbles so far (R477). -/
def Summary.bytes (m : Summary) (b : Nat) (time : W64) (bubbles : Nat) : Bytes :=
  padTo 2048 (leBytes 8 m.step.toNat ++ leBytes 8 m.opened.toNat ++ leBytes 8 time.toNat ++ leBytes 1 b ++
    leBytes 1 m.ids.length ++
    leBytes 2 (boolBit m.overflow + 2 * boolBit m.late + 4 * boolBit (decide (0 < m.lostMarks))) ++
    narrowCount 4 m.lostMarks ++ narrowCount 4 m.gates ++ narrowCount 4 m.quarantined ++ narrowCount 4 m.carried ++
    narrowCount 4 m.dropped ++ narrowCount 4 m.lateSlow ++ narrowCount 4 m.retries ++
    leBytes 8 (bubbles - m.bubbles0) ++ m.ids.flatMap PhaseAgg.bytes)

/-- STEP_SUMMARY_CLOSE: the oldest summary whose step the basin has moved past is written by the head keeper. The event is
the end of its close grace. Log entries 1 and 65. -/
def execStepSummaryClose (b : BasinId) (s : State) : Host.Outcome State Fault Refusal :=
  let k := s.basin b
  .next (match k.summaries.find? (fun m => decide (m.step.toNat < k.step.toNat)) with
    | none => s
    | some m =>
      let t := (s.logWrite b .summary (m.bytes b (s.time s.pkg.head) (s.basinBubbles b))).1
      t.setBasin b { t.basin b with summaries := k.summaries.erase m, closedSteps := k.closedSteps ++ [m.step] })

/-- The entry under which a unit's open interval runs: a former one that has not ended, else its own. -/
def State.intervalEntry (s : State) (u : Nat) : Option FormerCheck := (s.check u).formers.find? (fun x => x.running)

/-- CHECK_INTERVAL_END: a transmitting unit's CRC of what its class sent in the interval goes to its partner; a receiving
unit keeps its own result for the report. Log entry 89. -/
def execCheckIntervalEnd (u : CheckId) (s : State) : Host.Outcome State Fault Refusal :=
  let former := s.intervalEntry u
  let t := match former with | some x => formerSheets u x | none => s.sheetsOn (checkDie u)
  let mode := chkMode t u
  .next (if ¬(mode = 3 ∨ mode = 4) ∨ !(s.link (chkTarget t u)).st.carries then s
    else
      let k := s.check u
      let crc := crcOf (chkAlgorithm t u)
      match former with
      | some x =>
        let next := { x with running := false, region := [] }
        if mode = 3 then (s.putFormer u x next).emit (.interval u x.interval (crc x.region))
        else s.putFormer u x { next with results := x.results ++ [(x.interval, crc x.region)] }
      | none =>
        let next := { k with interval := k.interval + 1, region := [] }
        if mode = 3 then (s.setCheck u next).emit (.interval u k.interval (crc k.region))
        else s.setCheck u { next with results := k.results ++ [(k.interval, crc k.region)] })

/-- The result of a list that an interval's report is about. -/
def resultOf (results : List (Nat × W64)) (interval : W16) : Option (Nat × W64) :=
  results.find? (fun r => BitVec.ofNat 16 r.1 == interval)

/-- CHECK_INTERVAL_REPORT: the report is compared with the receiver's own result for its interval; without one the region is
not compared. Log entries 65 and 89. -/
def execCheckIntervalReport (u : CheckId) (interval : W16) (crc : W64) (s : State) : Host.Outcome State Fault Refusal :=
  let k := s.check u
  let t := s.sheetsOn (checkDie u)
  .next (match k.formers.find? (fun x => (resultOf x.results interval).isSome) with
    | some x =>
      (match resultOf x.results interval with
        | none => s
        | some r =>
          s.compareFormer u x { x with results := x.results.erase r }
            ⟨chkTarget (formerSheets u x) u, some interval, 0, r.2, crc⟩)
    | none =>
      if chkMode t u ≠ 4 then s
      else match resultOf k.results interval with
        | none => s.setCheck u (k.bump 7)
        | some r =>
          (s.setCheck u { k with results := k.results.erase r }).compareFrame u ⟨chkTarget t u, some interval, 0, r.2, crc⟩)

/-- CHECK_PARTNER_MISSING: the oldest interval without a report is recorded as partner missing. Log entry 65. -/
def execCheckPartnerMissing (u : CheckId) (s : State) : Host.Outcome State Fault Refusal :=
  let k := s.check u
  let missing := fun (s : State) (t : Sheets) (x : NMap W16) (r : Nat × W64) =>
    s.checkRecord u (s.frameRecord t u 5 ⟨chkTarget t u, none, 0, r.2, 0⟩ (nget (fun _ => 0) x (chkTarget t u)))
  .next (match k.formers.find? (fun x => x.results != []) with
    | some x =>
      (match x.results with
        | [] => s
        | r :: rest => (missing s (formerSheets u x) x.expected r).putFormer u x { x with results := rest })
    | none =>
      match k.results with
      | [] => s
      | r :: rest => missing (s.setCheck u { k with results := rest }) (s.sheetsOn (checkDie u)) k.expected r)

end Sys2Proof.Machine
end

