-- ==== Sys2Proof/Machine/Dispatch.lean ====
section
/-!
DEFINITION. The dispatch: one arm per command, each one call of that command's meaning.
-/
namespace Sys2Proof.Machine

def exec (i : Instr) (s : State) : Host.Outcome State Fault Refusal :=
  match i with
  | .powerOnStart env => Sys2Proof.Machine.execPowerOnStart env s
  | .pwrGoodFall d => Sys2Proof.Machine.execPwrGoodFall d s
  | .keeperFirmwareLoaded failed => Sys2Proof.Machine.execKeeperFirmwareLoaded failed s
  | .stitchStartTrained failed timebase => Sys2Proof.Machine.execStitchStartTrained failed timebase s
  | .hbmTrainingComplete failed => Sys2Proof.Machine.execHbmTrainingComplete failed s
  | .clusterSelfTest failed shorted => Sys2Proof.Machine.execClusterSelfTest failed shorted s
  | .ddrTrainingComplete failed dimmGib => Sys2Proof.Machine.execDdrTrainingComplete failed dimmGib s
  | .pkgReady cxlGib => Sys2Proof.Machine.execPkgReady cxlGib s
  | .pcieConfigBeforeReady g => Sys2Proof.Machine.execPcieConfigBeforeReady g s
  | .referenceQualified d ref => Sys2Proof.Machine.execReferenceQualified d ref s
  | .referenceDisqualified d ref => Sys2Proof.Machine.execReferenceDisqualified d ref s
  | .pllRelock d => Sys2Proof.Machine.execPllRelock d s
  | .revertToPrimary d => Sys2Proof.Machine.execRevertToPrimary d s
  | .referenceRetry ref0 ref1 => Sys2Proof.Machine.execReferenceRetry ref0 ref1 s
  | .rootPllLossOfLock d => Sys2Proof.Machine.execRootPllLossOfLock d s
  | .mgmtStartCondition swapped => Sys2Proof.Machine.execMgmtStartCondition swapped s
  | .vfreqWrite h p v => Sys2Proof.Machine.execVfreqWrite h p v s
  | .stepChangeComplete x => Sys2Proof.Machine.execStepChangeComplete x s
  | .loReadLatch path addr => Sys2Proof.Machine.execLoReadLatch path addr s
  | .timeRequestTimer d => Sys2Proof.Machine.execTimeRequestTimer d s
  | .timeRequest p raw => Sys2Proof.Machine.execTimeRequest p raw s
  | .timeResponse p head crc payload => Sys2Proof.Machine.execTimeResponse p head crc payload s
  | .stageBegin b => Sys2Proof.Machine.execStageBegin b s
  | .stageData b => Sys2Proof.Machine.execStageData b s
  | .stageEnd b => Sys2Proof.Machine.execStageEnd b s
  | .validate b => Sys2Proof.Machine.execValidate b s
  | .turn b => Sys2Proof.Machine.execTurn b s
  | .turnAtReset b => Sys2Proof.Machine.execTurnAtReset b s
  | .quireQuery b => Sys2Proof.Machine.execQuireQuery b s
  | .turnPrepare d => Sys2Proof.Machine.execTurnPrepare d s
  | .turnVote d => Sys2Proof.Machine.execTurnVote d s
  | .turnDecision d => Sys2Proof.Machine.execTurnDecision d s
  | .turnAck d => Sys2Proof.Machine.execTurnAck d s
  | .turnDecisionQueryTimeout d => Sys2Proof.Machine.execTurnDecisionQueryTimeout d s
  | .pldmFirmwareData offset data last => Sys2Proof.Machine.execPldmFirmwareData offset data last s
  | .pldmActivateFirmware selfContained => Sys2Proof.Machine.execPldmActivateFirmware selfContained s
  | .keeperLockstepMismatch d => Sys2Proof.Machine.execKeeperLockstepMismatch d s
  | .keeperWatchdogExpiry d => Sys2Proof.Machine.execKeeperWatchdogExpiry d s
  | .processorKeeperSilence d => Sys2Proof.Machine.execProcessorKeeperSilence d s
  | .lifeCycle b => Sys2Proof.Machine.execLifeCycle b s
  | .jtagInstruction ir => Sys2Proof.Machine.execJtagInstruction ir s
  | .ddrBlockZeroed block => Sys2Proof.Machine.execDdrBlockZeroed block s
  | .cxlZeroFillComplete range => Sys2Proof.Machine.execCxlZeroFillComplete range s
  | .contextStart b r => Sys2Proof.Machine.execContextStart b r s
  | .contextLoaded c => Sys2Proof.Machine.execContextLoaded c s
  | .nop c => Sys2Proof.Machine.execNop c s
  | .add c => Sys2Proof.Machine.execAdd c s
  | .sub c => Sys2Proof.Machine.execSub c s
  | .and c => Sys2Proof.Machine.execAnd c s
  | .or c => Sys2Proof.Machine.execOr c s
  | .xor c => Sys2Proof.Machine.execXor c s
  | .sll c => Sys2Proof.Machine.execSll c s
  | .srl c => Sys2Proof.Machine.execSrl c s
  | .sra c => Sys2Proof.Machine.execSra c s
  | .mul c => Sys2Proof.Machine.execMul c s
  | .mulhu c => Sys2Proof.Machine.execMulhu c s
  | .slt c => Sys2Proof.Machine.execSlt c s
  | .sltu c => Sys2Proof.Machine.execSltu c s
  | .minu c => Sys2Proof.Machine.execMinu c s
  | .maxu c => Sys2Proof.Machine.execMaxu c s
  | .addi c => Sys2Proof.Machine.execAddi c s
  | .andi c => Sys2Proof.Machine.execAndi c s
  | .ori c => Sys2Proof.Machine.execOri c s
  | .xori c => Sys2Proof.Machine.execXori c s
  | .slli c => Sys2Proof.Machine.execSlli c s
  | .srli c => Sys2Proof.Machine.execSrli c s
  | .srai c => Sys2Proof.Machine.execSrai c s
  | .li c => Sys2Proof.Machine.execLi c s
  | .lih c => Sys2Proof.Machine.execLih c s
  | .ld c => Sys2Proof.Machine.execLd c s
  | .st c => Sys2Proof.Machine.execSt c s
  | .rdsr c => Sys2Proof.Machine.execRdsr c s
  | .jmp c => Sys2Proof.Machine.execJmp c s
  | .beq c => Sys2Proof.Machine.execBeq c s
  | .bne c => Sys2Proof.Machine.execBne c s
  | .blt c => Sys2Proof.Machine.execBlt c s
  | .bge c => Sys2Proof.Machine.execBge c s
  | .bltu c => Sys2Proof.Machine.execBltu c s
  | .bgeu c => Sys2Proof.Machine.execBgeu c s
  | .jmpr c => Sys2Proof.Machine.execJmpr c s
  | .loop c => Sys2Proof.Machine.execLoop c s
  | .loopi c => Sys2Proof.Machine.execLoopi c s
  | .brk c => Sys2Proof.Machine.execBrk c s
  | .qbar c => Sys2Proof.Machine.execQbar c s
  | .phase c => Sys2Proof.Machine.execPhase c s
  | .rtry c => Sys2Proof.Machine.execRtry c s
  | .draw c => Sys2Proof.Machine.execDraw c s
  | .halt c => Sys2Proof.Machine.execHalt c s
  | .engineIssue c e => Sys2Proof.Machine.execEngineIssue c e s
  | .instructionComplete c e => Sys2Proof.Machine.execInstructionComplete c e s
  | .phaseMarkTaken c => Sys2Proof.Machine.execPhaseMarkTaken c s
  | .regionOverflow c => Sys2Proof.Machine.execRegionOverflow c s
  | .retryRestart c => Sys2Proof.Machine.execRetryRestart c s
  | .contextDrained c => Sys2Proof.Machine.execContextDrained c s
  | .contextFault c => Sys2Proof.Machine.execContextFault c s
  | .mma c => Sys2Proof.Machine.execMma c s
  | .tout c => Sys2Proof.Machine.execTout c s
  | .tin c => Sys2Proof.Machine.execTin c s
  | .tzero c => Sys2Proof.Machine.execTzero c s
  | .pwin c => Sys2Proof.Machine.execPwin c s
  | .vop c => Sys2Proof.Machine.execVop c s
  | .vld c => Sys2Proof.Machine.execVld c s
  | .vst c => Sys2Proof.Machine.execVst c s
  | .vget c => Sys2Proof.Machine.execVget c s
  | .vput c => Sys2Proof.Machine.execVput c s
  | .tcvt c => Sys2Proof.Machine.execTcvt c s
  | .tred c => Sys2Proof.Machine.execTred c s
  | .rmrg c => Sys2Proof.Machine.execRmrg c s
  | .scvt c => Sys2Proof.Machine.execScvt c s
  | .radd c => Sys2Proof.Machine.execRadd c s
  | .smax c => Sys2Proof.Machine.execSmax c s
  | .fly c => Sys2Proof.Machine.execFly c s
  | .brg c => Sys2Proof.Machine.execBrg c s
  | .blin c => Sys2Proof.Machine.execBlin c s
  | .bargeComplete src => Sys2Proof.Machine.execBargeComplete src s
  | .bargeFail src => Sys2Proof.Machine.execBargeFail src s
  | .poisonLoadTrap h va ba => Sys2Proof.Machine.execPoisonLoadTrap h va ba s
  | .patrolScrub piece found => Sys2Proof.Machine.execPatrolScrub piece found s
  | .swait c => Sys2Proof.Machine.execSwait c s
  | .swaitSatisfied c => Sys2Proof.Machine.execSwaitSatisfied c s
  | .ssig c => Sys2Proof.Machine.execSsig c s
  | .sset c => Sys2Proof.Machine.execSset c s
  | .srsig c => Sys2Proof.Machine.execSrsig c s
  | .remoteSignalArrival sender => Sys2Proof.Machine.execRemoteSignalArrival sender s
  | .srsigAck sender => Sys2Proof.Machine.execSrsigAck sender s
  | .kbar c => Sys2Proof.Machine.execKbar c s
  | .kwait c => Sys2Proof.Machine.execKwait c s
  | .kjoin c => Sys2Proof.Machine.execKjoin c s
  | .kleave c => Sys2Proof.Machine.execKleave c s
  | .kettleRelease k => Sys2Proof.Machine.execKettleRelease k s
  | .kettleUpdate d src seq word => Sys2Proof.Machine.execKettleUpdate d src seq word s
  | .kettleUpdateResend d => Sys2Proof.Machine.execKettleUpdateResend d s
  | .deadlockWindowExpiry c => Sys2Proof.Machine.execDeadlockWindowExpiry c s
  | .sluiceStep b r => Sys2Proof.Machine.execSluiceStep b r s
  | .bucketReady b d step entry => Sys2Proof.Machine.execBucketReady b d step entry s
  | .contributionReceived b d m => Sys2Proof.Machine.execContributionReceived b d m s
  | .quarantineMarker b d m => Sys2Proof.Machine.execQuarantineMarker b d m s
  | .admissionComplete k => Sys2Proof.Machine.execAdmissionComplete k s
  | .gateDeadline k => Sys2Proof.Machine.execGateDeadline k s
  | .collationRoom b d => Sys2Proof.Machine.execCollationRoom b d s
  | .normPartial b step member q => Sys2Proof.Machine.execNormPartial b step member q s
  | .normTotal b step q => Sys2Proof.Machine.execNormTotal b step q s
  | .normWaitExpiry k => Sys2Proof.Machine.execNormWaitExpiry k s
  | .updateComplete k => Sys2Proof.Machine.execUpdateComplete k s
  | .parametersReceived b d m => Sys2Proof.Machine.execParametersReceived b d m s
  | .momentMirror b d m => Sys2Proof.Machine.execMomentMirror b d m s
  | .mirrorAck k => Sys2Proof.Machine.execMirrorAck k s
  | .broadcastWaitExpiry b d step entry => Sys2Proof.Machine.execBroadcastWaitExpiry b d step entry s
  | .refetchRequest b d m => Sys2Proof.Machine.execRefetchRequest b d m s
  | .refetchData b d m => Sys2Proof.Machine.execRefetchData b d m s
  | .trainingAttempt p shorted => Sys2Proof.Machine.execTrainingAttempt p shorted s
  | .portTrained p o => Sys2Proof.Machine.execPortTrained p o s
  | .portLoss p lost => Sys2Proof.Machine.execPortLoss p lost s
  | .fastRetrainComplete p good ok => Sys2Proof.Machine.execFastRetrainComplete p good ok s
  | .probationPassed p => Sys2Proof.Machine.execProbationPassed p s
  | .probationTimeout p => Sys2Proof.Machine.execProbationTimeout p s
  | .dataFrame p raw => Sys2Proof.Machine.execDataFrame p raw s
  | .ackCreditFrame p header payload => Sys2Proof.Machine.execAckCreditFrame p header payload s
  | .nakFrame p raw => Sys2Proof.Machine.execNakFrame p raw s
  | .uncorrectableFrame p => Sys2Proof.Machine.execUncorrectableFrame p s
  | .nakResendTimer p => Sys2Proof.Machine.execNakResendTimer p s
  | .creditReturnTimer p => Sys2Proof.Machine.execCreditReturnTimer p s
  | .resumeQuery p head crc payload => Sys2Proof.Machine.execResumeQuery p head crc payload s
  | .resumeAnswer p head crc payload => Sys2Proof.Machine.execResumeAnswer p head crc payload s
  | .towpathSend b r => Sys2Proof.Machine.execTowpathSend b r s
  | .ethernetDatagram p raw => Sys2Proof.Machine.execEthernetDatagram p raw s
  | .arpRequest p target => Sys2Proof.Machine.execArpRequest p target s
  | .neighborSolicitation p target => Sys2Proof.Machine.execNeighborSolicitation p target s
  | .pauseFrame p priorities => Sys2Proof.Machine.execPauseFrame p priorities s
  | .flowAckTimer p flow => Sys2Proof.Machine.execFlowAckTimer p flow s
  | .flowNakRepeat p flow => Sys2Proof.Machine.execFlowNakRepeat p flow s
  | .flowGapTimeout p flow => Sys2Proof.Machine.execFlowGapTimeout p flow s
  | .slowWaterHoldEnd b => Sys2Proof.Machine.execSlowWaterHoldEnd b s
  | .portQuiesce b => Sys2Proof.Machine.execPortQuiesce b s
  | .capabilityRecord l fromSecond record => Sys2Proof.Machine.execCapabilityRecord l fromSecond record s
  | .widthEcho l first second => Sys2Proof.Machine.execWidthEcho l first second s
  | .stitchRead d h => Sys2Proof.Machine.execStitchRead d h s
  | .stitchWrite d h enables data => Sys2Proof.Machine.execStitchWrite d h enables data s
  | .stitchCompletion d h data => Sys2Proof.Machine.execStitchCompletion d h data s
  | .snoopRequest d home line kind => Sys2Proof.Machine.execSnoopRequest d home line kind s
  | .snoopResponse home line dirty data => Sys2Proof.Machine.execSnoopResponse home line dirty data s
  | .isolationNotice d lost reason => Sys2Proof.Machine.execIsolationNotice d lost reason s
  | .flitLossTimeout l lostSecond => Sys2Proof.Machine.execFlitLossTimeout l lostSecond s
  | .laneFault l module cause => Sys2Proof.Machine.execLaneFault l module cause s
  | .stitchRetrainDone l repaired first second => Sys2Proof.Machine.execStitchRetrainDone l repaired first second s
  | .routeDrainComplete a t => Sys2Proof.Machine.execRouteDrainComplete a t s
  | .topologyQuery b => Sys2Proof.Machine.execTopologyQuery b s
  | .setStep b => Sys2Proof.Machine.execSetStep b s
  | .translationRoot b => Sys2Proof.Machine.execTranslationRoot b s
  | .translationFlush b => Sys2Proof.Machine.execTranslationFlush b s
  | .semaphoreSignal b => Sys2Proof.Machine.execSemaphoreSignal b s
  | .abort b => Sys2Proof.Machine.execAbort b s
  | .ringSetup b => Sys2Proof.Machine.execRingSetup b s
  | .flowRing b => Sys2Proof.Machine.execFlowRing b s
  | .resetContext b => Sys2Proof.Machine.execResetContext b s
  | .resetEngine b => Sys2Proof.Machine.execResetEngine b s
  | .resetBasin b => Sys2Proof.Machine.execResetBasin b s
  | .unknownCommand b => Sys2Proof.Machine.execUnknownCommand b s
  | .mboxOverrun b => Sys2Proof.Machine.execMboxOverrun b s
  | .ringDoorbell b r prod => Sys2Proof.Machine.execRingDoorbell b r prod s
  | .ringNoop b r => Sys2Proof.Machine.execRingNoop b r s
  | .ringBarge b r => Sys2Proof.Machine.execRingBarge b r s
  | .ringEntryMalformed b r => Sys2Proof.Machine.execRingEntryMalformed b r s
  | .registerWrite path addr width v => Sys2Proof.Machine.execRegisterWrite path addr width v s
  | .bsnIrqFwd b v => Sys2Proof.Machine.execBsnIrqFwd b v s
  | .deviceIrqFwd g v => Sys2Proof.Machine.execDeviceIrqFwd g v s
  | .chkPop path u => Sys2Proof.Machine.execChkPop path u s
  | .bsnChkPop b v => Sys2Proof.Machine.execBsnChkPop b v s
  | .mctpControlAccess write addr v => Sys2Proof.Machine.execMctpControlAccess write addr v s
  | .hostRead b addr len => Sys2Proof.Machine.execHostRead b addr len s
  | .hostWrite b addr data => Sys2Proof.Machine.execHostWrite b addr data s
  | .deviceMemoryRequest g write addr len data => Sys2Proof.Machine.execDeviceMemoryRequest g write addr len data s
  | .endpointLinkDown g => Sys2Proof.Machine.execEndpointLinkDown g s
  | .perstNAssert g => Sys2Proof.Machine.execPerstNAssert g s
  | .lockCycleBoundary m => Sys2Proof.Machine.execLockCycleBoundary m s
  | .governorEvaluation temps => Sys2Proof.Machine.execGovernorEvaluation temps s
  | .thermalTrip d => Sys2Proof.Machine.execThermalTrip d s
  | .powerMonitorFail rail => Sys2Proof.Machine.execPowerMonitorFail rail s
  | .pldmSetCap watts => Sys2Proof.Machine.execPldmSetCap watts s
  | .pldmSensorRead q => Sys2Proof.Machine.execPldmSensorRead q s
  | .hangSample d => Sys2Proof.Machine.execHangSample d s
  | .recoveryDecision e => Sys2Proof.Machine.execRecoveryDecision e s
  | .endpaperStored n => Sys2Proof.Machine.execEndpaperStored n s
  | .resetComplete n => Sys2Proof.Machine.execResetComplete n s
  | .resetTimeout n => Sys2Proof.Machine.execResetTimeout n s
  | .readmission n => Sys2Proof.Machine.execReadmission n s
  | .endpaperFlashCopyDone ok => Sys2Proof.Machine.execEndpaperFlashCopyDone ok s
  | .stepSummaryClose b => Sys2Proof.Machine.execStepSummaryClose b s
  | .checkIntervalEnd u => Sys2Proof.Machine.execCheckIntervalEnd u s
  | .checkIntervalReport u interval crc => Sys2Proof.Machine.execCheckIntervalReport u interval crc s
  | .checkPartnerMissing u => Sys2Proof.Machine.execCheckPartnerMissing u s
  | .undefinedOpcode c => Sys2Proof.Machine.execUndefinedOpcode c s
  | .basinOpenComplete b => Sys2Proof.Machine.execBasinOpenComplete b s
  | .perstNRelease g => Sys2Proof.Machine.execPerstNRelease g s
  | .segmentLinkUp g => Sys2Proof.Machine.execSegmentLinkUp g s
  | .errHwaddrWrite h p v => Sys2Proof.Machine.execErrHwaddrWrite h p v s
  | .pcieConfigRequest g q => Sys2Proof.Machine.execPcieConfigRequest g q s
  | .stitchReservedType l type => Sys2Proof.Machine.execStitchReservedType l type s
  | .reservedFrameKind p raw => Sys2Proof.Machine.execReservedFrameKind p raw s
  | .resetNLow => Sys2Proof.Machine.execResetNLow s
  | .mgmtLinesShorted => Sys2Proof.Machine.execMgmtLinesShorted s
  | .turnVoteDeadline => Sys2Proof.Machine.execTurnVoteDeadline s
  | .turnSwap => Sys2Proof.Machine.execTurnSwap s
  | .selectorWriteComplete => Sys2Proof.Machine.execSelectorWriteComplete s
  | .turnRetry => Sys2Proof.Machine.execTurnRetry s
  | .pldmRequestUpdate => Sys2Proof.Machine.execPldmRequestUpdate s
  | .heartbeatSend => Sys2Proof.Machine.execHeartbeatSend s
  | .heartbeatLoss => Sys2Proof.Machine.execHeartbeatLoss s
  | .hourlyTrim => Sys2Proof.Machine.execHourlyTrim s
  | .packageResetRequest => Sys2Proof.Machine.execPackageResetRequest s
  | .endpaperSetErase => Sys2Proof.Machine.execEndpaperSetErase s
  | .powerCycleRequest => Sys2Proof.Machine.execPowerCycleRequest s
  | .mgmtLinesCleared => Sys2Proof.Machine.execMgmtLinesCleared s

end Sys2Proof.Machine
end

