-- ==== Sys2Proof/Machine/Step.lean ====
section
/-!
DEFINITION. One step of the block: the command at the front of the queue takes its effect; with no command waiting, one
CCLK cycle passes.
-/
namespace Sys2Proof.Machine

/-- The command at the front of the queue, run with the rest of the queue; an empty queue lets one cycle pass.
Log entries 2 and 12. -/
def step (s : State) : Host.Outcome State Fault Refusal :=
  match s.pending with
  | [] => .next s.cycle
  | c :: rest => exec c { s with pending := rest }

/-- The state with the command that a word spells in front of its queue; no command has a word, so it is the state.
Log entry 3. -/
def State.withFetchWord (s : State) (nbits w : Nat) : State :=
  match Sys2Proof.decodeTableWord nbits w with
  | some c => { s with pending := c :: s.pending }
  | none => s

end Sys2Proof.Machine
end

