-- ==== Sys2Proof/Safety.lean ====
section
/-!
DEFINITION. What every reachable state keeps: tables and memories in canonical form, the governor's values within the bounds
of 16_current_power, and PKG_READY only in a package whose start has ended.
-/
namespace Sys2Proof.Machine

/-- Every sparse table, the memory and the flash are in canonical form, and the cycle count is inside its lock cycle: equal
machines are equal data. -/
structure State.Canonical (s : State) : Prop where
  mem : Memory.wf s.mem
  flash : Flash.wf s.flash
  dies : NMap.wf (fun _ => Die.reset) s.dies
  cores : NMap.wf (fun _ => Core.reset) s.cores
  clusters : NMap.wf (fun _ => Cluster.reset) s.clusters
  complexes : NMap.wf (fun _ => Complex.reset) s.complexes
  harts : NMap.wf (fun _ => Hart.reset) s.harts
  basins : NMap.wf (fun _ => Basin.reset) s.basins
  segments : NMap.wf (fun _ => Segment.reset) s.segments
  cxl : NMap.wf (fun _ => (⟨0, false⟩ : CxlPort)) s.cxl
  sluices : NMap.wf (fun _ => Sluice.reset) s.sluices
  ports : NMap.wf (fun _ => Port.reset) s.ports
  flows : NMap.wf (fun _ => Flow.reset) s.flows
  links : NMap.wf (fun _ => Link.reset) s.links
  checks : NMap.wf (fun _ => CheckUnit.reset) s.checks
  latches : NMap.wf (fun _ => (0 : W32)) s.latches
  kettleGen : NMap.wf (fun _ => (0 : W32)) s.kettleGen
  kettleShort : NMap.wf (fun _ => false) s.kettleShort
  kettleDepartures : NMap.wf (fun _ => 0) s.kettleDepartures
  kettleGhosts : NMap.wf (fun _ => (0, 0)) s.kettleGhosts
  cyc : s.cyc < 2200

/-- A scale of R436-R442 in 256ths: never below 16 and never above 256. -/
def Scale (n : Nat) : Prop := 16 ≤ n ∧ n ≤ 256

/-- A ramp level of R435. -/
def RampLevel (n : Nat) : Prop := 1 ≤ n ∧ n ≤ 8

/-- The governor's values are within the bounds of R435-R442. -/
structure State.Governed (s : State) : Prop where
  package : Scale s.pkg.f
  thermal : ∀ d, Scale (s.die d).thermal
  basins : ∀ b, Scale (s.basin b).scale
  clusters : ∀ k, RampLevel (s.cluster k).ramp ∧ Scale (s.cluster k).scale ∧ Scale (s.cluster k).next
  sluices : ∀ d, RampLevel (s.sluice d).ramp ∧ Scale (s.sluice d).scale ∧ Scale (s.sluice d).next

/-- PKG_READY is asserted only when the start has gone through its rows (R87). -/
def State.ReadyAfterStart (s : State) : Prop := s.pkg.pkgReady = true → s.pkg.phase = .ready

end Sys2Proof.Machine
end

