-- ==== Sys2Proof/Certificates/Slice0/Obligations.lean ====
section
/-!
DEFINITION. The statements about the model, for the provers. A statement about a command says which next state it answers, under
conditions on the state and the operands alone.
-/
namespace Sys2Proof.Claims
open Sys2Proof.Machine

/-- The command answers a next state, and it is as stated. -/
def After (i : Instr) (s : State) (p : State → Prop) : Prop := ∃ t, exec i s = .next t ∧ p t

/-- No byte of memory differs. -/
def SameMemory (s t : State) : Prop := ∀ a, t.byte a = s.byte a

/-- The error code was raised. -/
def Raised (t : State) (code : W16) : Prop := ∃ e ∈ t.pkg.raised, e.1.code = code

/-- The error code was raised at die d. -/
def RaisedAt (t : State) (code : W16) (d : DieId) : Prop := ∃ e ∈ t.pkg.raised, e.1.code = code ∧ e.1.die = d

/-- What vector v of a basin sends: a vector of its host, or with a self-hosted basin a message to the hart its target names. -/
def interrupt (s : State) (b v : Nat) : Out :=
  if bsnSelf (s.die s.pkg.head).active b then .msi (s.basin b).irqTarget (32 + v) else .vector b v

/-- No core but c differs. -/
def OtherCores (c : Nat) (s t : State) : Prop := ∀ j, j ≠ c → t.core j = s.core j

/-- No basin but b differs. -/
def OtherBasins (b : Nat) (s t : State) : Prop := ∀ j, j ≠ b → t.basin j = s.basin j

/-- The sequencer of core c has this word next: its queue, its opcode, and no bit outside the fields it uses. -/
structure Next (s : State) (c : Nat) (w : W64) (queue op used : Nat) : Prop where
  fetch : s.fetch c = .word w
  queue : wQueue w = queue
  op : wOp w = op
  clean : strayBits w used = false

/-- The core goes on to the next index when no loop ends here and no retry region is open. -/
def GoesOn (k k' : Core) : Prop :=
  k.region = none → (∀ l ∈ k.loops, l.stop ≠ k.pc) → k'.pc = k.pc + 1 ∧ k'.loops = k.loops ∧ k'.region = none

/-- Nothing of a core differs but its address registers, its place in the program and its count of retired instructions. -/
def OnlySequencer (k k' : Core) : Prop :=
  k' = { k with aregs := k'.aregs, pc := k'.pc, loops := k'.loops, region := k'.region, rungLast := k'.rungLast,
                retiredSeq := k'.retiredSeq }

/-- A sequencer instruction writes a value to register rd of its core and goes on; a0 stays zero, every other register and
everything else of the machine is as it was. -/
def WritesRegister (i : Instr) (c : CoreId) (s : State) (rd : Nat) (v : W64) : Prop :=
  ∃ k', exec i s = .next (s.setCore c k') ∧ k'.areg rd = (if rd = 0 then 0 else v) ∧
    (∀ r, r ≠ rd → k'.areg r = (s.core c).areg r) ∧ k'.retiredSeq = satCount ((s.core c).retiredSeq + 1) ∧
    GoesOn (s.core c) k' ∧ OnlySequencer (s.core c) k'

/-- A register instruction of format A computes f of rs1 and rs2. -/
def Computes (i : CoreId → Instr) (op : Nat) (f : W64 → W64 → W64) : Prop :=
  ∀ (c : CoreId) (s : State) (w : W64), Next s c w 0 op maskA →
    WritesRegister (i c) c s (wA w) (f ((s.core c).areg (wB w)) ((s.core c).areg (wC w)))

/-- An instruction of format B computes f of rs1 and the sign-extended imm32. -/
def ComputesImm (i : CoreId → Instr) (op : Nat) (f : W64 → W64 → W64) : Prop :=
  ∀ (c : CoreId) (s : State) (w : W64), Next s c w 0 op maskB →
    WritesRegister (i c) c s (wA w) (f ((s.core c).areg (wB w)) (sext64 32 (bitsOf w.toNat 43 12)))

/-- A shift by an immediate of 0 to 63. -/
def ShiftsImm (i : CoreId → Instr) (op : Nat) (f : W64 → Nat → W64) : Prop :=
  ∀ (c : CoreId) (s : State) (w : W64), Next s c w 0 op maskB → bitsOf w.toNat 43 12 ≤ 63 →
    WritesRegister (i c) c s (wA w) (f ((s.core c).areg (wB w)) (bitsOf w.toNat 43 12))

/-- A taken or not taken branch: it goes to its target when the condition holds and the target is legal, else on. -/
def Branches (i : CoreId → Instr) (op : Nat) (p : W64 → W64 → Prop) : Prop :=
  ∀ (c : CoreId) (s : State) (w : W64), Next s c w 0 op (fieldMask 63 31) →
    (p ((s.core c).areg (wA w)) ((s.core c).areg (wB w)) → bitsOf w.toNat 43 31 < (s.core c).len →
      (s.core c).loops = [] → (s.core c).region = none →
      exec (i c) s = .next (s.setCore c
        { s.core c with retiredSeq := satCount ((s.core c).retiredSeq + 1), pc := bitsOf w.toNat 43 31 })) ∧
    (¬ p ((s.core c).areg (wA w)) ((s.core c).areg (wB w)) →
      ∃ k', exec (i c) s = .next (s.setCore c k') ∧ k'.aregs = (s.core c).aregs ∧
        k'.retiredSeq = satCount ((s.core c).retiredSeq + 1) ∧ GoesOn (s.core c) k' ∧ OnlySequencer (s.core c) k')

/-- The context of core c faults with a code: its queues stop and it awaits its endpaper. -/
def Faults (i : Instr) (c : Nat) (s : State) (code : Nat) : Prop :=
  After i s fun t => (t.core c).ctx = .faulted ∧ (t.core c).fault = some (BitVec.ofNat 16 code) ∧
    (t.core c).pc = (s.core c).pc ∧ OtherCores c s t ∧ SameMemory s t

end Sys2Proof.Claims

open Sys2Proof Sys2Proof.Machine Sys2Proof.Claims

/-- R118: ADD to MAXU write the stated function of rs1 and rs2 to rd. Completes:
add, sub, and, or, xor, sll, srl, sra, mul, mulhu, slt, sltu, minu, maxu. -/
def Sys2Proof.Claims.RegisterArithmetic : Prop :=
  Computes .add 0x01 (fun a b => a + b) ∧ Computes .sub 0x02 (fun a b => a - b) ∧
  Computes .and 0x03 (fun a b => a &&& b) ∧ Computes .or 0x04 (fun a b => a ||| b) ∧
  Computes .xor 0x05 (fun a b => a ^^^ b) ∧ Computes .sll 0x06 (fun a b => a <<< (b.toNat % 64)) ∧
  Computes .srl 0x07 (fun a b => a >>> (b.toNat % 64)) ∧ Computes .sra 0x08 (fun a b => a.sshiftRight (b.toNat % 64)) ∧
  Computes .mul 0x09 (fun a b => a * b) ∧
  Computes .mulhu 0x0A (fun a b => BitVec.ofNat 64 (a.toNat * b.toNat / 2 ^ 64)) ∧
  Computes .slt 0x0B (fun a b => if a.toInt < b.toInt then 1 else 0) ∧
  Computes .sltu 0x0C (fun a b => if a.toNat < b.toNat then 1 else 0) ∧
  Computes .minu 0x0D (fun a b => if a.toNat < b.toNat then a else b) ∧
  Computes .maxu 0x0E (fun a b => if a.toNat < b.toNat then b else a)

/-- R118: ADDI to SRAI, LI and LIH write the stated function of rs1 and the immediate to rd; a shift by more than 63 counts
as a non-zero reserved field and faults with detail 0x03. Completes:
addi, andi, ori, xori, slli, srli, srai, li, lih. -/
def Sys2Proof.Claims.ImmediateArithmetic : Prop :=
  ComputesImm .addi 0x10 (fun a i => a + i) ∧ ComputesImm .andi 0x11 (fun a i => a &&& i) ∧
  ComputesImm .ori 0x12 (fun a i => a ||| i) ∧ ComputesImm .xori 0x13 (fun a i => a ^^^ i) ∧
  ShiftsImm .slli 0x14 (fun a n => a <<< n) ∧ ShiftsImm .srli 0x15 (fun a n => a >>> n) ∧
  ShiftsImm .srai 0x16 (fun a n => a.sshiftRight n) ∧
  (∀ (c : CoreId) (s : State) (w : W64), Next s c w 0 0x18 maskC →
    WritesRegister (.li c) c s (wA w) (sext64 48 (bitsOf w.toNat 47 0))) ∧
  (∀ (c : CoreId) (s : State) (w : W64), Next s c w 0 0x19 (fieldMask 63 49 ||| fieldMask 15 0) →
    WritesRegister (.lih c) c s (wA w)
      (BitVec.ofNat 64 (bitsOf w.toNat 15 0 * 2 ^ 48 + ((s.core c).areg (wA w)).toNat % 2 ^ 48))) ∧
  (∀ (c : CoreId) (s : State) (w : W64), 63 < bitsOf w.toNat 43 12 →
    (Next s c w 0 0x14 maskB → Faults (.slli c) c s 0x103) ∧ (Next s c w 0 0x15 maskB → Faults (.srli c) c s 0x103) ∧
    (Next s c w 0 0x16 maskB → Faults (.srai c) c s 0x103))

/-- R119, R113: LD and ST move the 64-bit word at rs1 + imm32 of the context's allocation; a misaligned offset or one outside
the allocation faults with detail 0x05. ST changes no other byte of memory. Completes:
ld, st. -/
def Sys2Proof.Claims.ScratchpadLoadStore : Prop :=
  ∀ (c : CoreId) (s : State) (w : W64),
    let off := ((s.core c).areg (wB w) + sext64 32 (bitsOf w.toNat 43 12)).toNat
    let base := scratchBase c + (s.core c).firstBank * 0x8000
    (off % 8 = 0 → off + 8 ≤ (s.core c).bankCount * 0x8000 → Next s c w 0 0x1A maskB →
      WritesRegister (.ld c) c s (wA w) (BitVec.ofNat 64 (s.readLe (base + off) 8))) ∧
    (off % 8 = 0 → off + 8 ≤ (s.core c).bankCount * 0x8000 → Next s c w 0 0x1B maskB →
      ∃ t, exec (.st c) s = .next t ∧ t.readBytes (base + off) 8 = leBytes 8 ((s.core c).areg (wA w)).toNat ∧
        (∀ a, (a < base + off ∨ base + off + 8 ≤ a) → t.byte a = s.byte a) ∧
        (t.core c).aregs = (s.core c).aregs ∧ GoesOn (s.core c) (t.core c) ∧ OnlySequencer (s.core c) (t.core c) ∧
        (∀ j, j ≠ c.val → t.core j = s.core j)) ∧
    ((off % 8 ≠ 0 ∨ (s.core c).bankCount * 0x8000 < off + 8) →
      (Next s c w 0 0x1A maskB → Faults (.ld c) c s 0x105) ∧ (Next s c w 0 0x1B maskB → Faults (.st c) c s 0x105))

/-- R122: RDSR reads the special registers; an index above 11 faults with detail 0x0A. Completes:
rdsr. -/
def Sys2Proof.Claims.SpecialRegisters : Prop :=
  ∀ (c : CoreId) (s : State) (w : W64), Next s c w 0 0x1C (fieldMask 63 49 ||| fieldMask 43 12) →
    let k := s.core c
    let n := bitsOf w.toNat 43 12
    let reads := fun v => WritesRegister (.rdsr c) c s (wA w) v
    (n = 0 → reads (BitVec.ofNat 64 c.val)) ∧ (n = 1 → reads (BitVec.ofNat 64 k.tag.toNat)) ∧
    (n = 2 → reads (s.basin k.basin).step) ∧ (n = 3 → reads (s.die (c.val / 256)).timebase) ∧
    (n = 4 → reads (BitVec.ofNat 64 (satCount (s.now - k.firstIssue)))) ∧
    (n = 5 → reads (BitVec.ofNat 64 k.loops.length)) ∧
    (∀ l, 6 ≤ n → n ≤ 9 → k.loops.reverse[n - 6]? = some l → reads (BitVec.ofNat 64 l.iter)) ∧
    (6 ≤ n → n ≤ 9 → k.loops.length ≤ n - 6 → reads 0) ∧
    (n = 10 → reads (BitVec.ofNat 64 k.rungLast)) ∧ (n = 11 → reads (BitVec.ofNat 64 (satCount (s.stallsNow c)))) ∧
    (11 < n → Faults (.rdsr c) c s 0x10A)

/-- R118, R121: branches and jumps; a taken one to an index at or above the image length faults with detail 0x04. Completes:
jmp, beq, bne, blt, bge, bltu, bgeu, jmpr.
The model's choices in it: log entry 14. -/
def Obligations.BranchesAndJumps : Prop :=
  Branches .beq 0x21 (fun a b => a = b) ∧ Branches .bne 0x22 (fun a b => a ≠ b) ∧
  Branches .blt 0x23 (fun a b => a.toInt < b.toInt) ∧ Branches .bge 0x24 (fun a b => b.toInt ≤ a.toInt) ∧
  Branches .bltu 0x25 (fun a b => a.toNat < b.toNat) ∧ Branches .bgeu 0x26 (fun a b => b.toNat ≤ a.toNat) ∧
  (∀ (c : CoreId) (s : State) (w : W64), Next s c w 0 0x20 (maskHead ||| fieldMask 43 31) →
    ((s.core c).loops = [] → (s.core c).region = none → bitsOf w.toNat 43 31 < (s.core c).len →
      exec (.jmp c) s = .next (s.setCore c
        { s.core c with retiredSeq := satCount ((s.core c).retiredSeq + 1), pc := bitsOf w.toNat 43 31 })) ∧
    ((s.core c).len ≤ bitsOf w.toNat 43 31 → Faults (.jmp c) c s 0x104)) ∧
  (∀ (c : CoreId) (s : State) (w : W64), Next s c w 0 0x27 (maskHead ||| fieldMask 53 49) →
    ((s.core c).loops = [] → (s.core c).region = none → ((s.core c).areg (wA w)).toNat < (s.core c).len →
      exec (.jmpr c) s = .next (s.setCore c
        { s.core c with retiredSeq := satCount ((s.core c).retiredSeq + 1), pc := ((s.core c).areg (wA w)).toNat })) ∧
    ((s.core c).len ≤ ((s.core c).areg (wA w)).toNat → Faults (.jmpr c) c s 0x104))

/-- R130, R131, R133: LOOP and LOOPI open a level whose body ends at the target, a zero count skips the body, and BREAK
leaves imm31[1:0] + 1 levels. Completes:
loop, loopi, brk. -/
def Sys2Proof.Claims.HardwareLoops : Prop :=
  (∀ (c : CoreId) (s : State) (w : W64) (n : Nat) (i : Instr),
    let k := s.core c
    let target := bitsOf w.toNat 43 31
    ((i = .loop c ∧ n = (k.areg (wA w)).toNat ∧ Next s c w 0 0x30 (maskHead ||| fieldMask 53 49 ||| fieldMask 43 31)) ∨
     (i = .loopi c ∧ n = bitsOf w.toNat 30 0 ∧ Next s c w 0 0x31 (maskHead ||| fieldMask 43 0))) →
    k.pc < target → target < k.len → (∀ l ls, k.loops = l :: ls → target ≤ l.stop) → k.region = none →
    (0 < n → n < 2 ^ 32 → k.loops.length < 4 →
      exec i s = .next (s.setCore c { k with retiredSeq := satCount (k.retiredSeq + 1), pc := k.pc + 1,
                                             loops := ⟨k.pc + 1, target, n, 0⟩ :: k.loops })) ∧
    (0 < n → n < 2 ^ 32 → 4 ≤ k.loops.length → Faults i c s 0x106) ∧
    (n = 0 → (∀ l ∈ k.loops, l.stop ≠ target) →
      exec i s = .next (s.setCore c { k with retiredSeq := satCount (k.retiredSeq + 1), pc := target + 1 })) ∧
    (2 ^ 32 ≤ n → Faults i c s 0x107)) ∧
  (∀ (c : CoreId) (s : State) (w : W64), Next s c w 0 0x32 (maskHead ||| fieldMask 1 0) →
    let k := s.core c
    let n := bitsOf w.toNat 1 0
    (∀ l, k.loops[n]? = some l → k.region = none → (∀ l' ∈ k.loops.drop (n + 1), l'.stop ≠ l.stop) →
      exec (.brk c) s = .next (s.setCore c { k with retiredSeq := satCount (k.retiredSeq + 1), pc := l.stop + 1,
                                                    loops := k.loops.drop (n + 1) })) ∧
    (k.loops.length ≤ n → Faults (.brk c) c s 0x107))

/-- R132: at the end of the innermost loop's body a further iteration goes back to its start with its index one higher. -/
def Sys2Proof.Claims.LoopBackEdge : Prop :=
  ∀ (k : Core) (l : LoopLevel) (ls : List LoopLevel), k.region = none → k.loops = l :: ls → l.stop = k.pc →
    (1 < l.remaining → (k.issued).pc = l.start ∧
      k.issued.loops = { l with remaining := l.remaining - 1, iter := l.iter + 1 } :: ls) ∧
    (l.remaining ≤ 1 → (∀ l' ∈ ls, l'.stop ≠ k.pc) → k.issued.pc = k.pc + 1 ∧ k.issued.loops = ls)

/-! ### The start -/

/-- R86, R94, R443: a PWR_GOOD fall and a low RESET_N stop everything at once: no context, no memory contents; fuses and flash
stay; THERMTRIP_N and CYCLE_REQ_N are released by power and stand through RESET_N. That RESET_N leaves the error history is the
model's reading. Completes:
pwrGoodFall, resetNLow. -/
def Sys2Proof.Claims.PowerAndResetStop : Prop :=
  (∀ (d : DieId) (s : State), After (.pwrGoodFall d) s fun t =>
    t.pkg.phase = .off ∧ t.pkg.pkgReady = false ∧ t.pkg.pwrGood = s.pkg.pwrGood.set d false ∧ t.pkg.thermTrip = false ∧
    t.pkg.cycleReq = false ∧ t.pkg.life = s.pkg.life ∧ t.pkg.keyHash = s.pkg.keyHash ∧ t.pkg.history = [] ∧
    t.flash = s.flash ∧ (∀ c, t.core c = .reset) ∧ (∀ b, t.basin b = .reset) ∧ (∀ a, t.byte a = unlistedByte a) ∧
    ∀ n < 6, (t.die n).fuses = (s.die n).fuses ∧ (t.die n).active = [] ∧ (t.die n).running = false) ∧
  (∀ s : State, After .resetNLow s fun t =>
    t.pkg.phase = .held ∧ t.pkg.resetN = false ∧ t.pkg.pkgReady = false ∧ t.pkg.thermTrip = s.pkg.thermTrip ∧
    t.pkg.cycleReq = s.pkg.cycleReq ∧ t.pkg.life = s.pkg.life ∧ t.pkg.history = s.pkg.history ∧ t.flash = s.flash ∧
    (∀ c, t.core c = .reset) ∧ (∀ b, t.basin b = .reset) ∧ (∀ a, t.byte a = unlistedByte a) ∧
    ∀ n < 6, (t.die n).fuses = (s.die n).fuses ∧ (t.die n).active = [])

/-- R87, R93, R100, R518: at time 0 the straps and references are sampled; with TEST_EN high only boundary scan answers, in
SCRAPPED nothing starts, with no reference the start waits with ALERT_N low, and otherwise a slot is chosen: with none valid
the package waits with ALERT_N low. Registers and memories are as at reset. Completes:
powerOnStart. -/
def Sys2Proof.Claims.PowerOnStart : Prop :=
  ∀ (e : StartEnv) (s : State), (s.pkg.phase = .off ∨ s.pkg.phase = .held) → s.pkg.thermTrip = false →
    After (.powerOnStart e) s fun t =>
      t.pkg.resetN = true ∧ t.pkg.testEn = e.testEn ∧ t.pkg.mgAddr = e.mgAddr ∧ t.pkg.pkgReady = false ∧
      (∀ c, t.core c = .reset) ∧ (∀ a, t.byte a = unlistedByte a) ∧
      (∀ d < 6, (t.die d).refQual0 = e.ref0 ∧ (t.die d).refQual1 = e.ref1) ∧
      (e.testEn = true → t.pkg.phase = .boundaryScan) ∧
      (e.testEn = false → s.pkg.life = .scrapped → t.pkg.phase = .scrapped) ∧
      (e.testEn = false → s.pkg.life ≠ .scrapped → e.ref0 = false → e.ref1 = false →
        t.pkg.phase = .noReference ∧ t.pkg.alertLow = true ∧ Out.noReference ∈ t.out) ∧
      (e.testEn = false → s.pkg.life ≠ .scrapped → (e.ref0 || e.ref1) = true →
        t.pkg.phase = .quire ∨ (t.pkg.phase = .noSlot ∧ t.pkg.alertLow = true))

/-- R87, R91: the rows of the start after the quire: each takes place in its turn, what failed is left out, and PKG_READY
comes last. R88: until then a PCIe configuration request gets a retry status. R93: a reference that comes back lets a waiting
start go on. Completes:
keeperFirmwareLoaded, stitchStartTrained, hbmTrainingComplete, clusterSelfTest, ddrTrainingComplete, pkgReady,
pcieConfigBeforeReady, referenceRetry.
The model's choices in it: log entries 33 and 99. -/
def Obligations.StartRows : Prop :=
  (∀ (f : BitVec 6) (s : State), s.pkg.phase = .quire → After (.keeperFirmwareLoaded f) s fun t =>
    t.pkg.phase = .firmware ∧ (∀ l < 9, (t.link l).st = .training) ∧
    ∀ d < 6, if bitOf f.toNat d then (t.die d).isolated = true ∧ (t.die d).inService = false
      else (t.die d).keeperUp = true) ∧
  (∀ (f : BitVec 6) (tb : W64) (s : State), s.pkg.phase = .firmware → After (.stitchStartTrained f tb) s fun t =>
    t.pkg.phase = .stitched ∧ ∀ d < 6, (t.die d).timebase = tb ∧ (t.die d).running = true ∧
      (bitOf f.toNat d = true → (t.die d).isolated = true ∧ (t.die d).inService = false)) ∧
  (∀ (f : BitVec 12) (s : State), s.pkg.phase = .stitched → After (.hbmTrainingComplete f) s fun t =>
    t.pkg.phase = .hbm ∧ ∀ k < 12, bitOf f.toNat k = true → (t.die (k / 3)).inService = false ∧ k ∈ t.hbmAbsent) ∧
  (∀ (f : List (BitVec 36)) (lanes : List Byte) (s : State), s.pkg.phase = .hbm →
    After (.clusterSelfTest f lanes) s fun t =>
      t.pkg.phase = .selfTested ∧ ∀ d < 4, (t.die d).fuses = (s.die d).fuses ||| (f.getD d 0).toNat) ∧
  (∀ (f : BitVec 16) (gib : List Nat) (s : State), s.pkg.phase = .selfTested →
    After (.ddrTrainingComplete f gib) s fun t =>
      t.pkg.phase = .ddr ∧ t.ddrFailed = f.toNat ∧ t.dimms.length = 16 ∧ ∀ i < 16, t.dimms.getD i 0 = gib.getD i 0) ∧
  (∀ (gib : List Nat) (s : State), s.pkg.phase = .ddr → (s.die s.pkg.head).isolated = false →
    After (.pkgReady gib) s fun t => t.pkg.phase = .ready ∧ t.pkg.pkgReady = true ∧ t.pkg.f = 256) ∧
  (∀ (g : SegId) (s : State), s.pkg.pkgReady = false → exec (.pcieConfigBeforeReady g) s = .next (s.emit (.rrs g))) ∧
  (∀ (r0 r1 : Bool) (s : State), s.pkg.phase = .noReference → (r0 || r1) = true → After (.referenceRetry r0 r1) s fun t =>
    (t.pkg.phase = .quire ∨ t.pkg.phase = .noSlot) ∧ t.pkg.alertBits[1]? ≠ some true ∧
    ∀ d < 6, (t.die d).refQual0 = r0 ∧ (t.die d).refQual1 = r1)

/-! ### Clocks and time -/

/-- R46, R47, R50: qualified inputs, holdover when the input in use is lost, relock to a qualified input, the return to the
primary, and the loss of a root PLL, which stops its die's clocks and sends isolation notices. Each changes its die alone. Completes:
referenceQualified, referenceDisqualified, pllRelock, revertToPrimary, rootPllLossOfLock. -/
def Sys2Proof.Claims.ReferencesAndPlls : Prop :=
  (∀ (d : DieId) (r : Fin 2) (s : State), After (.referenceQualified d r) s fun t =>
    t = s.setDie d (t.die d) ∧ (t.die d).refQual r = true ∧ (t.die d).refQual (1 - r.val) = (s.die d).refQual (1 - r.val) ∧
    (t.die d).holdover = (s.die d).holdover ∧ (t.die d).timebase = (s.die d).timebase) ∧
  (∀ (d : DieId) (r : Fin 2) (s : State), (s.die d).refQual r = true → After (.referenceDisqualified d r) s fun t =>
    (t.die d).refQual r = false ∧ (t.die d).refQual (1 - r.val) = (s.die d).refQual (1 - r.val) ∧
    ((s.die d).refInUse = r.val → (t.die d).holdover = true) ∧
    ((s.die d).refInUse ≠ r.val → (t.die d).holdover = (s.die d).holdover) ∧
    (∀ n, n ≠ d.val → t.die n = s.die n) ∧ RaisedAt t 0x0C01 d ∧
    ((s.die d).refQual (1 - r.val) = false → RaisedAt t 0x0C02 d)) ∧
  (∀ (d : DieId) (s : State), (s.die d).holdover = true → ((s.die d).refQual0 || (s.die d).refQual1) = true →
    (s.die d).refInUse < 2 → After (.pllRelock d) s fun t =>
      t = s.setDie d { s.die d with holdover := false, refInUse := (t.die d).refInUse } ∧
      (t.die d).refQual (t.die d).refInUse = true ∧
      ((s.die d).refQual (s.die d).refInUse = true → (t.die d).refInUse = (s.die d).refInUse)) ∧
  (∀ (d : DieId) (s : State), clkRevertive (s.die d).active = true → (s.die d).holdover = false →
    (s.die d).refQual (clkPrimary (s.die d).active) = true →
    (s.die d).refInUse ≠ clkPrimary (s.die d).active →
    exec (.revertToPrimary d) s = .next (s.setDie d { s.die d with refInUse := clkPrimary (s.die d).active })) ∧
  (∀ (d : DieId) (s : State), (s.die d).holdover = false → (s.die d).pllLock = true →
    After (.rootPllLossOfLock d) s fun t =>
      t.die d = { s.die d with pllLock := false, running := false, stopped := true } ∧ (∀ n, n ≠ d.val → t.die n = s.die n) ∧
      (∀ n ∈ neighbours d, Out.isolation n 1 ∈ t.out) ∧ RaisedAt t 0x0C03 d)

/-- R51, R52, R409: a hart's write of CLK_VFREQ moves its complex, unless a change is under way, towards the clamped request or
the governor's ceiling, whichever is slower; the voltage of the faster of two steps is there from the beginning of a change to
its end; a change completes before the next begins. From VS-mode the write takes exception 22, from U- and VU-mode exception 2.
ERR_HWADDR's VALID is cleared by writing 1. Completes:
vfreqWrite, stepChangeComplete, errHwaddrWrite. -/
def Sys2Proof.Claims.ComplexSteps : Prop :=
  (∀ (h : HartId) (p : Priv) (v : W64) (s : State), (s.complex (h.val / 36)).running = true → (p = .m ∨ p = .s) →
    After (.vfreqWrite h p v) s fun t =>
      let x := h.val / 36
      let goal := max (clampStep (s.sheetsOn (complexDie x)) x (v.toNat % 8)) (s.complex x).ceiling
      (t.complex x).request = v.toNat % 8 ∧ (t.complex x).step = (s.complex x).step ∧
      ((s.complex x).changing = none → goal ≠ (s.complex x).step →
        (t.complex x).changing = some goal ∧ (t.complex x).volt = min (s.complex x).volt goal) ∧
      (∀ n, (s.complex x).changing = some n → (t.complex x).changing = some n ∧ (t.complex x).queued = some goal) ∧
      (∀ y, y ≠ x → t.complex y = s.complex y) ∧ SameMemory s t) ∧
  (∀ (h : HartId) (p : Priv) (v : W64) (s : State), (s.complex (h.val / 36)).running = true → p ≠ .m → p ≠ .s →
    (After (.vfreqWrite h p v) s fun t => (t.hart h).cause = some (if p = .vs then 22 else 2) ∧ t.complexes = s.complexes ∧
      (t.hart h).hwValid = (s.hart h).hwValid) ∧
    (After (.errHwaddrWrite h p v) s fun t => (t.hart h).cause = some (if p = .vs then 22 else 2) ∧
      (t.hart h).hwValid = (s.hart h).hwValid)) ∧
  (∀ (h : HartId) (p : Priv) (v : W64) (s : State), (s.complex (h.val / 36)).running = true → (p = .m ∨ p = .s) →
    After (.errHwaddrWrite h p v) s fun t =>
      (t.hart h).hwValid = ((s.hart h).hwValid && !bitOf v.toNat 63) ∧ (t.hart h).hwAddr = (s.hart h).hwAddr ∧
      (∀ j, (t.hart j).hwAddr = (s.hart j).hwAddr ∧ (j ≠ h.val → (t.hart j).hwValid = (s.hart j).hwValid)) ∧
      t.complexes = s.complexes ∧ SameMemory s t) ∧
  (∀ (x : ComplexId) (s : State) (n : Nat), (s.complex x).changing = some n → After (.stepChangeComplete x) s fun t =>
    t = s.setComplex x (t.complex x) ∧ (t.complex x).step = n ∧ (t.complex x).queued = none ∧
    ((s.complex x).queued = none → (t.complex x).changing = none ∧ (t.complex x).volt = n) ∧
    ∀ q, (s.complex x).queued = some q → (t.complex x).changing = (if q = n then none else some q) ∧ (t.complex x).volt = min n q)

/-- R55, R369: the keeper's exchange of time with its chosen native port: the request carries the timebase, the answer slews it
by half the difference of the two ways, rounded towards zero, and the stratum is one more than the peer's; a peer at stratum 15
leaves the die unsynchronised, and so does a package without a native port. The dies of the package with no native port of their
own follow the same source (R53). Completes:
timeRequestTimer, timeRequest, timeResponse. -/
def Sys2Proof.Claims.TimeExchange : Prop :=
  (∀ (d : CDieId) (s : State), s.keeperLive d = true → (s.die d).running = true →
    (s.timePort d = none → After (.timeRequestTimer d) s fun t => t = s.setDie d (t.die d) ∧ (t.die d).timePort = none ∧
      (t.die d).timebase = (s.die d).timebase ∧
      ((∀ e < 4, s.timePort e = none) → (t.die d).synced = false ∧ (t.die d).stratum = 15)) ∧
    ∀ p, s.timePort d = some p → exec (.timeRequestTimer d) s =
      .next ((s.setDie d { s.die d with timePort := some p, timeSent := (s.die d).timebase }).emit
        (.frame p (frameStream (controlFrame 4 0 0 0 (timePayload (s.die d).timebase 0 0)))))) ∧
  (∀ (p : PortId) (raw : Bytes) (f : TowFrame) (s : State), s.portNative p = true → (s.port p).st.carries = true →
    parseFrame raw = some f → f.kind = 4 → exec (.timeRequest p raw) s = .next (s.emit (.frame p (frameStream
      (controlFrame 5 0 0 0 (timePayload (s.time (p.val / 14)) (s.time (p.val / 14))
        (if clkSource (s.sheetsOn (p.val / 14)) then 0 else (s.die (p.val / 14)).stratum))))))) ∧
  (∀ (p : PortId) (head crc payload : Bytes) (f : TowFrame) (s : State), s.portNative p = true → (s.port p).st.carries = true →
    parseFrame (head ++ crc ++ payload) = some f → f.kind = 5 → (s.die (p.val / 14)).timePort = some p.val →
    clkSource (s.sheetsOn (p.val / 14)) = false → (s.die (p.val / 14)).holdover = false →
    After (.timeResponse p head crc payload) s fun t =>
      let d := p.val / 14
      let k := s.die d
      let n := field f.payload 16 1
      let offset := Int.tdiv ((w64At f.payload 0 - k.timeSent).toInt - (k.timebase - w64At f.payload 8).toInt) 2
      (t.port p).peerStratum = n ∧ (∀ e, (t.die e).timebase = (s.die e).timebase) ∧
      (n < 15 → t.die d = { k with stratum := n + 1, synced := true, slew := (BitVec.ofInt 64 offset).toInt } ∧
        ∀ e < 6, e ≠ d → s.timePort e = none → (s.die e).running = true → (s.die e).holdover = false →
          t.die e = { s.die e with
            stratum := n + 1, synced := true
            slew := (k.timebase + BitVec.ofInt 64 offset - (s.die e).timebase).toInt }) ∧
      (15 ≤ n → t.die d = { k with stratum := 15, synced := false, slew := 0 }) ∧
      ∀ e, e ≠ d → ((s.timePort e).isSome = true ∨ (s.die e).running = false ∨ (s.die e).holdover = true) → t.die e = s.die e)

/-- R93, R99, R102: the first START condition after power-up decides whether the management lines are swapped, and later ones
change nothing; shorted lines are a condition of ALERT_N until they are cleared. A JTAG instruction is taken in BLANK, PROVISIONED
and RETURNED; in DEPLOYED and SCRAPPED only the mandatory ones are, while RESET_N is low, and any other is BYPASS. Completes:
mgmtStartCondition, mgmtLinesShorted, mgmtLinesCleared, jtagInstruction. -/
def Sys2Proof.Claims.ManagementAndTestPins : Prop :=
  (∀ (w : Bool) (s : State),
    (s.pkg.mgStartSeen = false →
      exec (.mgmtStartCondition w) s = .next (s.setPkg { s.pkg with mgStartSeen := true, mgSwapped := w })) ∧
    (s.pkg.mgStartSeen = true → exec (.mgmtStartCondition w) s = .next s)) ∧
  (∀ s : State, s.pkg.alertBits.length = 6 →
    (After .mgmtLinesShorted s fun t => t.pkg.alertLow = true ∧ s.pkg.alertBits.set 2 true = t.pkg.alertBits ∧ t = s.setPkg t.pkg) ∧
    (After .mgmtLinesCleared s fun t => t.pkg.alertBits = s.pkg.alertBits.set 2 false ∧ t = s.setPkg t.pkg)) ∧
  (∀ (ir : JtagIr) (s : State), After (.jtagInstruction ir) s fun t => t = s.setPkg { s.pkg with jtagIr := t.pkg.jtagIr } ∧
    (s.pkg.life ≠ .deployed → s.pkg.life ≠ .scrapped → t.pkg.jtagIr = ir) ∧
    ((s.pkg.life = .deployed ∨ s.pkg.life = .scrapped) →
      t.pkg.jtagIr = if s.pkg.resetN = false ∧ ir ≠ .boundaryOptional ∧ ir ≠ .debug then ir else .bypass))

/-! ### The mailbox -/

namespace Sys2Proof.Claims

/-- The mailbox of basin b is free and its doorbell brings a request with this code, a clean header and these arguments. -/
structure Rings (s : State) (b code : Nat) (args : Bytes) : Prop where
  free : (s.basin b).mboxCmd = none
  code : s.requestCode b = code
  header : zeroAt (s.request b 8 8) 0 8 = true
  short : s.requestLength b ≤ 4144
  args : s.requestArgs b = args

/-- The reply buffer holds a reply to the request of s: command, sequence number, status, refusal code, result; the command is
over, DONE is set and vector 0 has been raised (R413). -/
def Replies (s t : State) (b status refusal : Nat) (result : Bytes) : Prop :=
  (t.basin b).mboxRsp = bytesTable (leBytes 2 (s.requestCode b) ++ leBytes 2 (leValue (s.request b 2 2)) ++
    leBytes 1 status ++ leBytes 1 refusal ++ [0, 0] ++ leBytes 4 result.length ++ [0, 0, 0, 0] ++ result) ∧
  (t.basin b).mboxCmd = none ∧ (t.basin b).mboxDone = true ∧ interrupt s b 0 ∈ t.out

/-- The commands of the table of R414 without arguments, with their codes, and whether they are the administrators'. -/
def bareCommands (b : BasinId) : List (Instr × Nat × Bool) :=
  [(.topologyQuery b, 1, false), (.translationFlush b, 4, false), (.stageBegin b, 0x10, true), (.stageEnd b, 0x12, true),
   (.validate b, 0x13, true), (.turnAtReset b, 0x15, true), (.quireQuery b, 0x16, true)]

/-- Every command of R414 with its code. -/
def allCommands (b : BasinId) : List (Instr × Nat) :=
  [(.topologyQuery b, 1), (.setStep b, 2), (.translationRoot b, 3), (.translationFlush b, 4), (.semaphoreSignal b, 5),
   (.abort b, 6), (.ringSetup b, 7), (.flowRing b, 8), (.stageBegin b, 0x10), (.stageData b, 0x11), (.stageEnd b, 0x12),
   (.validate b, 0x13), (.turn b, 0x14), (.turnAtReset b, 0x15), (.quireQuery b, 0x16), (.lifeCycle b, 0x17),
   (.portQuiesce b, 0x18)]

/-- A reply changes the basin and sends vector 0; no core, no other basin, no register of a die, no memory. -/
def OnlyReply (s t : State) (b : Nat) : Prop :=
  t.cores = s.cores ∧ t.clusters = s.clusters ∧ t.dies = s.dies ∧ t.mem = s.mem ∧ t.flash = s.flash ∧ t.pkg = s.pkg ∧
  OtherBasins b s t ∧ (t.basin b).st = (s.basin b).st ∧ (t.basin b).epoch = (s.basin b).epoch ∧
  (t.basin b).rings = (s.basin b).rings ∧ (t.basin b).err = (s.basin b).err

end Sys2Proof.Claims

/-- R413, R414, R425: a malformed request gets status 3, an administrators' command from a basin outside the mask refusal 0x02,
and a basin that is not OPEN refusal 0x03, except the topology query of an UNAVAILABLE basin. Nothing else changes. Completes:
unknownCommand. -/
def Sys2Proof.Claims.MailboxChecks : Prop :=
  ∀ (b : BasinId) (s : State), (s.basin b).mboxCmd = none → (s.basin b).st ≠ .resetting →
    (∀ ic ∈ allCommands b, s.requestCode b = ic.2 →
      (zeroAt (s.request b 8 8) 0 8 = false ∨ 4144 < s.requestLength b) →
      After ic.1 s fun t => Replies s t b 3 0 [] ∧ OnlyReply s t b) ∧
    (∀ ica ∈ bareCommands b, Rings s b ica.2.1 [] →
      (ica.2.2 = true → s.adminBasin b = false → After ica.1 s fun t => Replies s t b 1 0x02 [] ∧ OnlyReply s t b) ∧
      ((ica.2.2 = true → s.adminBasin b = true) → (s.basin b).st ≠ .open →
        ¬ ((s.basin b).st = .unavailable ∧ ica.2.1 = 1) →
        After ica.1 s fun t => Replies s t b 1 0x03 [] ∧ OnlyReply s t b)) ∧
    (knownCommand (s.requestCode b) = false → After (.unknownCommand b) s fun t => Replies s t b 2 0 [] ∧ OnlyReply s t b)

/-- R413: a doorbell while a command is in progress is ignored, and flagged with vector 1 the first time. Completes:
mboxOverrun. -/
def Sys2Proof.Claims.MailboxOverrun : Prop :=
  ∀ (b : BasinId) (s : State) (c : MboxCmd), (s.basin b).mboxCmd = some c → After (.mboxOverrun b) s fun t =>
    t.basin b = { s.basin b with mboxOverrun := true } ∧ OtherBasins b s t ∧ t.cores = s.cores ∧ SameMemory s t ∧
    ((s.basin b).mboxOverrun = false → t.out = s.out ++ [interrupt s b 1]) ∧ ((s.basin b).mboxOverrun = true → t.out = s.out)

/-- R415, R416, R260, R262, R292, R146: the host's commands. Completes:
topologyQuery, setStep, translationRoot, translationFlush, semaphoreSignal, abort. -/
def Sys2Proof.Claims.HostCommands : Prop :=
  ∀ (b : BasinId) (s : State) (a : Bytes),
    (Rings s b 1 [] → ((s.basin b).st = .open ∨ (s.basin b).st = .unavailable) →
      After (.topologyQuery b) s fun t => Replies s t b 0 0 (s.description b) ∧ OnlyReply s t b) ∧
    ((s.basin b).st = .open →
      (Rings s b 2 a → a.length = 16 → After (.setStep b) s fun t => Replies s t b 0 0 [] ∧ OnlyReply s t b ∧
        (t.basin b).step = BitVec.ofNat 64 (field a 0 8) ∧ (t.basin b).seed = BitVec.ofNat 64 (field a 8 8)) ∧
      (Rings s b 3 a → a.length = 8 →
        (field a 0 8 % 0x100000 = 0 → inBasinRanges s.sheets b (field a 0 8) = true →
          After (.translationRoot b) s fun t => Replies s t b 0 0 [] ∧ OnlyReply s t b ∧
            (t.basin b).root = some (BitVec.ofNat 64 (field a 0 8))) ∧
        ((field a 0 8 % 0x100000 ≠ 0 ∨ inBasinRanges s.sheets b (field a 0 8) = false) →
          After (.translationRoot b) s fun t => Replies s t b 1 0x01 [] ∧ OnlyReply s t b ∧
            (t.basin b).root = (s.basin b).root)) ∧
      (Rings s b 4 [] → s.bargesInFlight b = false →
        After (.translationFlush b) s fun t => Replies s t b 0 0 [] ∧ OnlyReply s t b ∧
          (∀ x ∈ t.tlb, x.basin ≠ b.val) ∧ ∀ x ∈ s.tlb, x.basin ≠ b.val → x ∈ t.tlb) ∧
      (Rings s b 4 [] → s.bargesInFlight b = true → After (.translationFlush b) s fun t =>
        (∀ x ∈ t.tlb, x.basin ≠ b.val) ∧ t.basins = s.basins ∧ t.cores = s.cores ∧ t.out = s.out ∧ SameMemory s t) ∧
      (Rings s b 5 a → a.length = 6 → field a 3 1 = 0 →
        let c := field a 0 2
        let i := field a 2 1
        let n := field a 4 2
        c < 1024 → bsnHasCluster s.sheets b (c / 8) = true → n ≠ 0 → s.clusterPresent (c / 8) = true →
        (s.core c).live = true → i < (s.core c).semCount → (s.sem c i).toNat + n ≤ 65535 →
        After (.semaphoreSignal b) s fun t => Replies s t b 0 0 [] ∧
          t.sem c i = BitVec.ofNat 16 ((s.sem c i).toNat + n) ∧ t.cores = s.cores ∧ SameMemory s t ∧ OtherBasins b s t) ∧
      (Rings s b 6 a → a.length = 2 → field a 0 2 < 1024 → bsnHasCluster s.sheets b (field a 0 2 / 8) = true →
        (s.core (field a 0 2)).live = true →
        After (.abort b) s fun t => Replies s t b 0 0 [] ∧ (t.core (field a 0 2)).ctx = .faulted ∧
          (t.core (field a 0 2)).fault = some 0x0110 ∧ OtherCores (field a 0 2) s t ∧ SameMemory s t))

/-- R417, R366: setting up a work ring, and the receive ring of a flow. Completes:
ringSetup, flowRing. -/
def Sys2Proof.Claims.RingCommands : Prop :=
  ∀ (b : BasinId) (s : State) (a : Bytes), (s.basin b).st = .open → a.length = 24 →
    (Rings s b 7 a → field a 1 3 = 0 →
      (field a 0 1 ≤ 15 → ringCountOk (field a 4 4) = true → field a 8 8 % 4096 = 0 → field a 16 8 % 4096 = 0 →
        ((s.ring b (field a 0 1)).taken = [] → After (.ringSetup b) s fun t => Replies s t b 0 0 [] ∧
          t.ring b (field a 0 1) = { Ring.reset with count := field a 4 4, work := BitVec.ofNat 64 (field a 8 8),
                                                     completion := BitVec.ofNat 64 (field a 16 8) } ∧
          (∀ r, r ≠ field a 0 1 → t.ring b r = s.ring b r) ∧ OtherBasins b s t ∧ SameMemory s t) ∧
        ((s.ring b (field a 0 1)).taken ≠ [] → After (.ringSetup b) s fun t => Replies s t b 1 0x03 [] ∧ OnlyReply s t b)) ∧
      ((15 < field a 0 1 ∨ ringCountOk (field a 4 4) = false ∨ field a 8 8 % 4096 ≠ 0 ∨ field a 16 8 % 4096 ≠ 0) →
        After (.ringSetup b) s fun t => Replies s t b 1 0x01 [] ∧ OnlyReply s t b)) ∧
    (Rings s b 8 a → field a 2 2 = 0 → flowEnabled s.sheets (field a 0 2) = true → flowBasin s.sheets (field a 0 2) = b.val →
      field a 4 4 % 4096 = 0 → field a 8 8 % 64 = 0 → field a 16 8 % 64 = 0 →
      After (.flowRing b) s fun t => Replies s t b 0 0 [] ∧ OnlyReply s t b ∧
        t.recvRing b (field a 0 2) = (if field a 4 4 = 0 then ⟨0, 0, 0, 0⟩
          else ⟨field a 4 4, BitVec.ofNat 64 (field a 8 8), BitVec.ofNat 64 (field a 16 8), 0⟩) ∧
        ∀ f, f ≠ field a 0 2 → t.recvRing b f = s.recvRing b f)

/-- R414, R452: the reset commands raise code 0x1007 for the context, the cluster or the basin; the reply waits. Completes:
resetContext, resetEngine, resetBasin.
The model's choices in it: log entry 85. -/
def Obligations.ResetCommands : Prop :=
  ∀ (b : BasinId) (s : State) (a : Bytes), (s.basin b).st = .open → Rings s b 9 a → a.length = 4 → field a 1 1 = 0 →
    s.resetScope b = field a 0 1 →
    (field a 0 1 = 0 → field a 2 2 < 1024 → bsnHasCluster s.sheets b (field a 2 2 / 8) = true →
      (s.core (field a 2 2)).live = true → After (.resetContext b) s fun t =>
        (t.core (field a 2 2)).ctx = .faulted ∧ (t.core (field a 2 2)).fault = some 0x1007 ∧
        t.deferred b 9 (field a 2 2) = true ∧ OtherCores (field a 2 2) s t ∧ OtherBasins b s t ∧ SameMemory s t) ∧
    (field a 0 1 = 1 → field a 2 2 < 128 → bsnHasCluster s.sheets b (field a 2 2) = true → After (.resetEngine b) s fun t =>
        (∃ e ∈ t.pkg.raised, e.1.code = 0x1007 ∧ e.1.basin.toNat = b.val ∧ e.1.unit.toNat = field a 2 2) ∧
        t.deferred b 9 (0x10000 + field a 2 2) = true ∧ t.cores = s.cores ∧ OtherBasins b s t ∧ SameMemory s t) ∧
    (field a 0 1 = 2 → After (.resetBasin b) s fun t =>
        (∃ e ∈ t.pkg.raised, e.1.code = 0x1007 ∧ e.1.basin.toNat = b.val) ∧ t.deferred b 9 0x20000 = true ∧
        t.cores = s.cores ∧ OtherBasins b s t ∧ SameMemory s t)

/-! ### The quire and turns -/

namespace Sys2Proof.Claims

/-- What an administrator is told of the command it waits on: a PLDM status on the management bus, or a basin's reply, DONE and
vector 0. -/
def Answered (s t : State) (ch : Channel) (cmd code sheet die : Nat) : Prop :=
  match ch with
  | .mgmt => Out.mctpStatus code sheet die ∈ t.out
  | .basin b => ∀ c, (s.basin b).mboxCmd = some c → c.code.toNat = cmd →
      (t.basin b).mboxCmd = none ∧ (t.basin b).mboxDone = true ∧ interrupt s b 0 ∈ t.out ∧
      (t.basin b).mboxRsp = bytesTable (if code = 0 then replyBytes c 0 0 []
        else replyBytes c 1 code (if sheet = 0 then [] else leBytes 2 sheet ++ leBytes 2 die))

/-- The keepers that a turn's exchange reaches: told of the COMMIT, running, and not isolated. -/
def Swaps (s : State) (x : Turn) (d : Nat) : Prop := d ∈ x.told ∧ s.keeperLive d = true

/-- A keeper's two copies are exchanged in the changed sheets but for the firmware bodies; the other sheets stand. -/
def Exchanged (k k' : Die) (changed : List Nat) : Prop :=
  ∀ ty, if ty ∈ changed ∧ ty ≠ 12 ∧ ty ≠ 13
    then Sheets.body k'.active ty = Sheets.body k.shadow ty ∧ Sheets.body k'.shadow ty = Sheets.body k.active ty
    else Sheets.body k'.active ty = Sheets.body k.active ty ∧ Sheets.body k'.shadow ty = Sheets.body k.shadow ty

/-- A turn that changes neither topology nor basins, in a package without an UNAVAILABLE basin: nothing is reset and no
basin opens. -/
def PlainTurn (s : State) (x : Turn) : Prop :=
  x.changed.contains 4 = false ∧ x.changed.contains 5 = false ∧ ∀ b, (s.basin b).st ≠ .unavailable

end Sys2Proof.Claims

/-- R72, R74: staging clears Pending, erases the inactive slot and no other slot, programs it, and ends; each command outside its
shadow state is refused with 0x01; stage begin is refused with 0x07 while a turn is under way or another administrator stages,
and with 0x08 after return or scrapping. Completes: stageBegin, stageData, stageEnd. -/
def Sys2Proof.Claims.QuireStaging : Prop :=
  ∀ (b : BasinId) (s : State) (a : Bytes), (s.basin b).st = .open → s.adminBasin b = true → s.pkg.activeSlot < 2 →
    let lo := (1 - s.pkg.activeSlot) * 0x4000000
    (Rings s b 0x10 [] →
      (s.pkg.life ≠ .returned → s.pkg.life ≠ .scrapped → s.committing = false → s.pkg.shadow ≠ .turning →
        (s.pkg.shadow = .staging → s.pkg.stager = some (.basin b)) →
        After (.stageBegin b) s fun t => Replies s t b 0 0 [] ∧ t.pkg.shadow = .staging ∧ t.pkg.pendingSlot = false ∧
          t.pkg.stager = some (.basin b) ∧ t.cores = s.cores ∧ SameMemory s t ∧
          (∀ x, lo ≤ x → x < lo + 0x4000000 → t.flashByte x = 0xFF) ∧
          (∀ x, x < 0x08800000 → (x < lo ∨ lo + 0x4000000 ≤ x) → t.flashByte x = s.flashByte x) ∧
          (s.pkg.pendingSlot = false → ∀ x, 0x08800000 ≤ x → t.flashByte x = s.flashByte x) ∧
          (s.pkg.pendingSlot = true →
            t.selector (1 - s.pkg.selectorCopy) = some ((s.pkg.selectorSeq + 1) % 2 ^ 32, s.pkg.activeSlot, false))) ∧
      ((s.pkg.life = .returned ∨ s.pkg.life = .scrapped) →
        After (.stageBegin b) s fun t => Replies s t b 1 0x08 [] ∧ OnlyReply s t b) ∧
      (s.pkg.life ≠ .returned → s.pkg.life ≠ .scrapped →
        (s.committing = true ∨ s.pkg.shadow = .turning ∨
          s.pkg.shadow = .staging ∧ s.pkg.stager ≠ some (.basin b)) →
        After (.stageBegin b) s fun t => Replies s t b 1 0x07 [] ∧ OnlyReply s t b)) ∧
    (Rings s b 0x11 a → 1 ≤ field a 4 4 → field a 4 4 ≤ 4096 → a.length = 8 + field a 4 4 →
      field a 0 4 + field a 4 4 ≤ 0x4000000 →
      (s.pkg.shadow = .staging → After (.stageData b) s fun t => Replies s t b 0 0 [] ∧ t.pkg = s.pkg ∧ t.mem = s.mem ∧
        t.flashRead (lo + field a 0 4) (field a 4 4) = a.drop 8 ∧
        ∀ x, (x < lo + field a 0 4 ∨ lo + field a 0 4 + field a 4 4 ≤ x) → t.flashByte x = s.flashByte x) ∧
      (s.pkg.shadow ≠ .staging → After (.stageData b) s fun t => Replies s t b 1 0x01 [] ∧ OnlyReply s t b)) ∧
    (Rings s b 0x12 [] →
      (s.pkg.shadow = .staging → After (.stageEnd b) s fun t => Replies s t b 0 0 [] ∧
        t.pkg = { s.pkg with shadow := .staged, stager := none } ∧ t.flash = s.flash ∧ t.mem = s.mem) ∧
      (s.pkg.shadow ≠ .staging → After (.stageEnd b) s fun t => Replies s t b 1 0x01 [] ∧ OnlyReply s t b))

/-- R70, R72, R74: validation leaves the shadow set VALID, with a copy in every keeper, or INVALID with its code; a turn at reset
marks the inactive slot pending; the query returns both sequences, the shadow state and the last code. Completes: validate,
turnAtReset, quireQuery. -/
def Sys2Proof.Claims.QuireValidation : Prop :=
  ∀ (b : BasinId) (s : State), (s.basin b).st = .open → s.adminBasin b = true →
    (Rings s b 0x13 [] →
      (s.pkg.shadow = .staged →
        let v := s.checkSlot (s.validateIn false) (1 - s.pkg.activeSlot)
        After (.validate b) s fun t => t.pkg.lastCode = v.code ∧ t.flash = s.flash ∧ t.mem = s.mem ∧ t.cores = s.cores ∧
          if v.code = 0 then Replies s t b 0 0 [] ∧ t.pkg.shadow = .valid ∧
            ∀ d < 6, (t.die d).shadow = keeperSheets v.sheets ∧ (t.die d).shadowSeq = BitVec.ofNat 64 v.seq ∧
              (t.die d).active = (s.die d).active
          else Replies s t b 1 v.code (if v.sheet = 0 then [] else leBytes 2 v.sheet ++ [0xFF, 0xFF]) ∧
            t.pkg.shadow = .invalid ∧ t.dies = s.dies) ∧
      (s.pkg.shadow ≠ .staged → After (.validate b) s fun t => Replies s t b 1 0x01 [] ∧ OnlyReply s t b)) ∧
    (Rings s b 0x15 [] →
      (s.pkg.shadow = .valid → After (.turnAtReset b) s fun t => Replies s t b 0 0 [] ∧ t.pkg.pendingSlot = true ∧
        t.pkg.activeSlot = s.pkg.activeSlot ∧ t.dies = s.dies ∧ t.mem = s.mem ∧
        (s.pkg.activeSlot < 2 →
          t.selector (1 - s.pkg.selectorCopy) = some ((s.pkg.selectorSeq + 1) % 2 ^ 32, s.pkg.activeSlot, true))) ∧
      (s.pkg.shadow ≠ .valid → After (.turnAtReset b) s fun t => Replies s t b 1 0x01 [] ∧ OnlyReply s t b)) ∧
    (Rings s b 0x16 [] → After (.quireQuery b) s fun t => OnlyReply s t b ∧
      Replies s t b 0 0 (s.slotRead 0 0x10 8 ++ s.slotRead 1 0x10 8 ++ leBytes 1 s.pkg.shadow.code ++ leBytes 1 s.pkg.lastCode))

/-- R76, R77: a turn is refused at once with 0x08, 0x07, 0x01 or 0x04, in the order of the model's check, and otherwise PREPARE
names the boundary 200 lock cycles on; its wait limit is at most the trust sheet's. Completes: turn.
The model's choices in it: log entries 51 and 107. -/
def Obligations.TurnRequest : Prop :=
  ∀ (b : BasinId) (s : State) (a : Bytes), (s.basin b).st = .open → s.adminBasin b = true → Rings s b 0x14 a → a.length = 2 →
    let wiped := s.pkg.life = .returned ∨ s.pkg.life = .scrapped
    let busy := s.pkg.turn ≠ none ∨ s.pkg.shadow = .staging ∨ s.pkg.shadow = .turning
    let fixed := s.changedSheets.contains 8 = true ∨ s.changedSheets.contains 12 = true
    let refused := fun code => After (.turn b) s fun t => Replies s t b 1 code [] ∧ t.pkg.turn = s.pkg.turn ∧
      t.pkg.shadow = s.pkg.shadow ∧ t.pkg.lastCode = code ∧ t.dies = s.dies ∧ SameMemory s t
    (wiped → refused 8) ∧ (¬ wiped → busy → refused 7) ∧ (¬ wiped → ¬ busy → s.pkg.shadow ≠ .valid → refused 1) ∧
    (¬ wiped → ¬ busy → s.pkg.shadow = .valid → fixed → refused 4) ∧
    (¬ wiped → ¬ busy → s.pkg.shadow = .valid → ¬ fixed → After (.turn b) s fun t =>
      t.pkg.shadow = .turning ∧ t.dies = s.dies ∧ SameMemory s t ∧ (t.basin b).mboxCmd.isSome = true ∧
      ∃ x, t.pkg.turn = some x ∧ x.boundary = s.lockCycle + 200 ∧ x.requested = s.lockCycle ∧ x.caller = .basin b ∧
        x.decision = none ∧ x.changed = s.changedSheets ∧ x.waitMs = min (field a 0 2) (trustMaxWait s.sheets))

/-- R77: each keeper votes by its shadow sequence, its gates and the recoveries that run, and holds its gates on YES; the first
NO aborts and is reported, the sixth YES commits, and a vote missing 100 lock cycles after the attempt's start aborts with
0x05. Completes: turnPrepare, turnVote, turnVoteDeadline. -/
def Sys2Proof.Claims.TurnVoting : Prop :=
  ∀ (s : State) (x : Turn), s.pkg.turn = some x → x.decision = none →
    (∀ d : DieId, s.keeperLive d = true → nget (fun _ => none) x.votes d = none → After (.turnPrepare d) s fun t =>
      ∃ y v, t = s.setPkg { s.pkg with turn := some y } ∧ nget (fun _ => none) y.votes d = some v ∧ y.decision = none ∧
        (v.yes = true → y.holds = x.holds ++ [d.val]) ∧ (v.yes = false → y.holds = x.holds) ∧
        ((s.die d).shadowSeq ≠ x.seq → v = ⟨false, 1, 0⟩) ∧
        ((s.die d).shadowSeq = x.seq →
          ((∀ ty ∈ x.changed, s.atGate d ty = true) →
            (s.recoveryUses x.changed = false → v = ⟨true, 0, 0⟩) ∧ (s.recoveryUses x.changed = true → v = ⟨false, 6, 0⟩)) ∧
          (∀ ty ∈ x.changed, s.atGate d ty = false → v.yes = false ∧ v.code = 3 ∧ v.sheet ∈ x.changed ∧
            s.atGate d v.sheet = false))) ∧
    (∀ (d : DieId) (v : Vote), nget (fun _ => none) x.votes d = some v → nget (fun _ => none) x.received d = none →
      (v.yes = false → (v.code ≠ 3 ∨ x.waitMs = 0) → After (.turnVote d) s fun t =>
        t.pkg.shadow = .valid ∧ t.pkg.lastCode = v.code ∧ Answered s t x.caller 0x14 v.code v.sheet d ∧ t.dies = s.dies ∧
        SameMemory s t) ∧
      (v.yes = false → v.code = 3 → x.waitMs ≠ 0 → After (.turnVote d) s fun t => t.out = s.out ∧ t.pkg.shadow = .valid ∧
        ∃ y, t.pkg.turn = some y ∧ y.decision = some false ∧ y.standby = some false ∧ y.waitMs = x.waitMs) ∧
      (v.yes = true → (ninsert x.received d (some v)).length = 6 → After (.turnVote d) s fun t => t.pkg.shadow = .empty ∧
        t.dies = s.dies ∧ ∃ y, t.pkg.turn = some y ∧ y.decision = some true ∧ y.standby = some true ∧ y.told = [s.pkg.head]) ∧
      (v.yes = true → (ninsert x.received d (some v)).length ≠ 6 → After (.turnVote d) s fun t =>
        ∃ y, t = s.setPkg { s.pkg with turn := some y } ∧ y.decision = none ∧
          nget (fun _ => none) y.received d = some v)) ∧
    (x.started + 100 ≤ s.lockCycle → After .turnVoteDeadline s fun t =>
      t.pkg.shadow = .valid ∧ t.pkg.lastCode = 5 ∧ t.dies = s.dies ∧ SameMemory s t ∧ ∃ d < 6, Answered s t x.caller 0x14 5 0 d)

/-- R77, R78, R79: at boundary T every live keeper that knows the COMMIT exchanges the changed sheets and releases its holds,
and one that learns it later does so at once; each acknowledges; the selector record names the new slot and the turn reports
0x00. On ABORT a keeper releases its holds; with 0x03 and a wait limit the turn starts again every 1,000 lock cycles until the
limit. A keeper left without a decision for 1 ms is a keeper fault. Completes: turnDecision, turnSwap, turnAck,
selectorWriteComplete, turnRetry, turnDecisionQueryTimeout. -/
def Sys2Proof.Claims.TurnCompletion : Prop :=
  ∀ (s : State) (x : Turn), s.pkg.turn = some x →
    (∀ d : DieId, s.keeperLive d = true → x.decision = some true → x.told.contains d.val = false →
      (x.swapped = false →
        exec (.turnDecision d) s = .next (s.setPkg { s.pkg with turn := some { x with told := x.told ++ [d.val] } })) ∧
      (x.swapped = true → PlainTurn s x → After (.turnDecision d) s fun t => Exchanged (s.die d) (t.die d) x.changed ∧
        (∀ e, e ≠ d.val → t.die e = s.die e) ∧
        ∃ y, t.pkg.turn = some y ∧ y.told = x.told ++ [d.val] ∧ d.val ∉ y.holds)) ∧
    (∀ d : DieId, s.keeperLive d = true → x.decision = some false → d.val ∈ x.holds → After (.turnDecision d) s fun t =>
      t = s.setPkg { s.pkg with turn := t.pkg.turn } ∧ ∀ y, t.pkg.turn = some y → d.val ∉ y.holds) ∧
    (x.decision = some true → x.swapped = false → x.boundary ≤ s.lockCycle → x.told.Nodup → PlainTurn s x →
      After .turnSwap s fun t => t.pkg.activeSlot = 1 - s.pkg.activeSlot ∧ t.pkg.quireSeq = x.seq ∧
        (∀ d, Swaps s x d → Exchanged (s.die d) (t.die d) x.changed) ∧ (∀ d, ¬ Swaps s x d → t.die d = s.die d) ∧
        (∃ y, t.pkg.turn = some y ∧ y.swapped = true ∧ ∀ d ∈ x.told, d ∉ y.holds) ∧
        (x.changed = [16] → t.cores = s.cores ∧ SameMemory s t)) ∧
    (∀ d : DieId, x.swapped = true → x.told.contains d.val = true → x.acks.contains d.val = false →
      (x.settled = true ∨ PlainTurn s x) → After (.turnAck d) s fun t => t.dies = s.dies ∧
        ∃ y, t.pkg.turn = some y ∧ y.acks = x.acks ++ [d.val] ∧
          (y.writing = true ↔ ∀ n < 6, n ∈ y.acks ∨ s.keeperLive n = false)) ∧
    (x.writing = true → s.pkg.activeSlot < 2 → After .selectorWriteComplete s fun t => t.pkg.turn = none ∧ t.pkg.lastCode = 0 ∧
      t.pkg.pendingSlot = false ∧ t.dies = s.dies ∧ t.mem = s.mem ∧ Answered s t x.caller 0x14 0 0 0 ∧
      t.selector (1 - s.pkg.selectorCopy) = some ((s.pkg.selectorSeq + 1) % 2 ^ 32, s.pkg.activeSlot, false)) ∧
    (x.decision = some false → x.waitMs ≠ 0 → x.started + 1000 ≤ s.lockCycle → s.pkg.shadow = .valid →
      (s.lockCycle < x.requested + 1000 * x.waitMs → After .turnRetry s fun t => t.pkg.shadow = .turning ∧
        ∃ y, t.pkg.turn = some y ∧ y.boundary = s.lockCycle + 200 ∧ y.decision = none ∧ y.votes = [] ∧ y.holds = []) ∧
      (x.requested + 1000 * x.waitMs ≤ s.lockCycle → After .turnRetry s fun t =>
        Answered s t x.caller 0x14 x.code x.sheet x.die ∧ (∀ y, t.pkg.turn = some y → y.waitMs = 0) ∧ t.dies = s.dies)) ∧
    (∀ d : DieId, d.val ∈ x.holds → x.told.contains d.val = false → x.boundary + 1000 ≤ s.lockCycle →
      After (.turnDecisionQueryTimeout d) s fun t => RaisedAt t 0x0B05 d ∧
        t = s.setPkg { s.pkg with raised := t.pkg.raised })

/-- R63, R75, R99: the management bus as a firmware device: staging, the data writes, after the last TransferComplete, the result
of the validation and on success ApplyComplete, and a turn or a turn at reset; with no valid slot a recovery quire is staged
and, when it is valid, the start goes on. Completes: pldmRequestUpdate, pldmFirmwareData, pldmActivateFirmware. -/
def Obligations.ManagementUpdate : Prop :=
  (∀ s : State, s.mgmtUp = true → s.pkg.phase = .ready →
    (s.adminMgmt = false → exec .pldmRequestUpdate s = .next (s.emit (.pldmResult 2))) ∧
    (∀ code, s.adminMgmt = true → s.stageRefusal .mgmt = some code →
      exec .pldmRequestUpdate s = .next (s.emit (.pldmResult code))) ∧
    (s.adminMgmt = true → s.stageRefusal .mgmt = none → After .pldmRequestUpdate s fun t =>
      t.pkg.pldmUpdate = true ∧ t.pkg.shadow = .staging ∧ t.pkg.stager = some .mgmt ∧ t.mem = s.mem ∧ t.dies = s.dies ∧
      t.out = s.out ++ [.pldmResult 0])) ∧
  (∀ s : State, s.mgmtUp = true → s.pkg.phase = .noSlot →
    ((s.pkg.life = .returned ∨ s.pkg.life = .scrapped) →
      exec .pldmRequestUpdate s = .next (s.emit (.pldmResult 8))) ∧
    (s.pkg.life ≠ .returned → s.pkg.life ≠ .scrapped → After .pldmRequestUpdate s fun t => t.pkg.pldmUpdate = true ∧
      t.pkg.shadow = .staging ∧ t.pkg.stager = some .mgmt ∧ t.pkg.phase = .noSlot ∧ t.out = s.out ++ [.pldmResult 0] ∧
      t.pkg.volatileQuire = !s.pkg.flashReadable)) ∧
  (∀ (o : W32) (data : Bytes) (s : State), s.mgmtUp = true → s.pkg.pldmUpdate = true → s.pkg.shadow = .staging →
    s.pkg.stager = some .mgmt → o.toNat + data.length ≤ 0x4000000 →
    (s.pkg.phase ≠ .noSlot → After (.pldmFirmwareData o data false) s fun t => t.pkg = s.pkg ∧ t.mem = s.mem ∧
      t.flashRead ((1 - s.pkg.activeSlot) * 0x4000000 + o.toNat) data.length = data) ∧
    (s.pkg.phase = .noSlot → After (.pldmFirmwareData o data false) s fun t => t.mem = s.mem ∧
      t.pkg.shadow = .staging ∧ t.recoveryRead o.toNat data.length = data) ∧
    (After (.pldmFirmwareData o data true) s fun t =>
      (t.pkg.shadow = .valid ∧ t.pkg.lastCode = 0 ∧ t.out = s.out ++ [.pldmTransfer, .pldmResult 0, .pldmApply] ∨
        t.pkg.shadow = .invalid ∧ t.pkg.lastCode ≠ 0 ∧ t.out = s.out ++ [.pldmTransfer, .pldmResult t.pkg.lastCode]) ∧
      t.mem = s.mem)) ∧
  (∀ s : State, s.mgmtUp = true → s.pkg.pldmUpdate = true → s.pkg.phase = .ready →
    (s.adminMgmt = false → ∀ n, exec (.pldmActivateFirmware n) s = .next (s.emit (.pldmResult 2))) ∧
    (s.adminMgmt = true →
      (s.pkg.shadow = .valid → After (.pldmActivateFirmware false) s fun t => t.pkg.pendingSlot = true ∧
        t.pkg.pldmUpdate = false ∧ t.dies = s.dies ∧ t.out = s.out ++ [.pldmResult 0]) ∧
      (s.turnRefusal = none → After (.pldmActivateFirmware true) s fun t => t.pkg.shadow = .turning ∧ t.dies = s.dies ∧
        ∃ y, t.pkg.turn = some y ∧ y.waitMs = 0 ∧ y.caller = .mgmt ∧ y.boundary = s.lockCycle + 200))) ∧
  (∀ s : State, s.mgmtUp = true → s.pkg.pldmUpdate = true → s.pkg.phase = .noSlot → s.pkg.shadow = .valid → ∀ n,
    After (.pldmActivateFirmware n) s fun t => t.pkg.phase = .quire ∧ t.pkg.pldmUpdate = false ∧ t.pkg.shadow = .empty)

/-! ### Keepers, the life cycle, wipes -/

/-- R82, R84, R85: a keeper's lockstep mismatch or watchdog expiry is a fault of its die; heartbeats go to the standby on both
paths; their loss makes the standby head, and the silence of both processor keepers asks for a power cycle with every switched
domain held. Completes: keeperLockstepMismatch, keeperWatchdogExpiry, heartbeatSend, heartbeatLoss, processorKeeperSilence.
The model's choices in it: log entry 75. -/
def Obligations.Keepers : Prop :=
  (∀ (d : DieId) (s : State), s.keeperLive d = true →
    (exec (.keeperLockstepMismatch d) s = .next (s.raise 0x0B01 d 0xFF 0xFFFF 0 0)) ∧
    (exec (.keeperWatchdogExpiry d) s = .next (s.raise 0x0B02 d 0xFF 0xFFFF 0 0))) ∧
  (∀ s : State, s.pkg.standby.isSome = true → s.keeperLive s.pkg.head = true →
    After .heartbeatSend s fun t => t.out = s.out ++ [.heartbeat 0, .heartbeat 1] ∧ t.pkg = s.pkg ∧ t.cores = s.cores) ∧
  (∀ (s : State) (n : Nat), s.pkg.standby = some n → s.keeperLive n = true → After .heartbeatLoss s fun t =>
    t.pkg.head = n ∧ t.pkg.standby = none ∧ (∃ e ∈ t.pkg.raised, e.1.code = 0x0B03 ∧ e.1.die.val = s.pkg.head % 6) ∧
    t.dies = s.dies ∧ SameMemory s t) ∧
  (∀ (d : CDieId) (s : State), s.keeperLive d = true → After (.processorKeeperSilence d) s fun t =>
    t.pkg.cycleReq = true ∧ (∀ n < 32, t.domainOn n = false) ∧
    (∀ x < 4, (t.complex x).running = false) ∧ ∃ e ∈ t.pkg.raised, e.1.code = 0x0B04 ∧ e.1.die.val = d.val)

/-- R99, R100, R101: a life-cycle command that is accepted is answered, then moves the package on: memory is wiped, the endpaper
region erased, the error history gone. To SCRAPPED from any state but SCRAPPED; else one state onward where the identity sheet
permits it, and from BLANK with hashes under which the inactive slot validates, which are fused. Any other is refused.
Completes: lifeCycle. -/
def Sys2Proof.Claims.LifeCycleTransition : Prop :=
  ∀ (b : BasinId) (s : State) (a : Bytes), (s.basin b).st = .open → s.adminBasin b = true → Rings s b 0x17 a →
    lifeArgs a = true →
    let now := s.pkg.life.index
    let target := field a 0 1
    let moves := fun (life : LifeCycle) (keys : NMap Bytes) => After (.lifeCycle b) s fun t => t.pkg.life = life ∧
      t.pkg.keyHash = keys ∧ t.pkg.history = [] ∧ t.pkg.setA = [] ∧ t.pkg.setB = [] ∧ (∀ x, t.byte x = unlistedByte x) ∧
      (∀ c, t.core c = .reset) ∧ (∀ x, 0x08000000 ≤ x → x < 0x08800000 → t.flashByte x = 0xFF) ∧ interrupt s b 0 ∈ t.out
    let refused := fun code => After (.lifeCycle b) s fun t => Replies s t b 1 code [] ∧ OnlyReply s t b
    (target = 4 → s.pkg.life ≠ .scrapped → moves .scrapped s.pkg.keyHash) ∧
    ((4 < target ∨ target = 4 ∧ s.pkg.life = .scrapped ∨ target < 4 ∧ target ≠ now + 1) → refused 0x01) ∧
    (target < 4 → target = now + 1 →
      (bitOf (idLifeMask s.sheets) target = false → refused 0x09) ∧
      (bitOf (idLifeMask s.sheets) target = true →
        (s.pkg.life ≠ .blank → moves (LifeCycle.ofIndex target) s.pkg.keyHash) ∧
        (s.pkg.life = .blank →
          (field a 1 1 = 0 → refused 0x01) ∧
          (∀ code, field a 1 1 ≠ 0 → s.provisionCheck a = code → code ≠ 0 → refused code) ∧
          (field a 1 1 ≠ 0 → s.provisionCheck a = 0 → moves .provisioned (lifeHashes a)))))

/-- R97, R425: a zeroed DDR block is no longer marked, a filled CXL range becomes available, and a basin's opening ends OPEN, or
UNAVAILABLE with error 0x0E04 when one of its resources is absent.
Completes: ddrBlockZeroed, cxlZeroFillComplete, basinOpenComplete.
The model's choices in it: log entries 80 and 84. -/
def Obligations.WipesAndOpening : Prop :=
  (∀ (n : Nat) (s : State), After (.ddrBlockZeroed n) s fun t => t = { s with ddrMarks := t.ddrMarks } ∧
    (∀ r ∈ t.ddrMarks, ¬ (r.1 ≤ n ∧ n < r.1 + r.2)) ∧
    ∀ m, m ≠ n → (∃ r ∈ s.ddrMarks, r.1 ≤ m ∧ m < r.1 + r.2) → ∃ r ∈ t.ddrMarks, r.1 ≤ m ∧ m < r.1 + r.2) ∧
  (∀ (i : Fin 64) (s : State), After (.cxlZeroFillComplete i) s fun t =>
    t = { s with cxlFilling := t.cxlFilling, cxlFresh := t.cxlFresh } ∧
    i.val ∉ t.cxlFilling ∧ (∀ j, j ≠ i.val → (j ∈ t.cxlFilling ↔ j ∈ s.cxlFilling)) ∧
    (∀ e ∈ t.cxlFresh, e.1 ≠ i.val) ∧ ∀ e, e.1 ≠ i.val → (e ∈ t.cxlFresh ↔ e ∈ s.cxlFresh)) ∧
  (∀ (b : BasinId) (s : State), (s.basin b).st = .opening →
    (s.resourceAbsent b = false → After (.basinOpenComplete b) s fun t => (t.basin b).st = .open ∧ OtherBasins b s t ∧
      t.out = s.out ++ [interrupt s b 1] ∧ t.cores = s.cores ∧ SameMemory s t) ∧
    (s.resourceAbsent b = true → After (.basinOpenComplete b) s fun t => (t.basin b).st = .unavailable ∧
      OtherBasins b s t ∧ (∃ e ∈ t.pkg.raised, e.1.code = 0x0E04) ∧ (t.basin b).err = (s.basin b).err ||| 0x100))

/-! ### The sequencer: barriers, marks, regions, draws, the end -/

namespace Sys2Proof.Claims

/-- The sequencer's instructions with their opcodes and the bits each uses (R116, R118). -/
def seqTable (c : CoreId) : List (Instr × Nat × Nat) :=
  [(.nop c, 0x00, maskHead), (.add c, 0x01, maskA), (.sub c, 0x02, maskA), (.and c, 0x03, maskA), (.or c, 0x04, maskA),
   (.xor c, 0x05, maskA), (.sll c, 0x06, maskA), (.srl c, 0x07, maskA), (.sra c, 0x08, maskA), (.mul c, 0x09, maskA)] ++
  [(.mulhu c, 0x0A, maskA), (.slt c, 0x0B, maskA), (.sltu c, 0x0C, maskA), (.minu c, 0x0D, maskA), (.maxu c, 0x0E, maskA),
   (.addi c, 0x10, maskB), (.andi c, 0x11, maskB), (.ori c, 0x12, maskB), (.xori c, 0x13, maskB), (.slli c, 0x14, maskB)] ++
  [(.srli c, 0x15, maskB), (.srai c, 0x16, maskB), (.li c, 0x18, maskC), (.lih c, 0x19, fieldMask 63 49 ||| fieldMask 15 0),
   (.ld c, 0x1A, maskB), (.st c, 0x1B, maskB), (.rdsr c, 0x1C, fieldMask 63 49 ||| fieldMask 43 12),
   (.jmp c, 0x20, maskHead ||| fieldMask 43 31), (.beq c, 0x21, fieldMask 63 31), (.bne c, 0x22, fieldMask 63 31)] ++
  [(.blt c, 0x23, fieldMask 63 31), (.bge c, 0x24, fieldMask 63 31), (.bltu c, 0x25, fieldMask 63 31),
   (.bgeu c, 0x26, fieldMask 63 31), (.jmpr c, 0x27, maskHead ||| fieldMask 53 49),
   (.loop c, 0x30, maskHead ||| fieldMask 53 49 ||| fieldMask 43 31), (.loopi c, 0x31, maskHead ||| fieldMask 43 0),
   (.brk c, 0x32, maskHead ||| fieldMask 1 0), (.qbar c, 0x38, fieldMask 63 45),
   (.phase c, 0x39, maskHead ||| fieldMask 53 50 ||| fieldMask 15 0)] ++
  [(.rtry c, 0x3A, maskHead ||| fieldMask 43 31 ||| fieldMask 1 0), (.draw c, 0x3B, maskHead ||| fieldMask 43 12),
   (.halt c, 0x3F, maskHead ||| fieldMask 43 12)]

/-- What an engine instruction does when its sequencer comes to it (R117, R123): a legal one goes to the tail of its engine's queue
with the register values of this moment, and the sequencer goes on. A failed check faults with its detail, and a full queue
holds the sequencer. What the engine then does is the commands' ENGINE_ISSUE and INSTRUCTION_COMPLETE. -/
def Dispatches (i : CoreId → Instr) (e : Engine) (op : Nat) (legal : Core → W64 → Prop) (check : Core → W64 → Option Nat)
    (regs : W64 → List Nat) : Prop :=
  ∀ (c : CoreId) (s : State) (w : W64), s.fetch c = .word w → wQueue w = engineQueue e → wOp w = op →
    let k := s.core c
    ((k.queue.get e).length < 16 → legal k w → ∃ k' x, exec (i c) s = .next (s.setCore c k') ∧
      k'.queue.get e = k.queue.get e ++
        [⟨w, (regs w).map k.areg, k.pc, k.region.map (fun r => r.rung), k.dispatched.get e, x⟩] ∧
      (∀ e', e' ≠ e → k'.queue.get e' = k.queue.get e' ∧ k'.dispatched.get e' = k.dispatched.get e') ∧
      k'.dispatched.get e = k.dispatched.get e + 1 ∧ k'.aregs = k.aregs ∧ k'.tiles = k.tiles ∧ k'.vregs = k.vregs ∧
      k'.flight = k.flight ∧ k'.completed = k.completed ∧ k'.retiredSeq = k.retiredSeq ∧ GoesOn k k') ∧
    ((k.queue.get e).length < 16 → ∀ d, check k w = some d → Faults (i c) c s (0x100 + d)) ∧
    (16 ≤ (k.queue.get e).length → exec (i c) s = .next s)

end Sys2Proof.Claims

/-- R118, R121, R147: a set bit outside an instruction's fields faults with detail 0x03, an index at or above the image length
with 0x04, an opcode its queue does not list with 0x02, a queue selector of 5 to 7 with 0x01; and nothing happens while the
sequencer stands still. Completes:
undefinedOpcode.
The model's choices in it: log entry 14. -/
def Obligations.SequencerDecode : Prop :=
  ∀ (c : CoreId) (s : State),
    (∀ e ∈ seqTable c, (s.fetch c = .held → exec e.1 s = .next s) ∧ (s.fetch c = .past → Faults e.1 c s 0x104) ∧
      ∀ w, s.fetch c = .word w → wQueue w = 0 → wOp w = e.2.1 → strayBits w e.2.2 = true → Faults e.1 c s 0x103) ∧
    (∀ w, s.fetch c = .word w →
      (5 ≤ wQueue w → Faults (.undefinedOpcode c) c s 0x101) ∧
      (wQueue w = 0 → (∀ e ∈ seqTable c, e.2.1 ≠ wOp w) → Faults (.undefinedOpcode c) c s 0x102) ∧
      (wQueue w = 1 → ¬ (1 ≤ wOp w ∧ wOp w ≤ 5) → Faults (.undefinedOpcode c) c s 0x102) ∧
      (wQueue w = 3 → wOp w ≠ 1 → wOp w ≠ 2 → Faults (.undefinedOpcode c) c s 0x102) ∧
      (wQueue w = 2 → (s.core c).flightMode = false → ¬ (1 ≤ wOp w ∧ wOp w ≤ 5) → ¬ (0x10 ≤ wOp w ∧ wOp w ≤ 0x15) →
        Faults (.undefinedOpcode c) c s 0x102) ∧
      (wQueue w = 2 → (s.core c).flightMode = true → ¬ (0x10 ≤ wOp w ∧ wOp w ≤ 0x15) → wOp w ≠ 0x20 →
        Faults (.undefinedOpcode c) c s 0x102) ∧
      (wQueue w = 4 → ¬ (1 ≤ wOp w ∧ wOp w ≤ 4) → ¬ (0x10 ≤ wOp w ∧ wOp w ≤ 0x13) → Faults (.undefinedOpcode c) c s 0x102))

/-- R118, R127: NOP does nothing; QBAR records how far the waited queues have come and holds what its hold mask names until they
have completed that much, a wait mask of zero holds nothing, and a hold mask of zero faults. Completes:
nop, qbar. -/
def Sys2Proof.Claims.NopAndQueueBarriers : Prop :=
  (∀ (c : CoreId) (s : State) (w : W64), Next s c w 0 0x00 maskHead → ∃ k', exec (.nop c) s = .next (s.setCore c k') ∧
    k'.aregs = (s.core c).aregs ∧ k'.retiredSeq = satCount ((s.core c).retiredSeq + 1) ∧ GoesOn (s.core c) k' ∧
    OnlySequencer (s.core c) k') ∧
  (∀ (c : CoreId) (s : State) (w : W64), Next s c w 0 0x38 (fieldMask 63 45) →
    let k := s.core c
    let wait := bitsOf w.toNat 53 50
    let hold := bitsOf w.toNat 49 45
    (hold = 0 → Faults (.qbar c) c s 0x103) ∧
    (hold ≠ 0 → ∃ k', exec (.qbar c) s = .next (s.setCore c k') ∧ GoesOn k k' ∧ k'.aregs = k.aregs ∧ k'.queue = k.queue ∧
      ((wait = 0 ∨ ∀ e, bitOf wait (engineBit e) = true → k.dispatched.get e ≤ k.completed.get e) →
        k'.barriers = k.barriers ∧ k'.seqWait = k.seqWait) ∧
      (∀ e, bitOf wait (engineBit e) = true → k.completed.get e < k.dispatched.get e →
        k'.barriers = k.barriers ++ [⟨BitVec.ofNat 4 wait, k.dispatched, BitVec.ofNat 5 hold, k.dispatched⟩] ∧
        (bitOf hold 0 = true → k'.seqWait = .barrier) ∧ (bitOf hold 0 = false → k'.seqWait = k.seqWait))))

/-- R135, R144: a phase mark waits for its wait set; with none it is taken at once; in a retry region it faults with 0x08. Completes:
phase, phaseMarkTaken. -/
def Sys2Proof.Claims.PhaseMarks : Prop :=
  (∀ (c : CoreId) (s : State) (w : W64), Next s c w 0 0x39 (maskHead ||| fieldMask 53 50 ||| fieldMask 15 0) →
    let k := s.core c
    (k.region ≠ none → Faults (.phase c) c s 0x108) ∧
    (k.region = none → k.marks = [] → bitsOf w.toNat 53 50 ≠ 0 → After (.phase c) s fun t =>
      (t.core c).marks = [⟨BitVec.ofNat 16 (bitsOf w.toNat 15 0), BitVec.ofNat 4 (bitsOf w.toNat 53 50), k.dispatched,
        (s.basin k.basin).step, none⟩] ∧ GoesOn k (t.core c) ∧ t.basins = s.basins ∧ SameMemory s t) ∧
    (k.region = none → k.marks = [] → bitsOf w.toNat 53 50 = 0 → After (.phase c) s fun t =>
      (t.core c).marks = [] ∧ GoesOn k (t.core c) ∧ OtherBasins k.basin s t ∧ OtherCores c s t)) ∧
  (∀ (c : CoreId) (s : State) (m : Mark), (s.core c).live = true → (s.core c).marks = [m] → m.taken = none →
    (s.core c).waitMet m.wait m.counts = true → After (.phaseMarkTaken c) s fun t => (t.core c).marks = [] ∧
      (t.core c).pc = (s.core c).pc ∧ OtherCores c s t ∧ OtherBasins (s.core c).basin s t)

/-- R134, R135: RTRY opens a region at its start rung; regions do not nest and lie inside the image and the loop. Completes:
rtry. -/
def Sys2Proof.Claims.RetryRegions : Prop :=
  ∀ (c : CoreId) (s : State) (w : W64), Next s c w 0 0x3A (maskHead ||| fieldMask 43 31 ||| fieldMask 1 0) →
    let k := s.core c
    let t := bitsOf w.toNat 43 31
    (k.region = none → k.pc < t → t < k.len → (∀ l ls, k.loops = l :: ls → t ≤ l.stop) →
      exec (.rtry c) s = .next (s.setCore c { k with retiredSeq := satCount (k.retiredSeq + 1), pc := k.pc + 1, region := some ⟨k.pc, t, bitsOf w.toNat 1 0, k.loops.length, k.dispatched, false, false, none, []⟩ })) ∧
    ((k.region ≠ none ∨ t ≤ k.pc ∨ k.len ≤ t ∨ ∃ l ls, k.loops = l :: ls ∧ l.stop < t) → Faults (.rtry c) c s 0x108)

/-- R141, R142: DRAW returns the reservation in force, clamps its request to the core's share, and sets it aside when the
cluster's unreserved balance covers it; else the sequencer waits. In sixteenths of a credit. Completes:
draw. -/
def Sys2Proof.Claims.DrawReservations : Prop :=
  ∀ (c : CoreId) (s : State) (w : W64), Next s c w 0 0x3B (maskHead ||| fieldMask 43 12) →
    let k := s.core c
    let cl := c.val / 8
    let q := min (bitsOf w.toNat 43 12) (s.refill cl / 128)
    let pool := (s.cluster cl).unreserved + k.reservation
    (k.region ≠ none → Faults (.draw c) c s 0x108) ∧
    (k.region = none → q * 16 ≤ pool → After (.draw c) s fun t => (t.core c).reservation = q * 16 ∧
      (t.cluster cl).unreserved = pool - q * 16 ∧ (t.core c).seqWait = .free ∧ (t.core c).aregs = k.aregs ∧
      GoesOn k (t.core c) ∧ OtherCores c s t ∧ (∀ j, j ≠ cl → t.cluster j = s.cluster j) ∧ SameMemory s t) ∧
    (k.region = none → pool < q * 16 → After (.draw c) s fun t => (t.core c).reservation = 0 ∧
      (t.cluster cl).unreserved = pool ∧ (t.core c).seqWait = .draw q s.now ∧ (t.core c).pc = k.pc ∧ OtherCores c s t ∧
      SameMemory s t)

/-- R145, R149: HALT stops dispatch and frees the loop levels; a drained context returns to IDLE with its store valid; one that
has faulted is wiped, its endpaper stored, and returns to IDLE. Completes:
halt, contextDrained, contextFault. -/
def Sys2Proof.Claims.ContextEnds : Prop :=
  (∀ (c : CoreId) (s : State) (w : W64), Next s c w 0 0x3F (maskHead ||| fieldMask 43 12) →
    let k := s.core c
    (k.region = none → bitsOf w.toNat 43 12 ≤ 65535 →
      exec (.halt c) s = .next (s.setCore c { k with retiredSeq := satCount (k.retiredSeq + 1), ctx := .draining, loops := [], haltStatus := BitVec.ofNat 16 (bitsOf w.toNat 43 12) })) ∧
    (65535 < bitsOf w.toNat 43 12 → Faults (.halt c) c s 0x103) ∧
    (k.region ≠ none → bitsOf w.toNat 43 12 ≤ 65535 → Faults (.halt c) c s 0x108)) ∧
  (∀ (c : CoreId) (s : State), (s.core c).ctx = .draining → (s.core c).drained = true → (s.core c).marks = [] →
    After (.contextDrained c) s fun t =>
      (t.core c).ctx = .idle ∧ (t.core c).storeValid = true ∧ (t.core c).storeLen = (s.core c).len ∧
      (t.core c).store = (s.core c).store ∧ (t.core c).aregs = (s.core c).aregs ∧ (t.core c).semMap = [] ∧
      (t.cluster (c.val / 8)).unreserved = (s.cluster (c.val / 8)).unreserved + (s.core c).reservation ∧
      OtherCores c s t ∧ ((s.core c).started = none → SameMemory s t)) ∧
  (∀ (c : CoreId) (s : State), (s.core c).ctx = .faulted → (s.cluster (c.val / 8)).fenced = false →
    (After (.contextFault c) s fun t => (t.core c).ctx = .idle ∧ (t.core c).storeValid = false ∧ (t.core c).aregs = [] ∧
      (t.core c).tiles = [] ∧ (t.core c).vregs = [] ∧ (t.core c).semMap = [] ∧ (t.core c).fault = none) ∧
    ((∀ e, (s.core c).flight.get e = []) → (s.core c).started = none → (s.basin (s.core c).basin).mboxCmd = none →
      After (.contextFault c) s fun t => OtherCores c s t ∧
        (∀ a, scratchBase c + (s.core c).firstBank * 0x8000 ≤ a →
          a < scratchBase c + ((s.core c).firstBank + (s.core c).bankCount) * 0x8000 → t.byte a = unlistedByte a) ∧
        ∀ a, (a < scratchBase c + (s.core c).firstBank * 0x8000 ∨
          scratchBase c + ((s.core c).firstBank + (s.core c).bankCount) * 0x8000 ≤ a) → t.byte a = s.byte a))

/-! ### Dispatch to the engines -/

namespace Sys2Proof.Claims

/-! What the rules ask of an engine instruction before it is queued: its fields, the registers it captures, the allocation. -/

/-- A range starts on 64 bytes and lies in the context's allocation (R113). -/
def InAlloc (k : Core) (off n : Nat) : Prop :=
  off % 64 = 0 ∧ off < k.bankCount * 0x8000 ∧ off + n ≤ k.bankCount * 0x8000

/-- No bit outside the fields is set; an SR coordinate has bits [63:56] zero; a ladder code stands in a retry region (R134). -/
def Clean (w : W64) (used : Nat) : Prop := strayBits w used = false
def CoordinateOk (v : W64) : Prop := v.toNat / 2 ^ 56 = 0
def LadderOk (k : Core) (code : Nat) : Prop := code = 0xF → k.region ≠ none

/-- MMA: R186, R187, R185, R195, and with the window bit R204 and R205. -/
def MmaLegal (k : Core) (w : W64) : Prop :=
  let n := w.toNat
  let a := resolveFormat (bitsOf n 34 31) (k.region.map (fun r => r.rung))
  let b := resolveFormat (bitsOf n 30 27) (k.region.map (fun r => r.rung))
  let ra := (k.areg (bitsOf n 49 45)).toNat
  let len := (k.areg (bitsOf n 39 35)).toNat
  LadderOk k (bitsOf n 34 31) ∧ LadderOk k (bitsOf n 30 27) ∧ Clean w (fieldMask 63 20) ∧ (pressGroup a b).isSome = true ∧
  len % 32 = 0 ∧ len ≤ 65536 ∧ CoordinateOk (k.areg (bitsOf n 24 20)) ∧
  InAlloc k (k.areg (bitsOf n 44 40)).toNat (panelBytes b len) ∧
  (bitOf n 25 = false → InAlloc k ra (panelBytes a len)) ∧
  (bitOf n 25 = true → ∃ x, k.window = some x ∧ ra / 2 ^ 32 % 32 = 0 ∧ ra / 2 ^ 32 + len ≤ x.kh * x.kw * x.channels ∧
    ra % 2 ^ 32 + 31 < 2 ^ 32 ∧ InAlloc k x.base.toNat (x.mapBytes a))

/-- TOUT and TCVT: R199, R200, R228. -/
def ToutLegal (k : Core) (w : W64) : Prop :=
  let n := w.toNat
  let code := bitsOf n 39 36
  LadderOk k code ∧ Clean w (fieldMask 63 24) ∧
  (bitOf n 24 = true → code = 0x0 ∨ code = 0xC) ∧ (bitOf n 24 = false → code ≤ 0xB ∨ code = 0xF) ∧
  (3 ≤ code ∧ code ≤ 0xA ∨ code = 0xF → bitOf n 27 = true) ∧ CoordinateOk (k.areg (bitsOf n 44 40)) ∧
  InAlloc k (k.areg (bitsOf n 49 45)).toNat (toutBytes code)

/-- TIN: R201. -/
def TinLegal (k : Core) (w : W64) : Prop :=
  let code := bitsOf w.toNat 39 36
  (code = 0x0 ∨ code = 0x1 ∨ code = 0xC) ∧ Clean w (fieldMask 63 45 ||| fieldMask 39 35) ∧
  InAlloc k (k.areg (bitsOf w.toNat 49 45)).toNat (planeBytes code 1024)

/-- PWIN: R203, R205. -/
def PwinLegal (k : Core) (w : W64) : Prop :=
  let g := (k.areg (wA w)).toNat
  let p := (k.areg (wB w)).toNat
  Clean w (fieldMask 63 39) ∧ g / 2 ^ 48 = 0 ∧ p / 2 ^ 48 = 0 ∧ bitsOf g 47 32 ≠ 0 ∧ bitsOf g 47 32 % 32 = 0 ∧
  bitsOf g 31 16 ≠ 0 ∧ bitsOf g 15 0 ≠ 0 ∧ bitsOf p 47 32 ≠ 0 ∧ (k.areg (wC w)).toNat % 64 = 0

/-- A function with a lane type that R220 lists for it. -/
def LaneFunction (fn t : Nat) : Prop :=
  t ≤ 8 ∧ (fn = 0x0B ∨ fn = 0x0C ∨ 0x30 ≤ fn ∧ fn ≤ 0x33 ∨ (fn ≤ 0x0A ∨ 0x10 ≤ fn ∧ fn ≤ 0x17) ∧ t ≤ 2 ∨
    (0x20 ≤ fn ∧ fn ≤ 0x26 ∨ 0x28 ≤ fn ∧ fn ≤ 0x2C) ∧ 3 ≤ t ∧ (fn = 0x2A → t = 3 ∨ t = 5 ∨ t = 7))

/-- VOP: R216, R218, R219, R220, R224, R226. -/
def VopLegal (k : Core) (w : W64) : Prop :=
  let n := w.toNat
  let fn := bitsOf n 29 24
  let src := laneWidth (bitsOf n 33 30)
  let dst := laneWidth (bitsOf n 37 34)
  let rounds := fn ≤ 3 ∨ fn = 0x0C ∨ 0x10 ≤ fn ∧ fn ≤ 0x17
  let unary := fn = 6 ∨ fn = 7 ∨ 0x10 ≤ fn ∧ fn ≤ 0x17 ∨ fn = 0x2B ∨ fn = 0x2C ∨ fn = 0x33 ∨ fn = 0x0C ∧ src ≤ dst
  k.flightMode = false ∧ Clean w (fieldMask 63 16) ∧ LaneFunction fn (bitsOf n 33 30) ∧
  (fn = 0x0C → bitOf n 38 = false ∧ bitsOf n 37 34 ≤ 8 ∧ src ≤ 2 * dst ∧ dst ≤ 2 * src) ∧
  (fn ≠ 3 → fn ≠ 0x0B → fn ≠ 0x0C → bitsOf n 38 34 = 0) ∧ (unary → bitsOf n 43 39 = 0 ∧ bitOf n 21 = false) ∧
  (rounds → CoordinateOk (k.areg (bitsOf n 20 16))) ∧ (¬ rounds → bitOf n 23 = false ∧ bitsOf n 20 16 = 0) ∧
  (bitOf n 22 = true → 0x20 ≤ fn ∧ fn ≤ 0x22 ∨ fn = 0x0C ∧ src < dst)

/-- VLD and VST, with 128 bytes at a multiple of 128; VGET and VPUT: R216, R225, R227. -/
def VldLegal (k : Core) (w : W64) : Prop :=
  let off := (k.areg (wB w) + sext64 32 (bitsOf w.toNat 43 12)).toNat
  k.flightMode = false ∧ Clean w (fieldMask 63 12) ∧ off % 128 = 0 ∧ InAlloc k off 128
def VgetLegal (k : Core) (w : W64) : Prop := k.flightMode = false ∧ Clean w (fieldMask 63 39)

/-- TRED and RMRG: R229, R230, R234. -/
def TredLegal (k : Core) (w : W64) : Prop :=
  let op := bitsOf w.toNat 39 37
  Clean w (fieldMask 63 30) ∧ op ≤ 5 ∧ (op ≠ 3 → bitsOf w.toNat 44 40 = 0) ∧
  InAlloc k (k.areg (bitsOf w.toNat 49 45)).toNat (32 * recordSize op)
def RmrgLegal (k : Core) (w : W64) : Prop :=
  let op := bitsOf w.toNat 43 41
  Clean w (fieldMask 63 41) ∧ op ≤ 5 ∧ InAlloc k (k.areg (wA w)).toNat (32 * recordSize op) ∧
  InAlloc k (k.areg (wB w)).toNat (32 * recordSize op)

/-- An element count: a multiple of 32 from 32 to a limit. -/
def CountOk (n limit : Nat) : Prop := n % 32 = 0 ∧ 32 ≤ n ∧ n ≤ limit

/-- SCVT: R235. -/
def ScvtLegal (k : Core) (w : W64) : Prop :=
  let src := bitsOf w.toNat 38 35
  let dst := bitsOf w.toNat 34 31
  let n := (k.areg (wC w)).toNat
  LadderOk k dst ∧ Clean w (fieldMask 63 16) ∧ CountOk n 1048576 ∧ src ≤ 0xC ∧
  (dst ≤ 0xB ∨ dst = 0xF ∨ dst = 0xC ∧ (src = 0xB ∨ src = 0xC)) ∧
  (3 ≤ dst ∧ dst ≤ 0xA ∨ dst = 0xF → bitOf w.toNat 22 = true) ∧ CoordinateOk (k.areg (bitsOf w.toNat 20 16)) ∧
  InAlloc k (k.areg (wA w)).toNat (streamBytes src n) ∧ InAlloc k (k.areg (wB w)).toNat (streamBytes dst n)

/-- RADD: R237, R238. -/
def RaddLegal (k : Core) (w : W64) : Prop :=
  let n := (k.areg (bitsOf w.toNat 38 34)).toNat
  Clean w (fieldMask 63 29) ∧ CountOk n 196608 ∧
  (bitOf w.toNat 33 = true → wB w = 0 ∧ n = 1024) ∧
  (bitOf w.toNat 33 = false → bitsOf w.toNat 32 29 = 0 ∧ InAlloc k (k.areg (wB w)).toNat (4 * n)) ∧
  InAlloc k (k.areg (wA w)).toNat (4 * n) ∧ InAlloc k (k.areg (wC w)).toNat (4 * n)

/-- SMAX: R239. -/
def SmaxLegal (k : Core) (w : W64) : Prop :=
  let n := (k.areg (wC w)).toNat
  let g := (k.areg (bitsOf w.toNat 38 34)).toNat
  let src := bitsOf w.toNat 28 25
  let dst := bitsOf w.toNat 24 21
  Clean w (fieldMask 63 15) ∧ 1 ≤ n ∧ n ≤ 65536 ∧ 1 ≤ g ∧ g ≤ 4096 ∧ src ≤ 1 ∧ dst ≤ 1 ∧
  CoordinateOk (k.areg (bitsOf w.toNat 19 15)) ∧
  InAlloc k (k.areg (wA w)).toNat (smaxBytes src n g) ∧ InAlloc k (k.areg (wB w)).toNat (smaxBytes dst n g)

/-- FLY: R216, R241. -/
def FlyLegal (k : Core) (w : W64) : Prop :=
  k.flightMode = true ∧ Clean w (fieldMask 63 24) ∧ CountOk (k.areg (bitsOf w.toNat 33 29)).toNat 1048576 ∧
  CoordinateOk (k.areg (bitsOf w.toNat 28 24)) ∧ InAlloc k (k.areg (wA w)).toNat 128 ∧
  (k.areg (wB w)).toNat % 64 = 0 ∧ (k.areg (wC w)).toNat % 64 = 0 ∧ (k.areg (bitsOf w.toNat 38 34)).toNat % 64 = 0

/-- BRG: R266, and in a retry region the Local bit (R135). -/
def BrgLegal (k : Core) (w : W64) : Prop :=
  Clean w (fieldMask 63 16) ∧ InAlloc k (k.areg (wA w) + sext64 32 (bitsOf w.toNat 48 17)).toNat 128 ∧
  (k.region ≠ none → bitOf w.toNat 16 = true)

/-- BLIN: R267, R278, R272, R135; a range of space 1 lies in the allocation (R148). -/
def BlinLegal (k : Core) (w : W64) : Prop :=
  let n := w.toNat
  let len := (k.areg (wC w)).toNat
  let within := fun (r : Nat) => (k.areg r).toNat < k.bankCount * 0x8000 ∧ (k.areg r).toNat + len ≤ k.bankCount * 0x8000
  Clean w (fieldMask 63 21) ∧ bitsOf n 38 37 ≠ 3 ∧ bitsOf n 36 35 ≠ 3 ∧ bitsOf n 34 33 ≠ 3 ∧ bitsOf n 32 31 ≠ 3 ∧
  (bitsOf n 32 31 = 1 → bitsOf n 34 33 = 0) ∧ (bitOf n 29 = false → bitsOf n 28 21 = 0) ∧
  (bitsOf n 38 37 = 1 → within (wA w)) ∧ (bitsOf n 36 35 = 1 → within (wB w)) ∧
  (k.region ≠ none → bitsOf n 36 35 = 1 ∧ bitOf n 29 = false)

/-- A sync instruction: clean, its own fields in range, outside a retry region (R293, R135). -/
def SyncLegal (used : Nat) (fields : Core → W64 → Prop) (k : Core) (w : W64) : Prop :=
  Clean w used ∧ fields k w ∧ k.region = none

end Sys2Proof.Claims

/-- R117, R123, R197, R213: the press's instructions, their fields, registers and ranges as the rules ask, are queued with their
registers' values. Completes: mma, tout, tin, tzero, pwin. -/
def Sys2Proof.Claims.PressDispatch : Prop :=
  Dispatches .mma .press 0x01 MmaLegal checkMma
    (fun w => [bitsOf w.toNat 49 45, bitsOf w.toNat 44 40, bitsOf w.toNat 39 35, bitsOf w.toNat 24 20]) ∧
  Dispatches .tout .press 0x02 ToutLegal checkTout (fun w => [bitsOf w.toNat 49 45, bitsOf w.toNat 44 40]) ∧
  Dispatches .tin .press 0x03 TinLegal checkTin (fun w => [bitsOf w.toNat 49 45]) ∧
  Dispatches .tzero .press 0x04 (fun _ w => Clean w (fieldMask 63 38))
    (fun _ w => if strayBits w (fieldMask 63 38) then some 0x03 else none) (fun _ => []) ∧
  Dispatches .pwin .press 0x05 PwinLegal checkPwin (fun w => [wA w, wB w, wC w]) ∧
  (∀ (c : CoreId) (s : State) (w : W64), s.fetch c = .word w → wQueue w = 1 → wOp w = 0x05 →
    ((s.core c).queue.get .press).length < 16 → PwinLegal (s.core c) w → After (.pwin c) s fun t =>
      (t.core c).window = some ⟨(s.core c).areg (wA w), (s.core c).areg (wB w), (s.core c).areg (wC w)⟩)

/-- R117, R123, R217, R248: the vector engine's instructions, as the rules ask, are queued with their registers' values.
Completes: vop, vld, vst, vget, vput, tcvt, tred, rmrg, scvt, radd, smax, fly. -/
def Sys2Proof.Claims.VectorDispatch : Prop :=
  Dispatches .vop .vector 0x01 VopLegal checkVop
    (fun w => [bitsOf w.toNat 20 16, if bitOf w.toNat 21 then bitsOf w.toNat 43 39 else 0]) ∧
  Dispatches .vld .vector 0x02 VldLegal checkVld (fun w => [wB w]) ∧
  Dispatches .vst .vector 0x03 VldLegal checkVld (fun w => [wB w]) ∧
  Dispatches .vget .vector 0x04 VgetLegal checkVget (fun _ => []) ∧
  Dispatches .vput .vector 0x05 VgetLegal checkVget (fun _ => []) ∧
  Dispatches .tcvt .vector 0x10 ToutLegal checkTout (fun w => [bitsOf w.toNat 49 45, bitsOf w.toNat 44 40]) ∧
  Dispatches .tred .vector 0x11 TredLegal checkTred (fun w => [bitsOf w.toNat 49 45, bitsOf w.toNat 44 40]) ∧
  Dispatches .rmrg .vector 0x12 RmrgLegal checkRmrg (fun w => [wA w, wB w]) ∧
  Dispatches .scvt .vector 0x13 ScvtLegal checkScvt (fun w => [wA w, wB w, wC w, bitsOf w.toNat 20 16]) ∧
  Dispatches .radd .vector 0x14 RaddLegal checkRadd (fun w => [wA w, wB w, wC w, bitsOf w.toNat 38 34]) ∧
  Dispatches .smax .vector 0x15 SmaxLegal checkSmax
    (fun w => [wA w, wB w, wC w, bitsOf w.toNat 38 34, bitsOf w.toNat 33 29, bitsOf w.toNat 19 15]) ∧
  Dispatches .fly .vector 0x20 FlyLegal checkFly
    (fun w => [wA w, wB w, wC w, bitsOf w.toNat 38 34, bitsOf w.toNat 33 29, bitsOf w.toNat 28 24])

/-- R117, R123, R265, R293: barge and sync instructions, as the rules ask, are queued; in a retry region no sync instruction may
stand, an increment of zero and a core number above 1,023 are refused. Completes: brg, blin, swait, ssig, sset, srsig, kbar,
kwait, kjoin, kleave. -/
def Sys2Proof.Claims.BargeAndSyncDispatch : Prop :=
  Dispatches .brg .barge 0x01 BrgLegal checkBrg (fun w => [wA w]) ∧
  Dispatches .blin .barge 0x02 BlinLegal checkBlin (fun w => [wA w, wB w, wC w]) ∧
  (let sync := fun (i : CoreId → Instr) (op used : Nat) (bad : Core → W64 → Bool) (regs : W64 → List Nat) =>
     Dispatches i .sync op (SyncLegal used (fun k w => bad k w = false))
       (fun k w => if (strayBits w used || bad k w) = true then some 0x03 else if k.region.isSome = true then some 0x08 else none) regs
   sync .swait 0x01 (fieldMask 63 13) (fun _ _ => false) (fun _ => []) ∧
   sync .ssig 0x02 (fieldMask 63 30) (fun _ w => bitsOf w.toNat 45 30 == 0) (fun _ => []) ∧
   sync .sset 0x03 (fieldMask 63 30) (fun _ _ => false) (fun _ => []) ∧
   sync .srsig 0x04 (fieldMask 63 25) (fun k w => bitsOf w.toNat 40 25 == 0 || decide (1024 ≤ (k.areg (wA w)).toNat))
     (fun w => [wA w]) ∧
   sync .kbar 0x10 (fieldMask 63 47) (fun _ _ => false) (fun _ => []) ∧
   sync .kwait 0x11 (fieldMask 63 49 ||| fieldMask 47 47) (fun _ _ => false) (fun _ => []) ∧
   sync .kjoin 0x12 (fieldMask 63 49) (fun _ _ => false) (fun _ => []) ∧
   sync .kleave 0x13 (fieldMask 63 49) (fun _ _ => false) (fun _ => []))

/-! ### Contexts and engines -/

namespace Sys2Proof.Claims

/-- What R109 asks of a start by a descriptor that names its target core. -/
def StartLegal (s : State) (b target : Nat) (d : CtxDesc) : Prop :=
  let k := d.core / 8
  d.badHead = false ∧ d.core < 1024 ∧ d.core = target ∧ s.physCluster k ≠ 0xFF ∧
  bsnHasCluster (s.sheetsOn (k / 32)) b k = true ∧ (s.core d.core).ctx = .idle ∧
  1 ≤ d.length ∧ d.length ≤ 8192 ∧ d.entry < d.length ∧ (d.loads = true → d.image % 64 = 0) ∧ d.argCount ≤ 31 ∧
  (d.argCount ≠ 0 → d.args % 8 = 0) ∧ d.firstBank ≤ 23 ∧ 1 ≤ d.bankCount ∧ d.firstBank + d.bankCount ≤ 24 ∧
  d.sems ≤ 256 ∧ d.sems ≤ (s.freeSems k).length ∧ s.basinSems b + d.sems ≤ bsnQuota (s.sheetsOn (k / 32)) b ∧
  (d.loads = false → (s.core d.core).storeValid = true ∧ (s.core d.core).storeLen = d.length) ∧
  (s.cluster k).granted = true ∧ s.clusterPresent k = true

end Sys2Proof.Claims

/-- R109, R114: a start entry reads its descriptor, is refused with the code of the first failed check, or loads. Completes:
contextStart. -/
def Sys2Proof.Claims.ContextStart : Prop :=
  ∀ (b : BasinId) (r : RingId) (s t : State) (x : RingRef) (e : Bytes), s.nextOf b r 1 = some (x, e, t) →
    (∀ d, t.readVia (some (entryTarget e / 8)) b (entryAddr e) 64 = .error d → exec (.contextStart b r) s = .next (t.complete x (.refused 0x08))) ∧
    (∀ bs, t.readVia (some (entryTarget e / 8)) b (entryAddr e) 64 = .ok bs →
      let d := CtxDesc.ofBytes bs
      let target := entryTarget e
      s.workHeld b (d.core / 8) = false →
      ((d.badHead = true ∨ 1024 ≤ d.core ∨ d.core ≠ target) →
        exec (.contextStart b r) s = .next (t.complete x (.refused 0x01))) ∧
      (d.badHead = false → d.core < 1024 → d.core = target →
        (bsnHasCluster (t.sheetsOn (d.core / 8 / 32)) b (d.core / 8) = false →
          exec (.contextStart b r) s = .next (t.complete x (.refused 0x02))) ∧
        (t.physCluster (d.core / 8) ≠ 0xFF → bsnHasCluster (t.sheetsOn (d.core / 8 / 32)) b (d.core / 8) = true →
          (t.core d.core).ctx ≠ .idle →
          exec (.contextStart b r) s = .next (t.complete x (.refused 0x03)))) ∧
      (∀ code, t.startRefusal b target d = some code →
        exec (.contextStart b r) s = .next (t.complete x (.refused code))) ∧
      (StartLegal t b target d → After (.contextStart b r) s fun u =>
        (u.core d.core).ctx = .loading ∧ (u.core d.core).basin = b.val ∧ (u.core d.core).tag = BitVec.ofNat 16 d.tag ∧
        (u.core d.core).len = d.length ∧ (u.core d.core).pc = d.entry ∧ (u.core d.core).firstBank = d.firstBank ∧
        (u.core d.core).bankCount = d.bankCount ∧ (u.core d.core).semCount = d.sems ∧
        (u.core d.core).started = some x ∧ OtherCores d.core s u ∧ OtherBasins b s u ∧ SameMemory s u))

/-- R112, R115: a context begins to run with its image in the store, its arguments in a1 onward, and every other register zero; an
image or arguments that cannot be read leave the core as it was, IDLE. Completes: contextLoaded. -/
def Sys2Proof.Claims.ContextLoaded : Prop :=
  ∀ (c : CoreId) (s : State), (s.core c).ctx = .loading → (s.core c).loadCharges = [] →
    let k := s.core c
    let image := if k.loadImage then s.readVia (some (c / 8)) k.basin k.imageBase.toNat (8 * k.len) else .ok []
    let args := if k.argCount = 0 then .ok [] else s.readVia (some (c / 8)) k.basin k.argBase.toNat (8 * k.argCount)
    (∀ im ar, image = .ok im → args = .ok ar → After (.contextLoaded c) s fun t =>
      (t.core c).ctx = .running ∧ (t.core c).pc = k.pc ∧ (t.core c).loops = [] ∧ (t.core c).region = none ∧
      (k.loadImage = true → ∀ i, (t.core c).storeWord i = if i < k.len then BitVec.ofNat 64 (field im (8 * i) 8) else 0) ∧
      (k.loadImage = false → (t.core c).store = k.store) ∧
      (∀ n, (t.core c).areg n = if 1 ≤ n ∧ n ≤ k.argCount then BitVec.ofNat 64 (field ar (8 * (n - 1)) 8) else 0) ∧
      (∀ i e, (t.core c).tile i e = 0) ∧ (∀ v, (t.core c).vreg v = 0) ∧ OtherCores c s t ∧ SameMemory s t) ∧
    (∀ d, (image = .error d ∨ args = .error d) → After (.contextLoaded c) s fun t =>
      (t.core c).ctx = .idle ∧ (t.core c).semMap = [] ∧ (t.core c).store = k.store ∧ (t.core c).storeValid = k.storeValid ∧
      (t.core c).storeLen = k.storeLen ∧ (t.core c).tag = k.priorTag ∧ OtherCores c s t ∧ (k.started = none → SameMemory s t))

/-- R123, R162, R169, R207, R211, R245: the head of a press or vector queue that nothing holds issues when its engine has come to it,
with the basin's step and seed of that moment and its charges still to pay; a gauge that is not there faults with 0x0202. An
engine whose next unit of work the credits do not cover waits, and the instruction stays. Charging changes nothing but
charges, credits and stalls. Completes: engineIssue.
The model's choices in it: log entries 17, 18 and 31. -/
def Obligations.EngineIssue : Prop :=
  (∀ (c : CoreId) (e : Engine) (s : State) (q : QInstr) (qs : List QInstr), (e = .press ∨ e = .vector) →
    (s.core c).queue.get e = q :: qs → s.mayIssue c e q = true → ¬ (e = .vector ∧ wOp q.word = 0x20) →
    let charges := if e = .press then pressCharges q else vectorCharges q []
    let issues := fun (scale : Int) => After (.engineIssue c e) s fun t =>
      (t.core c).queue.get e = qs ∧ (∃ f, (t.core c).flight.get e = (s.core c).flight.get e ++ [f] ∧ f.q = q ∧
        f.step = (s.basin (s.core c).basin).step ∧ f.seed = (s.basin (s.core c).basin).seed ∧ f.charges = charges ∧
        f.paid = 0 ∧ f.scale = scale) ∧
      (∀ e', e' ≠ e → (t.core c).queue.get e' = (s.core c).queue.get e' ∧
        (t.core c).flight.get e' = (s.core c).flight.get e') ∧
      (t.core c).tiles = (s.core c).tiles ∧ (t.core c).vregs = (s.core c).vregs ∧ OtherCores c s t
    (((s.core c).unpaid e).length < runsAtOnce e → (e = .vector → vectorWaits (s.core c).flight.vector q [] = false) →
      ((∀ field g, convOf e q.word [] ≠ some (field, some g)) → issues 0) ∧
      (∀ field g, convOf e q.word [] = some (field, some g) →
        (s.issueGauge c g (s.basin (s.core c).basin).step = none → After (.engineIssue c e) s fun t =>
          (t.core c).ctx = .faulted ∧ (t.core c).fault = some 0x0202 ∧ OtherCores c s t) ∧
        ∀ t, s.issueGauge c g (s.basin (s.core c).basin).step = some t →
          issues (t.issueScale c (resolveFormat field q.rung) (some g)).1)) ∧
    (runsAtOnce e ≤ ((s.core c).unpaid e).length → (s.core c).waitsAt e = true → exec (.engineIssue c e) s = .next s) ∧
    (∀ old f rest ch chs, runsAtOnce e ≤ ((s.core c).unpaid e).length → (s.core c).waitsAt e = false →
      (s.core c).flight.get e = old ++ f :: rest → (∀ x ∈ old, x.charges = []) → f.charges = ch :: chs →
      0 < ch.units → (s.core c).reservation + (s.cluster (c.val / 8)).unreserved < ch.each →
      After (.engineIssue c e) s fun t => (t.core c).queue = (s.core c).queue ∧ (t.core c).waitsAt e = true ∧
        (t.cluster (c.val / 8)).waited = true ∧ (t.cluster (c.val / 8)).unreserved = (s.cluster (c.val / 8)).unreserved ∧
        (t.core c).reservation = (s.core c).reservation ∧ OtherCores c s t ∧ SameMemory s t)) ∧
  (∀ (c : CoreId) (e : Engine) (s : State), SameMemory s (s.catchUp c e) ∧ OtherCores c s (s.catchUp c e) ∧
    (s.core c).queue = ((s.catchUp c e).core c).queue ∧ (s.core c).aregs = ((s.catchUp c e).core c).aregs ∧
    (s.core c).tiles = ((s.catchUp c e).core c).tiles ∧ (s.core c).vregs = ((s.catchUp c e).core c).vregs ∧
    (s.core c).completed = ((s.catchUp c e).core c).completed ∧
    ((s.core c).unpaid e = [] → s.catchUp c e = s))

namespace Sys2Proof.Claims

/-- s is s₀ after its engine has been charged for what is due, and f is the oldest instruction in flight there, its charges paid, in
a context that is live and clocked. -/
structure Oldest (s₀ s : State) (c : Nat) (e : Engine) (f : InFlight) (fs : List InFlight) : Prop where
  caught : s = s₀.catchUp c e
  head : (s.core c).flight.get e = f :: fs
  live : (s₀.core c).live = true
  clocked : s₀.clocked c = true
  paid : f.charges = []

/-- The instruction has left its engine and is counted. -/
def Retired (s t : State) (c : Nat) (e : Engine) (fs : List InFlight) : Prop :=
  (t.core c).flight.get e = fs ∧ (t.core c).completed.get e = (s.core c).completed.get e + 1 ∧
  (t.core c).retired.get e = satCount ((s.core c).retired.get e + 1) ∧ (t.core c).queue = (s.core c).queue ∧
  (t.core c).aregs = (s.core c).aregs ∧ OtherCores c s t

/-- Lane i of n bits of a vector register. -/
def lane (v : BitVec 1024) (n i : Nat) : Nat := (v.toNat / 2 ^ (n * i)) % 2 ^ n

end Sys2Proof.Claims

/-- R190, R191, R198, R200, R201, R202, R203: MMA writes its tally's elements, starting from the tally or from zero, and one with K
zero leaves just that start; TIN writes the elements it reads, or adds them; TZERO zeroes the named tallies; PWIN changes
nothing more; TOUT in FP32 writes the tally's bits. The other tallies stay. Completes: instructionComplete.
The model's choices in it: log entries 17 and 24. -/
def Obligations.PressEffects : Prop :=
  ∀ (c : CoreId) (s₀ s : State) (f : InFlight) (fs : List InFlight), Oldest s₀ s c .press f fs →
    let w := f.q.word
    (wOp w = 1 → ∀ g, pressGroup (resolveFormat (mmaFmtA w) f.q.rung) (resolveFormat (mmaFmtB w) f.q.rung) = some g →
      After (.instructionComplete c .press) s₀ fun t => Retired s t c .press fs ∧ (g ≠ .i8 → SameMemory s t) ∧
        (t.core c).vregs = (s.core c).vregs ∧
        (∀ i < 16, i ≠ mmaTd w → ∀ e < 1024, (t.core c).tile i e = (s.core c).tile i e) ∧
        (∀ e < 1024, (t.core c).tile (mmaTd w) e = (s.mmaElement c f g
          (resolveFormat (mmaFmtA w) f.q.rung) (resolveFormat (mmaFmtB w) f.q.rung) (g.blocks (f.q.reg 2).toNat) e).1) ∧
        ((f.q.reg 2).toNat = 0 → ∀ e < 1024, (t.core c).tile (mmaTd w) e =
          if bitOf w.toNat 26 then (s.core c).tile (mmaTd w) e else 0)) ∧
    (wOp w = 2 → toutFmt w = 0 → toutInt w = false → toutGauge w = none →
      After (.instructionComplete c .press) s₀ fun t => Retired s t c .press fs ∧
        (∀ e < 1024, t.readLe (s.allocBase c + (f.q.reg 0).toNat + 4 * e) 4 = ((s.core c).tile (toutTs w) e).toNat) ∧
        (∀ a, (a < s.allocBase c + (f.q.reg 0).toNat ∨ s.allocBase c + (f.q.reg 0).toNat + 4096 ≤ a) →
          t.byte a = s.byte a) ∧
        ∀ e < 1024, (t.core c).tile (toutTs w) e = if bitOf w.toNat 25 then 0 else (s.core c).tile (toutTs w) e) ∧
    (wOp w = 3 → After (.instructionComplete c .press) s₀ fun t => Retired s t c .press fs ∧
      (bitsOf w.toNat 39 36 = 0xC → bitOf w.toNat 35 = false → SameMemory s t ∧ ∀ e < 1024,
        (t.core c).tile (mmaTd w) e = BitVec.ofNat 32 (s.readLe (s.allocBase c + (f.q.reg 0).toNat + 4 * e) 4)) ∧
      (bitsOf w.toNat 39 36 = 0 → SameMemory s t ∧ ∀ e < 1024, (t.core c).tile (mmaTd w) e =
        let x := vF32 (BitVec.ofNat 32 (s.readLe (s.allocBase c + (f.q.reg 0).toNat + 4 * e) 4))
        f32 .rne (if bitOf w.toNat 35 then (vF32 ((s.core c).tile (mmaTd w) e)).add x else x)) ∧
      ∀ i < 16, i ≠ mmaTd w → ∀ e < 1024, (t.core c).tile i e = (s.core c).tile i e) ∧
    (wOp w = 4 → After (.instructionComplete c .press) s₀ fun t => Retired s t c .press fs ∧ SameMemory s t ∧
      ∀ i < 16, ∀ e < 1024, (t.core c).tile i e = if bitOf w.toNat (38 + i) then 0 else (s.core c).tile i e) ∧
    (wOp w = 5 → After (.instructionComplete c .press) s₀ fun t => Retired s t c .press fs ∧ SameMemory s t ∧
      (t.core c).tiles = (s.core c).tiles)

/-- R225, R227: VLD, VST, VGET and VPUT move 128 bytes between the allocation and a register, and 32 elements between a tally and
a register. -/
def Sys2Proof.Claims.VectorMoves : Prop :=
  ∀ (c : CoreId) (s₀ s : State) (f : InFlight) (fs : List InFlight), Oldest s₀ s c .vector f fs →
    let w := f.q.word
    let off := (f.q.reg 0 + sext64 32 (bitsOf w.toNat 43 12)).toNat
    let elem := fun i => if bitOf w.toNat 39 then i * 32 + bitsOf w.toNat 44 40 else bitsOf w.toNat 44 40 * 32 + i
    (wOp w = 2 → After (.instructionComplete c .vector) s₀ fun t => Retired s t c .vector fs ∧ SameMemory s t ∧
      (t.core c).vreg (wA w) = BitVec.ofNat 1024 (s.readLe (s.allocBase c + off) 128) ∧
      (∀ v, v ≠ wA w → (t.core c).vreg v = (s.core c).vreg v) ∧ (t.core c).tiles = (s.core c).tiles) ∧
    (wOp w = 3 → After (.instructionComplete c .vector) s₀ fun t => Retired s t c .vector fs ∧
      t.readBytes (s.allocBase c + off) 128 = leBytes 128 ((s.core c).vreg (wA w)).toNat ∧
      (∀ a, (a < s.allocBase c + off ∨ s.allocBase c + off + 128 ≤ a) → t.byte a = s.byte a) ∧
      (t.core c).vregs = (s.core c).vregs ∧ (t.core c).tiles = (s.core c).tiles) ∧
    (wOp w = 4 → After (.instructionComplete c .vector) s₀ fun t => Retired s t c .vector fs ∧ SameMemory s t ∧
      (∀ i < 32, lane ((t.core c).vreg (wA w)) 32 i = ((s.core c).tile (bitsOf w.toNat 48 45) (elem i)).toNat) ∧
      (∀ v, v ≠ wA w → (t.core c).vreg v = (s.core c).vreg v) ∧ (t.core c).tiles = (s.core c).tiles) ∧
    (wOp w = 5 → After (.instructionComplete c .vector) s₀ fun t => Retired s t c .vector fs ∧ SameMemory s t ∧
      (∀ i < 32, (t.core c).tile (bitsOf w.toNat 48 45) (elem i) = BitVec.ofNat 32 (lane ((s.core c).vreg (wA w)) 32 i)) ∧
      (∀ n e, e < 1024 → (n ≠ bitsOf w.toNat 48 45 ∨ ∀ i < 32, elem i ≠ e) → (t.core c).tile n e = (s.core c).tile n e) ∧
      (t.core c).vregs = (s.core c).vregs)

/-- R219, R222: lane arithmetic: an integer sum or difference without saturation wraps at the lane's width, the bitwise functions
work on every lane, and a compare gives ones or zeros. -/
def Sys2Proof.Claims.VectorLanes : Prop :=
  ∀ (c : CoreId) (s₀ s : State) (f : InFlight) (fs : List InFlight), Oldest s₀ s c .vector f fs → wOp f.q.word = 1 →
    let w := f.q.word
    let t := bitsOf w.toNat 33 30
    let n := laneWidth t
    let x := fun i => lane ((s.core c).vreg (bitsOf w.toNat 48 44)) n i
    let y := fun i => if bitOf w.toNat 21 then (f.q.reg 1).toNat % 2 ^ n else lane ((s.core c).vreg (bitsOf w.toNat 43 39)) n i
    let fn := bitsOf w.toNat 29 24
    let gives := fun (r : Nat → Nat) => After (.instructionComplete c .vector) s₀ fun u => Retired s u c .vector fs ∧
      SameMemory s u ∧ (∀ i < laneCount t, lane ((u.core c).vreg (bitsOf w.toNat 53 49)) n i = r i) ∧
      (∀ v, v ≠ bitsOf w.toNat 53 49 → (u.core c).vreg v = (s.core c).vreg v) ∧ (u.core c).tiles = (s.core c).tiles
    (3 ≤ t → t ≤ 8 → bitOf w.toNat 22 = false → fn = 0x20 → gives (fun i => (x i + y i) % 2 ^ n)) ∧
    (3 ≤ t → t ≤ 8 → bitOf w.toNat 22 = false → fn = 0x21 → gives (fun i => (x i + 2 ^ n - y i) % 2 ^ n)) ∧
    (t ≤ 8 → fn = 0x30 → gives (fun i => x i &&& y i)) ∧ (t ≤ 8 → fn = 0x31 → gives (fun i => x i ||| y i)) ∧
    (t ≤ 8 → fn = 0x32 → gives (fun i => x i ^^^ y i)) ∧ (t ≤ 8 → fn = 0x33 → gives (fun i => 2 ^ n - 1 - x i)) ∧
    (3 ≤ t → t ≤ 8 → fn = 0x25 → gives (fun i => if x i = y i then 2 ^ n - 1 else 0))

/-- R137, R173: when a region has reported an overflow, what it has not begun to issue leaves the queues; once what it let
through has completed, the rung rises, to 3 at most, and the body begins again. Completes:
regionOverflow, retryRestart. -/
def Sys2Proof.Claims.RegionRetry : Prop :=
  ∀ (c : CoreId) (s : State) (r : Region) (o : Overflow), (s.core c).region = some r → r.overflow = some o →
    (s.core c).live = true →
    (r.stopped = false → After (.regionOverflow c) s fun t => (t.core c).region = some { r with stopped := true } ∧
      (∀ e, (t.core c).queue.get e = ((s.core c).queue.get e).filter (fun q => decide (q.number < r.first.get e))) ∧
      (t.core c).flight = (s.core c).flight ∧ (t.core c).pc = (s.core c).pc ∧ OtherCores c s t ∧ SameMemory s t) ∧
    (r.stopped = true → (∀ e, (s.core c).completed.get e = (s.core c).dispatched.get e) → After (.retryRestart c) s fun t =>
      (t.core c).pc = r.rtry + 1 ∧ (t.core c).barriers = [] ∧ (t.core c).seqWait = .free ∧
      (t.core c).aregs = (s.core c).aregs ∧ (t.core c).tiles = (s.core c).tiles ∧ OtherCores c s t ∧
      ∃ r', (t.core c).region = some r' ∧ r'.rung = min 3 (r.rung + 1) ∧ r'.overflow = none ∧ r'.stopped = false ∧
        r'.rtry = r.rtry ∧ r'.target = r.target)

/-! ### Barges and memory errors -/

/-- R268, R270, R275: a linear barge inside the allocation whose ranges do not meet moves its bytes in order and nothing else; one
that failed a check moves nothing and faults its context with its detail. Completes:
bargeComplete, bargeFail. -/
def Sys2Proof.Claims.CoreBarges : Prop :=
  ∀ (c : CoreId) (s₀ s : State) (f : InFlight) (fs : List InFlight) (d : Desc), Oldest s₀ s c .barge f fs →
    f.desc = some d →
    let size := (s.core c).bankCount * 0x8000
    (f.stage = 0 → d.shape = 0 → d.source.toNat + d.l0 ≤ size → d.dest.toNat + d.l0 ≤ size → d.srcSpace = 1 → d.dstSpace = 1 → d.framed = false → d.signals = false →
      d.coherent = false → s.poison = [] →
      (d.source.toNat + d.l0 ≤ d.dest.toNat ∨ d.dest.toNat + d.l0 ≤ d.source.toNat) →
      After (.bargeComplete (.core c)) s₀ fun t => Retired s t c .barge fs ∧
        t.readBytes (s.allocBase c + d.dest.toNat) d.l0 = s.readBytes (s.allocBase c + d.source.toNat) d.l0 ∧
        (∀ a, (a < s.allocBase c + d.dest.toNat ∨ s.allocBase c + d.dest.toNat + d.l0 ≤ a) → t.byte a = s.byte a)) ∧
    (f.stage ≠ 0 → d.framed = false → After (.bargeFail (.core c)) s₀ fun t =>
      (t.core c).ctx = .faulted ∧ (t.core c).fault = some (BitVec.ofNat 16 (0x400 + f.stage)) ∧
      (t.core c).flight.barge.map (fun x => x.q) = fs.map (fun x => x.q) ∧ OtherCores c s t ∧ SameMemory s t)

/-- R269, R419: a ring barge that moves nothing, or that failed a check, ends with its completion record. -/
def Sys2Proof.Claims.RingBargeEnds : Prop :=
  ∀ (b : BasinId) (r : RingId) (k : ClusterId) (s : State) (x : RingBarge), s.ringHead b r k = some x → x.desc.framed = false →
    s.ringRuns x = true → x.shaped = true → x.charges = [] →
    (x.detail = 0 → x.desc.total = 0 →
      exec (.bargeComplete (.ring b r k)) s = .next ((s.dropRing x).complete x.ref ⟨0, 0, 0, 0, 0⟩)) ∧
    (x.detail ≠ 0 →
      exec (.bargeFail (.ring b r k)) s = .next ((s.dropRing x).complete x.ref ⟨3, 0x400 + x.detail, 0, 0, 0⟩))

/-- R262, R471: an access of a unit that caches translations uses the leaf it holds or the one the tables hold now, and the
tables' alone when it holds none or the same; a translation read is kept, a unit holds at most 2,048, and a cluster that is
admitted holds none.
The model's choices in it: log entry 13. -/
def Obligations.TranslationCaches : Prop :=
  (∀ (s : State) (u b va : Nat) (w : Bool),
    (s.cached u b va = none → s.accessVia (some u) b w va = s.accessFrom (some u) b w va) ∧
    (∀ e, s.cached u b va = some e →
      (s.leafFrom (some u) b va = .ok (e.size, e.leaf) → s.accessVia (some u) b w va = s.accessFrom (some u) b w va) ∧
      (u < 160 → va < 2 ^ 47 → (s.basin b).st ≠ .resetting → (s.accessVia (some u) b w va = s.accessFrom (some u) b w va ∨
        s.accessVia (some u) b w va = s.answersTo (some u) (leafAddress (s.sheetsFor (some u)) b e.size e.leaf va w)))) ∧
    (∀ l, s.leafFrom (some u) b va = .ok l → s.cached u b va = none → u < 160 → va < 2 ^ 47 →
      (s.basin b).st ≠ .resetting → (s.learn (some u) b va).cached u b va = some ⟨u, b, va / 2 ^ l.1, l.1, l.2⟩) ∧
    (∀ k, (s.tlb.filter (fun x => x.unit == k)).length ≤ 2048 →
      ((s.learn (some u) b va).tlb.filter (fun x => x.unit == k)).length ≤ 2048) ∧
    SameMemory s (s.learn (some u) b va) ∧ (s.learn (some u) b va).basins = s.basins) ∧
  (∀ (s : State) (k : ClusterId), ∀ x ∈ (s.admitCluster k).tlb, x.unit ≠ k.val)

/-- R282, R283, R284, R410: a load of poison traps with cause 19, the 64-byte address in ERR_HWADDR; the scrub counts corrected
errors, and poisons and reports a piece it cannot correct; a row with a third error within 24 hours is recorded for repair. Completes:
poisonLoadTrap, patrolScrub.
The model's choices in it: log entries 83 and 90. -/
def Obligations.PoisonAndScrub : Prop :=
  (∀ (h : HartId) (va : W64) (ba : BitVec 48) (s : State) (pa : Nat),
    s.translate ((complexOwner (s.sheetsOn (complexDie (h.val / 36))) (h.val / 36)).getD 8) false ba.toNat = .ok pa → s.poisoned pa = true →
    After (.poisonLoadTrap h va ba) s fun t => t = s.setHart h (t.hart h) ∧ (t.hart h).cause = some 19 ∧
      (t.hart h).xtval = va ∧ (t.hart h).hwValid = true ∧ (t.hart h).hwAddr.toNat = ba.toNat / 64 * 64) ∧
  (∀ (p d u : Nat) (s : State), s.memUnit (p * 64) = some (d, u) →
    exec (.patrolScrub p .clean) s = .next s ∧
    (After (.patrolScrub p .corrected) s fun t =>
      nget (fun _ => 0) (t.die d).memCe u = satCount (nget (fun _ => 0) (s.die d).memCe u + 1) ∧
      (∀ v, v ≠ u → nget (fun _ => 0) (t.die d).memCe v = nget (fun _ => 0) (s.die d).memCe v) ∧ t = s.setDie d (t.die d)) ∧
    (After (.patrolScrub p .uncorrectable) s fun t => p ∈ t.poison ∧ (∀ q ∈ s.poison, q ∈ t.poison) ∧
      (∃ e ∈ t.pkg.raised, (e.1.code = 0x0801 ∨ e.1.code = 0x0802) ∧ e.1.addr = BitVec.ofNat 64 (p * 64)) ∧ SameMemory s t)) ∧
  (∀ (k : Die) (row now a b : Nat), k.rowErrors = [(row, a), (row, b)] →
    (now - a < dayCycles → now - b < dayCycles → row ∈ (k.rowError row now).rowRepairs) ∧
    (dayCycles ≤ now - b → (k.rowError row now).rowRepairs = k.rowRepairs))

/-! ### Synchronisation -/

/-- R293, R294, R295: SSIG adds to its semaphore and SSET sets it; a sum above 65,535 leaves it and faults with detail 0x02; SWAIT
completes once the threshold is reached and subtracts, faulting with 0x01 when it would underflow. Completes:
instructionComplete, swaitSatisfied. -/
def Sys2Proof.Claims.Semaphores : Prop :=
  (∀ (c : CoreId) (s₀ s : State) (f : InFlight) (fs : List InFlight), Oldest s₀ s c .sync f fs →
    let w := f.q.word
    let i := bitsOf w.toNat 53 46
    let v := (s.sem c i).toNat
    (wOp w = 2 → v + bitsOf w.toNat 45 30 ≤ 65535 → After (.instructionComplete c .sync) s₀ fun t => Retired s t c .sync fs ∧
      t.sem c i = BitVec.ofNat 16 (v + bitsOf w.toNat 45 30) ∧ SameMemory s t) ∧
    (wOp w = 2 → 65535 < v + bitsOf w.toNat 45 30 → After (.instructionComplete c .sync) s₀ fun t =>
      (t.core c).ctx = .faulted ∧ (t.core c).fault = some 0x0502 ∧ t.sem c i = s.sem c i ∧ OtherCores c s t ∧
      SameMemory s t) ∧
    (wOp w = 3 → After (.instructionComplete c .sync) s₀ fun t => Retired s t c .sync fs ∧
      t.sem c i = BitVec.ofNat 16 (bitsOf w.toNat 45 30) ∧ SameMemory s t)) ∧
  (∀ (c : CoreId) (s : State) (f : InFlight) (fs : List InFlight), (s.core c).flight.sync = f :: fs →
    (s.core c).live = true → s.clocked c = true → wOp f.q.word = 1 →
    let w := f.q.word
    let i := bitsOf w.toNat 53 46
    let v := (s.sem c i).toNat
    (v < bitsOf w.toNat 45 30 → exec (.swaitSatisfied c) s = .next s) ∧
    (bitsOf w.toNat 45 30 ≤ v → bitsOf w.toNat 29 14 ≤ v → After (.swaitSatisfied c) s fun t =>
      Retired s t c .sync fs ∧ t.sem c i = BitVec.ofNat 16 (v - bitsOf w.toNat 29 14) ∧ SameMemory s t) ∧
    (bitsOf w.toNat 45 30 ≤ v → v < bitsOf w.toNat 29 14 → Faults (.swaitSatisfied c) c s 0x501))

/-- R298, R299: a remote signal is applied at its target or refused, and answered; one that would pass 65,535 faults its target. The
acknowledgement that returns completes the SRSIG in order, and a refused one faults the sender with detail 0x06; where the
sender's context has ended, it is dropped. Completes: remoteSignalArrival, srsigAck. -/
def Sys2Proof.Claims.RemoteSignals : Prop :=
  (∀ (c : CoreId) (s : State) (g : RemoteSignal) (gs : List RemoteSignal), s.signals = g :: gs → g.sender = c.val →
    g.answered = false →
    let fit := bsnHasCluster (s.sheetsOn (g.target / 256)) g.basin (g.target / 8) = true ∧
      s.clusterPresent (g.target / 8) = true ∧ (s.core g.target).live = true ∧ g.ident < (s.core g.target).semCount
    let v := (s.sem g.target g.ident).toNat
    (fit → v + g.inc ≤ 65535 → After (.remoteSignalArrival c) s fun t =>
      t.sem g.target g.ident = BitVec.ofNat 16 (v + g.inc) ∧ t.cores = s.cores ∧ SameMemory s t ∧
      t.signals = { g with answered := true, refused := false } :: gs) ∧
    (fit → 65535 < v + g.inc → After (.remoteSignalArrival c) s fun t =>
      t.sem g.target g.ident = s.sem g.target g.ident ∧ (t.core g.target).ctx = .faulted ∧
      (t.core g.target).fault = some 0x0502 ∧ OtherCores g.target s t ∧ SameMemory s t ∧
      t.signals = { g with answered := true, refused := true } :: gs) ∧
    (bsnHasCluster (s.sheetsOn (g.target / 256)) g.basin (g.target / 8) = false ∨ s.takesSignals g.target = false ∨
      s.clusterPresent (g.target / 8) = false ∨ (s.core g.target).semCount ≤ g.ident →
      After (.remoteSignalArrival c) s fun t => t.cores = s.cores ∧ t.clusters = s.clusters ∧ SameMemory s t ∧
        t.signals = { g with answered := true, refused := true } :: gs ∧
        (g.sender / 256 = g.target / 256 → t = { s with signals := t.signals }))) ∧
  (∀ (c : CoreId) (s : State) (g : RemoteSignal) (gs : List RemoteSignal) (f : InFlight), s.signals = g :: gs →
    g.sender = c.val → g.answered = true → g.acked = false →
    (g.number = none → exec (.srsigAck c) s = .next { s with signals := gs }) ∧
    (g.number = some f.q.number → (s.core c).flight.sync = [f] → (s.core c).live = true → wOp f.q.word = 4 →
      (f.q.reg 0).toNat ≠ c.val →
      (g.refused = false → After (.srsigAck c) s fun t => Retired s t c .sync [] ∧ t.signals = gs ∧ SameMemory s t) ∧
      (g.refused = true → After (.srsigAck c) s fun t => (t.core c).ctx = .faulted ∧
        (t.core c).fault = some 0x0506 ∧ t.signals = gs ∧ OtherCores c s t ∧ SameMemory s t)))

/-- R302, R305, R306: a line on which every member of a die that is not isolated has arrived releases: its generation counts,
departed members are forgotten, joiners become members and leavers leave, and a waiting instruction of a member is let on; a
core of an isolated die is left as it was. The core table is in canonical form (an invariant of the model). Completes:
kettleRelease. -/
def Sys2Proof.Claims.KettleRelease : Prop :=
  ∀ (k : LineId) (s : State), s.lineHigh k = true → s.lineUsed k = true → NMap.wf (fun _ => Core.reset) s.cores →
    After (.kettleRelease k) s fun t =>
      nget (fun _ => (0 : W32)) t.kettleGen k = nget (fun _ => (0 : W32)) s.kettleGen k + 1 ∧
      ((s.ghosts k).2 = 0 → t.ghosts k = (0, 0)) ∧
      (0 < (s.ghosts k).2 → nget (fun _ => false) t.kettleShort k = true) ∧ SameMemory s t ∧
      (∀ c, (s.die (c / 256)).isolated = true → t.core c = s.core c) ∧
      (∀ c, (s.die (c / 256)).isolated = false → (s.core c).flight.sync = [] →
        (t.core c).onLine k = ((s.core c).onLine k).released) ∧
      (∀ c old f, (s.die (c / 256)).isolated = false → (s.core c).flight.sync = old ++ [f] → wOp f.q.word = 0x11 →
        kLine f.q.word = k.val → f.stage = 1 → ((s.core c).onLine k).arrived = true → (s.ghosts k).2 = 0 →
        (t.core c).flight.sync = old ++ [{ f with stage := 2 }] ∧ (t.core c).onLine k = ((s.core c).onLine k).released)

/-- R302, R304, R311: KBAR records its arrival, KWAIT waits for the release, KJOIN and KLEAVE become pending; on a line the
context has no part in they fault with detail 0x05. Completes: engineIssue. -/
def Sys2Proof.Claims.KettleInstructions : Prop :=
  ∀ (c : CoreId) (s : State) (q : QInstr) (qs : List QInstr), (s.core c).queue.sync = q :: qs → s.mayIssue c .sync q = true →
    let line := bitsOf q.word.toNat 53 49
    let m := (s.core c).onLine line
    let issued := fun (m' : KMember) (stage : Nat) => After (.engineIssue c .sync) s fun t =>
      (t.core c).queue.sync = qs ∧ (∃ f, (t.core c).flight.sync = (s.core c).flight.sync ++ [f] ∧ f.q = q ∧ f.stage = stage) ∧
      (t.core c).onLine line = m' ∧ (t.core c).aregs = (s.core c).aregs ∧ OtherCores c s t ∧ SameMemory s t
    (wOp q.word = 0x10 → m.member = true → m.arrived = false → m.held = false →
      issued { m with arrived := true } (if bitOf q.word.toNat 48 then 1 else 2)) ∧
    (wOp q.word = 0x11 → m.member = true → issued m (if m.arrived || m.held then 1 else 2)) ∧
    (wOp q.word = 0x12 → bsnHasLine (s.sheetsOn (c.val / 256)) (s.core c).basin line = true → m.member = false →
      m.joinPending = false → issued { m with joinPending := true } 2) ∧
    (wOp q.word = 0x13 → m.member = true → m.joinPending = false → m.leavePending = false →
      issued { m with leavePending := true } 2) ∧
    ((wOp q.word = 0x10 ∨ wOp q.word = 0x11 ∨ wOp q.word = 0x13) → m.member = false → m.joinPending = false →
      Faults (.engineIssue c .sync) c s 0x505)

/-- R389: a die keeps the latest word of each source and passes a new sequence number on, once, to its other partners; it sends
its own word under the next number, and keeps it. R308, R309, R310: a context deadlocked for a whole window faults with detail
0x04, its wait graph kept. Completes: kettleUpdate, kettleUpdateResend, deadlockWindowExpiry. -/
def Sys2Proof.Claims.KettleUpdatesAndDeadlock : Prop :=
  (∀ (d src : DieId) (n : Byte) (w : W32) (s : State), s.dieIn d = true → d ≠ src → After (.kettleUpdate d src n w) s fun t =>
    nget (fun _ => (0xFFFFFFFF : W32)) (t.die d).kettleWords src = w ∧ (∀ j, j ≠ d.val → t.die j = s.die j) ∧
    t.cores = s.cores ∧ SameMemory s t ∧
    (nget (fun _ => none) (s.die d).kettleSeqs src = some n → t = s.setDie d (t.die d)) ∧
    (nget (fun _ => none) (s.die d).kettleSeqs src ≠ some n →
      t = (s.setDie d (t.die d)).forEach ((s.kettlePartners d).filter (· != src.val))
        (fun u p => u.sendOver d p (kettleMsg d p src n w)))) ∧
  (∀ (d : DieId) (s : State), s.dieIn d = true → After (.kettleUpdateResend d) s fun t =>
    (t.die d).kettleOwnSeq = (s.die d).kettleOwnSeq + 1 ∧ (∀ j, j ≠ d.val → t.die j = s.die j) ∧ t.cores = s.cores ∧
    nget (fun _ => (0xFFFFFFFF : W32)) (t.die d).kettleWords d = s.driveWord d ∧ SameMemory s t ∧
    t = (s.setDie d (t.die d)).forEach (s.kettlePartners d)
      (fun u p => u.sendOver d p (kettleMsg d p d ((s.die d).kettleOwnSeq + 1) (s.driveWord d)))) ∧
  (∀ (c : CoreId) (s : State), (s.core c).live = true → s.deadlocked c = true → After (.deadlockWindowExpiry c) s fun t =>
    (t.core c).ctx = .faulted ∧ (t.core c).fault = some 0x0504 ∧ (t.core c).deadlockGraph = s.waitGraph c ∧
    (t.cluster (c.val / 8)).deadlocks = satCount ((s.cluster (c.val / 8)).deadlocks + 1) ∧ OtherCores c s t ∧ SameMemory s t)

/-! ### Registers, hosts and rings -/

namespace Sys2Proof.Claims

/-- One message goes out, and nothing else differs. -/
def Sends (i : Instr) (s : State) (o : Out) : Prop := exec i s = .next { s with out := s.out ++ [o] }

/-- One message goes out, and nothing else differs but the endpoint's cached translations and the marks of blocks that are zero. -/
def Reads (i : Instr) (s : State) (o : Out) : Prop :=
  After i s fun t => { t with tlb := s.tlb, freeCount := s.freeCount, ddrMarks := s.ddrMarks } = { s with out := s.out ++ [o] }

/-- Vector v of basin b is raised, and nothing else differs: its host gets it, or the hart that its target names. -/
def Interrupts (i : Instr) (s : State) (b v : Nat) : Prop :=
  After i s fun t => t = { s with out := s.out ++ [interrupt s b v], harts := t.harts } ∧
    (bsnSelf (s.die s.pkg.head).active b = false → t.harts = s.harts) ∧
    (bsnSelf (s.die s.pkg.head).active b = true → (t.hart (s.basin b).irqTarget).sPending.contains (32 + v) = true) ∧
    ∀ h, h ≠ (s.basin b).irqTarget → t.hart h = s.hart h

/-- No Dalpa cache holds a copy of the line of an address. -/
def NoCopy (s : State) (pa : Nat) : Prop := ∀ e ∈ s.snoopLines, e.1 ≠ pa / 64

/-- A coherent write of bytes within one line: they stand at pa, no Dalpa copy of the line stays, the other lines are as they
were, and so are the line's other bytes where no cache held it. -/
def StoresLine (s t : State) (pa : Nat) (data : Bytes) : Prop :=
  t.readBytes pa data.length = data ∧ NoCopy t pa ∧ (∀ x, x / 64 ≠ pa / 64 → t.byte x = s.byte x) ∧
  (NoCopy s pa → ∀ x, (x < pa ∨ pa + data.length ≤ x) → t.byte x = s.byte x)

/-- Register misuse through the page of basin b: its bit, the error 0x0E02, and nothing else of any unit or memory. -/
def Misused (i : Instr) (s : State) (b : Nat) : Prop :=
  After i s fun t => t.basin b = { s.basin b with err := (s.basin b).err ||| 0x2 } ∧ OtherBasins b s t ∧ t.dies = s.dies ∧
    t.cores = s.cores ∧ t.checks = s.checks ∧ t.latches = s.latches ∧ SameMemory s t ∧
    ∃ e, e.1.code = 0x0E02 ∧ e.1.basin = BitVec.ofNat 8 b ∧ t.pkg.raised = s.pkg.raised ++ [e]

/-- An access on a path reaches this register. -/
def Reaches (s : State) (path : AccessPath) (addr : Nat) (r : RegAt) : Prop :=
  match path with
  | .page b => s.pageOpen b = true ∧ addr < 0x10000 ∧ s.pageTarget b addr = some r
  | .keeper _ => controlReg addr = some r
  | .mgmt => controlReg addr = some r ∧ bitOf (trustAdmin s.sheets) 8 = true ∧ s.mgmtUp = true

/-- The path's latches: the administrator window is a path of its own. -/
def latchPath (path : AccessPath) (addr : Nat) : Nat :=
  pathIndex path (decide (0x6000 ≤ addr) && decide (addr < 0x7000))

/-- A write of the register at an offset of the control page of a basin that is not resetting. -/
def PageWrites (s : State) (b : BasinId) (off : Nat) (v : W32) (p : State → Prop) : Prop :=
  s.pageOpen b = true → (s.basin b).st ≠ .resetting →
    After (.registerWrite (.page b) (BitVec.ofNat 52 off) 4 (v.setWidth 64)) s p

/-- Only the registers of basin b differ, and they are these. -/
def BasinIs (s t : State) (b : BasinId) (k : Basin) : Prop :=
  t.basin b = k ∧ OtherBasins b s t ∧ t.dies = s.dies ∧ t.cores = s.cores ∧ t.latches = s.latches ∧ SameMemory s t ∧
  t.pkg = s.pkg ∧ t.out = s.out

end Sys2Proof.Claims

/-- R491, R56: a 32-bit read of LO gives the low half and latches the high half for its own path; the read of HI that follows
gives the latch, whatever the counter does meanwhile, and changes nothing. No other latch and no register changes. Completes:
loReadLatch. -/
def Sys2Proof.Claims.RegisterPairs : Prop :=
  ∀ (path : AccessPath) (addr : BitVec 52) (s : State) (r : RegAt) (v : Nat), Reaches s path addr.toNat r →
    addr.toNat % 4 = 0 → r.off % 8 = 0 → s.pairAt r = some v →
    After (.loReadLatch path addr) s fun t =>
      t = { s with latches := t.latches, out := s.out ++ [.regData (BitVec.ofNat 32 v)] } ∧
      (∀ u : State, u.latches = t.latches → (u.pairAt r).isSome = true →
        u.read32 (latchPath path addr.toNat) { r with off := r.off + 4 } = some (v / 2 ^ 32 % 2 ^ 32, u)) ∧
      ∀ k, k ≠ latchKey (latchPath path addr.toNat) r → nget (fun _ => 0) t.latches k = nget (fun _ => 0) s.latches k

/-- R506, R492, R93, R100: register accesses over the management bus: an error and nothing else while bit 8 of the administrator
mask is clear; with it set, a 32-bit read gives a single register, or zero where nothing is listed; nothing at all while the
bus carries no commands. Completes: mctpControlAccess, loReadLatch, registerWrite, chkPop. -/
def Sys2Proof.Claims.ManagementRegisters : Prop :=
  (∀ (write : Bool) (addr : BitVec 52) (v : W32) (w : W64) (n : Nat) (u : CheckId) (s : State),
    (s.mgmtUp = true → bitOf (trustAdmin s.sheets) 8 = false →
      Sends (.mctpControlAccess write addr v) s .mctpError ∧ Sends (.loReadLatch .mgmt addr) s .mctpError ∧
      Sends (.registerWrite .mgmt addr n w) s .mctpError ∧ Sends (.chkPop .mgmt u) s .mctpError) ∧
    (s.mgmtUp = false → ∀ i ∈ [Instr.mctpControlAccess write addr v, .loReadLatch .mgmt addr, .registerWrite .mgmt addr n w,
      .chkPop .mgmt u], exec i s = .next s)) ∧
  (∀ (addr : BitVec 52) (v : W32) (s : State) (r : RegAt), s.mgmtUp = true → bitOf (trustAdmin s.sheets) 8 = true →
    addr.toNat % 4 = 0 →
    controlReg addr.toNat = some r → s.pairAt { r with off := r.off / 8 * 8 } = none →
    (∀ x, s.singleAt r = some x → Sends (.mctpControlAccess false addr v) s (.regData (BitVec.ofNat 32 x))) ∧
    (s.singleAt r = none → Sends (.mctpControlAccess false addr v) s (.regData 0)))

/-- R503, R504, R506, R507, R12: writes of the registers of a control page. A consumer index may not pass its producer; the error
bits clear where ones are written; the selects and the mailbox's request bytes take the value; read-only registers and the view
window take nothing; an unlisted offset or a misaligned access is misuse. Completes: registerWrite. -/
def Sys2Proof.Claims.ControlPageWrites : Prop :=
  ∀ (b : BasinId) (s : State) (v : W32),
    let k := s.basin b
    PageWrites s b 4 v (fun t => t.basin b = { k with err := if v &&& 0xFC01 = 0 then k.err &&& ~~~v
        else (k.err &&& ~~~v) ||| 2 } ∧ OtherBasins b s t ∧ t.cores = s.cores ∧ SameMemory s t) ∧
    (v &&& 0xFF00FF18 = 0 → PageWrites s b 0 v fun t => BasinIs s t b
      { k with mboxOverrun := k.mboxOverrun && !bitOf v.toNat 7, mboxDone := k.mboxDone && !bitOf v.toNat 6 }) ∧
    (s.pageOpen b = true → k.st ≠ .resetting →
      ((k.phaseLog.head - k.phaseLog.tail).toNat < (v - k.phaseLog.tail).toNat →
        Misused (.registerWrite (.page b) 0x204 4 (v.setWidth 64)) s b) ∧
      Misused (.registerWrite (.page b) 0x14 4 (v.setWidth 64)) s b ∧
      Misused (.registerWrite (.page b) 0x302 4 (v.setWidth 64)) s b ∧
      Misused (.registerWrite (.page b) 0x300 2 (v.setWidth 64)) s b ∧
      (∀ off, 0x340 ≤ off → off < 0x380 → off % 4 = 0 →
        exec (.registerWrite (.page b) (BitVec.ofNat 52 off) 4 (v.setWidth 64)) s = .next s) ∧
      (∀ r < 16, exec (.registerWrite (.page b) (BitVec.ofNat 52 (0x104 + 16 * r)) 4 (v.setWidth 64)) s = .next s)) ∧
    ((v - k.phaseLog.tail).toNat ≤ (k.phaseLog.head - k.phaseLog.tail).toNat → PageWrites s b 0x204 v fun t =>
      BasinIs s t b { k with phaseLog := { k.phaseLog with tail := v } }) ∧
    ((v - k.numLog.tail).toNat ≤ (k.numLog.head - k.numLog.tail).toNat → PageWrites s b 0x20C v fun t =>
      BasinIs s t b { k with numLog := { k.numLog with tail := v } }) ∧
    ((v - k.sumLog.tail).toNat ≤ (k.sumLog.head - k.sumLog.tail).toNat → PageWrites s b 0x214 v fun t =>
      BasinIs s t b { k with sumLog := { k.sumLog with tail := v } }) ∧
    (v &&& 0x04000000 = 0 → PageWrites s b 0x300 v fun t => BasinIs s t b { k with viewSelect := v &&& 0xE3FFFFFF }) ∧
    (v &&& 0x07F00000 = 0 → PageWrites s b 0x320 v fun t => BasinIs s t b { k with admSelect := v &&& 0xE00FFFFF }) ∧
    PageWrites s b 0x310 v (fun t => BasinIs s t b { k with epSelect := v }) ∧
    (∀ off, 0x1000 ≤ off → off < 0x2040 → off % 4 = 0 → PageWrites s b off v fun t =>
      BasinIs s t b { k with mboxReq := (t.basin b).mboxReq } ∧
      (List.range 4).map (fun i => nget (fun _ => 0) (t.basin b).mboxReq (off - 0x1000 + i)) = leBytes 4 v.toNat ∧
      ∀ j, (j < off - 0x1000 ∨ off - 0x1000 + 4 ≤ j) →
        nget (fun _ => 0) (t.basin b).mboxReq j = nget (fun _ => 0) k.mboxReq j)

/-- R417, R503, R505, R506: the doorbells of a page: a ring takes its producer index, stops when more entries are announced than
it holds, and is misuse when its count is 0; the interrupt forward and the check pop. Completes: ringDoorbell, bsnIrqFwd,
bsnChkPop, chkPop. -/
def Sys2Proof.Claims.Doorbells : Prop :=
  ∀ (b : BasinId) (s : State) (v : W32), s.pageOpen b = true → (s.basin b).st ≠ .resetting →
    (∀ r : RingId,
      let k := s.ring b r
      (k.count = 0 → Misused (.ringDoorbell b r v) s b) ∧
      (k.count ≠ 0 → (v - k.cons).toNat ≤ k.count → After (.ringDoorbell b r v) s fun t =>
        t.ring b r = { k with prod := v } ∧ (∀ q, q ≠ r.val → t.ring b q = s.ring b q) ∧ OtherBasins b s t ∧
        t.pkg = s.pkg ∧ t.out = s.out ∧ t.cores = s.cores ∧ SameMemory s t) ∧
      (k.count ≠ 0 → k.count < (v - k.cons).toNat → After (.ringDoorbell b r v) s fun t =>
        t.ring b r = { k with prod := v, stopped := true } ∧ (t.basin b).err.getLsbD (16 + r.val) = true ∧
        (∃ e ∈ t.pkg.raised, e.1.code = 0x0E01 ∧ e.1.basin.toNat = b.val) ∧ OtherBasins b s t ∧ t.cores = s.cores ∧
        SameMemory s t)) ∧
    (v.toNat ≤ 13 → Interrupts (.bsnIrqFwd b v) s b (18 + v.toNat)) ∧
    (13 < v.toNat → Misused (.bsnIrqFwd b v) s b) ∧
    (v.toNat < 72 → chkBasin s.sheets v.toNat = b.val → chkMode s.sheets v.toNat ≠ 0 →
      After (.bsnChkPop b v) s fun t =>
        t.check v.toNat = { s.check v.toNat with records := (s.check v.toNat).records.drop 1 } ∧
        (∀ u, u ≠ v.toNat → t.check u = s.check u) ∧ t.basins = s.basins ∧ t.cores = s.cores ∧ SameMemory s t) ∧
    ((72 ≤ v.toNat ∨ chkBasin s.sheets v.toNat ≠ b.val) → Misused (.bsnChkPop b v) s b) ∧
    (∀ u : CheckId, (s.die (checkDie u)).isolated = false →
      (s.adminBasin b = true → After (.chkPop (.page b) u) s fun t =>
        t.check u = { s.check u with records := (s.check u).records.drop 1 } ∧ (∀ w, w ≠ u.val → t.check w = s.check w) ∧
        t.basins = s.basins ∧ t.cores = s.cores ∧ SameMemory s t) ∧
      (s.adminBasin b = false → exec (.chkPop (.page b) u) s = .next s))

/-- R404, R405, R258, R264, R283, R424: what a host or a device below a root port gets of a basin's memory within one 64-byte
piece: the bytes, or a poisoned completion, or a failure with its bit; while a Dalpa cache holds the line, only that line may
be written back. A write stores its bytes and leaves no Dalpa copy of the line. Completes: hostRead, hostWrite,
deviceMemoryRequest. -/
def Sys2Proof.Claims.HostAndDeviceMemory : Prop :=
  ∀ (s : State) (b : BasinId) (addr : W64) (n pa line : Nat) (data : Bytes),
    let a := addr.toNat
    let h := s.hostUnit b
    0 < n → data.length = n → n ≤ 64 - a % 64 →
    (s.hostLive b = true → s.barReaches b a n = true → hostRegion a = .memory →
      (s.accessVia h b false a = .ok pa → s.accessVia h b false (a / 64 * 64) = .ok line →
        (NoCopy s line → s.poisoned pa = false → Reads (.hostRead b addr n) s (.readData b (s.readBytes pa n))) ∧
        (NoCopy s line → s.poisoned pa = true → Reads (.hostRead b addr n) s (.readPoisoned b (s.readBytes pa n))) ∧
        After (.hostRead b addr n) s fun t => (∀ x, x / 64 ≠ line / 64 → t.byte x = s.byte x) ∧ t.cores = s.cores) ∧
      (∀ d e, s.accessVia h b false a = .error d → s.accessVia h b false (a / 64 * 64) = .error e →
        After (.hostRead b addr n) s fun t => (t.basin b).err = (s.basin b).err ||| 0x4 ∧
          .unsupportedRequest b.val ∈ t.out ∧ SameMemory s t ∧ t.cores = s.cores) ∧
      (s.accessVia h b true a = .ok pa → After (.hostWrite b addr data) s fun t =>
        StoresLine s t pa data ∧ t.cores = s.cores ∧ t.basins = s.basins) ∧
      (∀ d, s.accessVia h b true a = .error d → After (.hostWrite b addr data) s fun t =>
        (t.basin b).err = (s.basin b).err ||| 0x8 ∧ SameMemory s t ∧ t.cores = s.cores)) ∧
    (s.hostLive b = true → s.barReaches b a n = false → After (.hostWrite b addr data) s fun t =>
        (t.basin b).err = (s.basin b).err ||| 0x8 ∧ SameMemory s t ∧ t.cores = s.cores) ∧
    (∀ g : SegId, s.deviceBasin g = some b.val →
      let u := dieUnit (4 + g.val / 16)
      let reads := Instr.deviceMemoryRequest g false addr n []
      let writes := Instr.deviceMemoryRequest g true addr 0 data
      (2 ^ 47 < a + n → Sends reads s (.deviceUr g) ∧ Sends writes s (.deviceUr g)) ∧
      (a + n ≤ 2 ^ 47 →
        (s.accessVia u b false a = .ok pa → s.accessVia u b false (a / 64 * 64) = .ok line → NoCopy s line →
          (s.poisoned pa = false → Reads reads s (.deviceData g (s.readBytes pa n))) ∧
          (s.poisoned pa = true → Reads reads s (.devicePoisoned g (s.readBytes pa n)))) ∧
        (∀ d, s.accessVia u b true a = .error d → Sends writes s (.deviceUr g)) ∧
        (s.accessVia u b true a = .ok pa → After writes s fun t =>
          StoresLine s t pa data ∧ t.cores = s.cores ∧ t.basins = s.basins)))

/-- R405, R424, R522, R504: a segment's link, its reset pin, its devices' interrupts and the configuration of an endpoint. A link
that goes down sets its owner's bit and raises vector 1. Completes: endpointLinkDown, perstNAssert, perstNRelease,
segmentLinkUp, pcieConfigRequest, deviceIrqFwd. -/
def Sys2Proof.Claims.PcieSegments : Prop :=
  ∀ (g : SegId) (s : State),
    let sheets := s.sheetsOn (4 + g.val / 16)
    ((s.segment g).linkUp = true → After (.endpointLinkDown g) s fun t =>
      t.segment g = { s.segment g with linkUp := false } ∧ (∀ h, h ≠ g.val → t.segment h = s.segment h) ∧
      (∃ e ∈ t.pkg.raised, e.1.code = 0x0E03 ∧ e.1.unit.toNat = g.val) ∧ t.cores = s.cores ∧ SameMemory s t ∧
      (∀ b, segmentOwner sheets g = some b → (t.basin b).err = (s.basin b).err ||| 0x80 ∧ interrupt s b 1 ∈ t.out) ∧
      (pcieRole sheets g = 2 → (∀ i < 4, 4 * (g.val / 4) + i ≠ g.val → (s.segment (4 * (g.val / 4) + i)).linkUp = false) →
        (t.cxlPort (g.val / 4)).present = false)) ∧
    ((s.segment g).linkUp = false → exec (.endpointLinkDown g) s = .next s) ∧
    (pcieRole sheets g = 1 → After (.perstNAssert g) s fun t =>
      t.segment g = { s.segment g with linkUp := false, perst := true } ∧ SameMemory s t ∧ t.cores = s.cores) ∧
    (pcieRole sheets g = 1 → exec (.perstNRelease g) s = .next (s.setSegment g { s.segment g with perst := false })) ∧
    (∀ b, segmentOwner sheets g = some b → (s.segment g).perst = false → s.dieIn (4 + g.val / 16) = true →
      s.pkg.pkgReady = true →
      exec (.segmentLinkUp g) s = .next (s.setSegment g
        { s.segment g with linkUp := true, released := decide (pcieRole sheets g = 2) }) ∧
      (pcieRole sheets g = 1 → (s.segment g).linkUp = true →
        (∀ v : W64, exec (.pcieConfigRequest g (.setBar0 v)) s =
          .next (s.setSegment g { s.segment g with bar0 := BitVec.ofNat 64 (v.toNat / 0x10000 * 0x10000) })) ∧
        (∀ n, 30 ≤ n → n ≤ 48 → After (.pcieConfigRequest g (.resizeBar2 n)) s fun t =>
          (t.segment g).bar2Log2 = n ∧ t = s.setSegment g (t.segment g)) ∧
        (∀ n, (n < 30 ∨ 48 < n) → exec (.pcieConfigRequest g (.resizeBar2 n)) s = .next s) ∧
        After (.pcieConfigRequest g .readId) s fun t => t = { s with out := t.out } ∧
          .cfgData g (BitVec.ofNat 64 (0x2E57 + 0x4120 * 2 ^ 16 + 0xA1 * 2 ^ 32 + 0x120000 * 2 ^ 40)) ∈ t.out ∧
          .cfgData g (BitVec.ofNat 64 (0x2E57 + (0x10 + b) * 2 ^ 16)) ∈ t.out)) ∧
    (∀ (q : CfgReq), s.pkg.pkgReady = false → Sends (.pcieConfigRequest g q) s (.rrs g)) ∧
    (∀ (b : Nat) (v : W32), s.deviceBasin g = some b →
      (v.toNat ≤ 13 → Interrupts (.deviceIrqFwd g v) s b (18 + v.toNat)) ∧
      (13 < v.toNat → Misused (.deviceIrqFwd g v) s b))

namespace Sys2Proof.Claims

/-- The next entry of ring r is e, it may be taken, and no taken entry carries its index. -/
structure Entry (s : State) (b r : Nat) (e : Bytes) : Prop where
  ready : s.ringReady b r = true
  entry : s.ringEntry b r = .ok e
  fresh : ∀ y ∈ (s.ring b r).taken, y.index ≠ (s.ring b r).cons
  fence : bitOf (entryFlags e) 0 = true → (s.ring b r).taken = []

/-- The entry was taken and its completion record written: its status and code, the producer index, the interrupt. -/
def Completes (s t : State) (b r : Nat) (x : RingRef) (status code : Nat) : Prop :=
  t.ring b r = { s.ring b r with cons := (s.ring b r).cons + 1, cplProd := (s.ring b r).cplProd + 1 } ∧
  OtherBasins b s t ∧ t.cores = s.cores ∧ t.dies = s.dies ∧ t.clusters = s.clusters ∧
  (bitOf x.flags.toNat 1 = true → interrupt s b (2 + r) ∈ t.out) ∧
  let slot := (s.ring b r).completion.toNat + 32 * ((s.ring b r).cplProd.toNat % (s.ring b r).count)
  ∀ pa, slot % 64 ≤ 32 → s.access b true slot = .ok pa →
    StoresLine s t pa (completionBytes x ⟨status, code, 0, 0, 0⟩ (s.time s.pkg.head)) ∧
    (bitOf x.flags.toNat 1 = false → NoCopy s pa → t.out = s.out)

end Sys2Proof.Claims

/-- R417, R418, R419, R276: a no-op completes with status 0, a malformed entry with status 4, one that cannot be read as failed
with the barge detail; a barge entry is put in flight, or ends failed when its cluster is not owned or absent or its
descriptor cannot be read, or waits while its engine moves 32. Completes: ringNoop, ringEntryMalformed, ringBarge.
The model's choices in it: log entry 30. -/
def Obligations.RingEntries : Prop :=
  ∀ (b : BasinId) (r : RingId) (s : State) (e : Bytes),
    (Entry s b r e →
      (entryType e = 0 → entryMalformed s.sheets b e = false → After (.ringNoop b r) s fun t =>
        Completes s t b r (s.entryRef b r e) 0 0) ∧
      (entryMalformed s.sheets b e = true → After (.ringEntryMalformed b r) s fun t =>
        Completes s t b r (s.entryRef b r e) 4 0) ∧
      (entryType e = 2 → entryMalformed s.sheets b e = false →
        let k := entryTarget e
        let owned := bsnHasCluster (s.sheetsOn (k / 32)) b k
        let y := s.entryRef b r e
        (owned = false → After (.ringBarge b r) s fun t => Completes s t b r y 3 0x405) ∧
        (owned = true → s.clusterPresent k = false → After (.ringBarge b r) s fun t => Completes s t b r y 3 0x409) ∧
        (owned = true → s.clusterPresent k = true →
          (∀ d, s.readVia (some k) b (entryAddr e) 128 = .error d → After (.ringBarge b r) s fun t =>
            Completes s t b r y 3 (0x400 + d)) ∧
          (∀ bs, s.readVia (some k) b (entryAddr e) 128 = .ok bs →
            (32 ≤ s.bargesMoved k → exec (.ringBarge b r) s = .next s) ∧
            (s.bargesMoved k < 32 → ((Desc.ofBytes bs).cls = 0 ∨ s.workHeld b k = false) →
              After (.ringBarge b r) s fun t =>
                (t.ring b r).cons = (s.ring b r).cons + 1 ∧ (t.ring b r).taken = (s.ring b r).taken ++ [y] ∧
                (∃ z ∈ t.ringBarges, z.ref = y ∧ z.cluster = k ∧ z.desc = Desc.ofBytes bs) ∧
                OtherBasins b s t ∧ SameMemory s t))))) ∧
    (∀ d, s.ringReady b r = true → s.ringEntry b r = .error d →
      (∀ y ∈ (s.ring b r).taken, y.index ≠ (s.ring b r).cons) → After (.ringEntryMalformed b r) s fun t =>
        Completes s t b r (s.entryRef b r []) 3 (0x400 + d))

/-! ### The sluice -/

namespace Sys2Proof.Claims

/-- Nothing waits in the sluice of a die: no work, no message that could not be placed, no bucket that a hold kept from opening. -/
structure Idle (s : State) (d : Nat) : Prop where
  work : (s.sluice d).work = []
  parked : (s.sluice d).parked = []
  opened : ∀ k ∈ s.buckets, k.die = d → k.ready = true → k.sent = true

/-- The sluice of die d takes the message: the basin is open, its sluice is idle and its balance covers the message's beats, and
the epoch is not stale. -/
structure Takes (s : State) (b : BasinId) (d : CDieId) (m : SluiceMsg) : Prop where
  ready : s.slcReady b d = true
  quiet : (s.basin b).slcQuiet = false
  idle : Idle s d
  beats : pieces64 m.data.length ≤ (s.sluice d).unreserved
  epoch : (s.flow (sluiceFlow b d m.member.toNat)).known = false ∨
    (m.epoch - (s.flow (sluiceFlow b d m.member.toNat)).epoch).toNat ≤ 127
  encoding : m.encoding.toNat < 4

/-- The message is for this die's own slice, from a member of the group, and the slice is not empty. -/
structure ForOwn (s : State) (b : BasinId) (d : CDieId) (m : SluiceMsg) : Prop where
  slice : m.slice.toNat = s.ownSlice b d
  member : m.member.toNat < slcP (s.sheetsOn d) b
  full : ∀ e, s.entryFor b m.bucket m.step = some e → s.lenOf b e m.slice.toNat ≠ 0

/-- The slice gathers at the message's own step, not in a replay and before its deadline. -/
structure Gathers (s : State) (b : BasinId) (d : CDieId) (m : SluiceMsg) (x : Slice) : Prop where
  current : s.current b d m.bucket = some x
  key : x.key = ⟨b, d, m.bucket, m.step, m.slice⟩
  st : x.st = .gathering
  replay : x.replay = false
  deadline : x.byDeadline = false

/-- The slice k now stands so. -/
def SliceNow (t : State) (k : SliceKey) (p : Slice → Prop) : Prop := ∃ z, t.sliceAt k = some z ∧ p z

/-- Units that no sluice command touches. -/
def BesideSluices (s t : State) : Prop :=
  t.cores = s.cores ∧ t.clusters = s.clusters ∧ t.dies = s.dies ∧ t.complexes = s.complexes ∧ t.segments = s.segments ∧
  t.ringBarges = s.ringBarges ∧ t.signals = s.signals

/-- No reception waits for a later step. -/
def NoneWaits (s : State) : Prop := ∀ z ∈ s.slices, z.st ≠ .empty

/-- A message that this die's member sends about its slice i of a bucket: the fields of its header and the CRC of its bytes. -/
def Speaks (s : State) (b : Nat) (bucket step : W32) (i : Nat) (m : SluiceMsg) : Prop :=
  m.bucket = bucket ∧ m.step = step ∧ m.slice = BitVec.ofNat 16 i ∧ m.crc = crc32c m.data ∧
  m.member = BitVec.ofNat 16 (slcMember (s.sheetsOn (i % 4)) b) ∧ m.epoch = (s.basin b).epoch ∧ m.slow = (s.basin b).slow

/-- The piece of work that sends a message, a 64-byte beat a sixteenth of a credit, none of it charged yet. -/
def sending (b kind target : Nat) (m : SluiceMsg) : SluiceJob :=
  ⟨b, charge (pieces64 m.data.length) 1 1 false, .send kind target m⟩

end Sys2Proof.Claims

/-- R316, R320: a step descriptor that fails a check is refused whole with the check's code; one that passes becomes active with
a bucket for each entry and die, and its entry stays taken until the step retires. Completes: sluiceStep. -/
def Sys2Proof.Claims.SluiceSteps : Prop :=
  ∀ (b : BasinId) (r : RingId) (s : State) (e x : Bytes), Entry s b r e → entryType e = 3 →
    entryMalformed s.sheets b e = false → s.basinRead b (entryAddr e) 128 = .ok x →
    let sane := field x 0 2 = 1 ∧ field x 2 1 ≤ 3 ∧ field x 3 1 ≤ 7 ∧ zeroAt x 0x5D 3 = true ∧ zeroAt x 0x68 24 = true ∧
      field x 4 4 ≠ 0 ∧ field x 4 4 ≤ 65536
    let usable := slcEnabled s.sheets b = true ∧ ∀ d < 4, s.sluicePresent d = true
    let refused := fun (code : Nat) => After (.sluiceStep b r) s fun t =>
      Completes s t b r (s.entryRef b r e) 1 code ∧ t.steps = s.steps ∧ t.buckets = s.buckets ∧ t.slices = s.slices
    (¬ sane → refused 1) ∧ (sane → ¬ usable → refused 2) ∧
    (sane → usable → BitVec.ofNat 64 (field x 8 8) ≠ (s.basin b).step → refused 3) ∧
    (sane → usable → BitVec.ofNat 64 (field x 8 8) = (s.basin b).step →
      (∀ y, (s.stepsOf b).getLast? = some y → (s.basin b).step = y.step + 1) → 2 ≤ (s.stepsOf b).length → refused 4) ∧
    (∀ desc, s.stepRefusal b x (s.entryRef b r e) = (none, desc) → desc.refetch = false → desc.replay = false →
      NoneWaits s → (∀ d < 4, Idle s d) →
      After (.sluiceStep b r) s fun t => t.steps = s.steps ++ [desc] ∧
        (t.ring b r).taken = (s.ring b r).taken ++ [s.entryRef b r e] ∧ (t.ring b r).cons = (s.ring b r).cons + 1 ∧
        (∀ i < desc.table.length, ∀ d < 4, ∃ k ∈ t.buckets,
          k.basin = b.val ∧ k.die = d ∧ k.entry = i ∧ k.step = desc.step ∧ k.sent = false ∧ k.done = false) ∧
        (t.basin b).slcQuiet = false ∧ BesideSluices s t)

/-- R319, R321, R343, R345: when the ready word names the step, the bucket opens, unless a turn holds it: each slice is to be
encoded, and is when its charge is paid. Without thinning the owner of a slice gets its gradient bytes unchanged, with their
CRC; the die's own slice opens and admits its own. Completes: bucketReady. -/
def Sys2Proof.Claims.SluiceSending : Prop :=
  ∀ (b : BasinId) (d : CDieId) (step : W32) (entry : Nat) (s : State) (x : StepDesc) (k : Bucket) (e : BucketEntry) (w : Bytes),
    s.stepAt b step = some x → s.bucketAt b d x.step entry = some k → x.table[entry]? = some e →
    s.buckets.filter (fun z => z.same k) = [k] → s.steps.find? (fun z => z.basin == b.val && z.step == x.step) = some x →
    s.basinRead b ((x.signals.getD d 0).toNat + 16 * entry) 8 = .ok w → BitVec.ofNat 32 (field w 0 4) = step →
    k.sent = false → k.done = false → k.ready = false → s.slcReady b d = true → Idle s d →
    let size := if e.fmt = 0 then 4 else 2
    let grads := fun (i : Nat) => s.basinRead b (e.grad.toNat + size * s.loOf b e i) (size * s.lenOf b e i)
    let each := encodeCharge (slcThinning (s.sheetsOn d) b)
    (s.slcHeld b d = true → After (.bucketReady b d step entry) s fun t => t = { s with buckets := t.buckets } ∧
      t.bucketAt b d x.step entry = some { k with ready := true }) ∧
    (s.slcHeld b d = false → s.dieSlices b d e ≠ [] → (s.sluice d).unreserved = 0 →
      After (.bucketReady b d step entry) s fun t => SameMemory s t ∧ BesideSluices s t ∧
        t.bucketAt b d x.step entry = some { k with ready := true, sent := true } ∧ (t.sluice d).waited = true ∧
        (t.sluice d).work = (s.dieSlices b d e).map (fun i =>
          ⟨b, charge (units32 (s.lenOf b e i)) each 1 false, .encode x.step entry i⟩)) ∧
    (∀ i bs, s.slcHeld b d = false → slcThinning (s.sheetsOn d) b = 0 → s.dieSlices b d e = [i] → i ≠ s.ownSlice b d →
      (s.sluice d).unreserved = units32 (s.lenOf b e i) → grads i = .ok bs → bs ≠ [] →
      After (.bucketReady b d step entry) s fun t => SameMemory s t ∧ BesideSluices s t ∧ ∃ m,
        (t.sluice d).work = [sending b 0 (i / 4) m] ∧ Speaks s b e.id x.low i m ∧ m.data = bs) ∧
    (let key : SliceKey := ⟨b, d, e.id, x.low, BitVec.ofNat 16 (s.ownSlice b d)⟩
     let len := s.lenOf b e (s.ownSlice b d)
     s.slcHeld b d = false → slcThinning (s.sheetsOn d) b = 0 → units32 len ≤ (s.sluice d).unreserved →
     s.dieSlices b d e = [s.ownSlice b d] → s.stepsOf b = [x] → x.replay = false → x.entryOf e.id = some e →
     (x.indexOf e.id).isSome = true → s.ownSlice b d < 65536 → s.sliceAt key = none → s.current b d e.id = none →
     s.carryOf b d e.id = none → slcMember (s.sheetsOn d) b < slcP (s.sheetsOn d) b →
     ∀ bs, grads (s.ownSlice b d) = .ok bs → bs.length = size * len →
     (e.fmt = 0 ∨ e.fmt = 1) → (slcPropagate (s.sheetsOn d) b = true ∨ (elems e.fmt.toNat bs).any nanF = false) →
     After (.bucketReady b d step entry) s fun t => SameMemory s t ∧ BesideSluices s t ∧ SliceNow t key fun z =>
       z.st = .gathering ∧ z.len = len ∧ z.seen = [slcMember (s.sheetsOn d) b] ∧ z.staging = [] ∧ z.admitted = [] ∧
       z.acc = List.replicate len 0 ∧
       z.admitting = some ⟨slcMember (s.sheetsOn d) b, (s.basin b).slow, false, e.fmt.toNat, bs⟩)

/-- R325, R327, R328, R331, R343, R345, R367: a contribution of a stale epoch, for another slice, with an encoding that is not
listed, with a wrong CRC or of a member seen before is counted and dropped, and so is every one while the basin takes none; a
good one is staged behind those before it, once its beats are charged; a marker is quarantined, or dropped where nothing is
quarantined. Completes: contributionReceived, quarantineMarker.
The model's choices in it: log entries 35, 36 and 37. -/
def Obligations.SluiceReception : Prop :=
  ∀ (b : BasinId) (d : CDieId) (m : SluiceMsg) (s : State), Idle s d →
    let f := s.flow (sluiceFlow b d m.member.toNat)
    let both := fun (p : State → Prop) => After (.contributionReceived b d m) s p ∧ After (.quarantineMarker b d m) s p
    ((s.slcReady b d = false ∨ (s.basin b).slcQuiet = true) → both fun t => t = s.countDrop d) ∧
    (s.slcReady b d = true → (s.basin b).slcQuiet = false → f.known = true → 127 < (m.epoch - f.epoch).toNat →
      both fun t => t = s.setFlow (sluiceFlow b d m.member.toNat) { f with stale := satCount (f.stale + 1) }) ∧
    (s.slcReady b d = true → (s.basin b).slcQuiet = false → f.known = false → 4 ≤ m.encoding.toNat → both fun t =>
      (t.sluice d).dropped = satCount ((s.sluice d).dropped + 1) ∧ t.slices = s.slices ∧ BesideSluices s t) ∧
    (s.slcReady b d = true → (s.basin b).slcQuiet = false → f.known = false → m.encoding.toNat < 4 →
      (s.sluice d).unreserved = 0 → m.data ≠ [] → crc32c m.data = m.crc → After (.contributionReceived b d m) s fun t =>
        (t.sluice d).work = [⟨b, charge (pieces64 m.data.length) 1 1 false, .take 0 m⟩] ∧ (t.sluice d).waited = true ∧
        t.slices = s.slices ∧ BesideSluices s t ∧ SameMemory s t) ∧
    (Takes s b d m →
      (crc32c m.data ≠ m.crc → After (.contributionReceived b d m) s fun t =>
        (t.sluice d).corrupt = satCount ((s.sluice d).corrupt + 1) ∧ t.slices = s.slices ∧ t.steps = s.steps ∧
        BesideSluices s t) ∧
      ((m.slice.toNat ≠ s.ownSlice b d ∨ slcP (s.sheetsOn d) b ≤ m.member.toNat) → crc32c m.data = m.crc →
        After (.contributionReceived b d m) s fun t =>
          (t.sluice d).dropped = satCount ((s.sluice d).dropped + 1) ∧ t.slices = s.slices ∧ t.steps = s.steps ∧
          BesideSluices s t) ∧
      (ForOwn s b d m → ∀ x, Gathers s b d m x →
        (crc32c m.data = m.crc → x.seen.contains m.member.toNat = true → After (.contributionReceived b d m) s fun t =>
          (t.sluice d).dropped = satCount ((s.sluice d).dropped + 1) ∧ BesideSluices s t ∧
          SliceNow t x.key fun z => z.seen = x.seen ∧ z.staging = x.staging ∧ z.acc = x.acc) ∧
        (∀ xs, crc32c m.data = m.crc → x.seen.contains m.member.toNat = false →
          decodeForm m.encoding.toNat x.len m.data = some xs →
          (slcPropagate (s.sheetsOn d) b = true ∨ xs.any nanF = false) → After (.contributionReceived b d m) s fun t =>
            SameMemory s t ∧ BesideSluices s t ∧ SliceNow t x.key fun z => z.st = .gathering ∧
              z.seen = x.seen ++ [m.member.toNat] ∧ z.acc = x.acc ∧ z.admitted = x.admitted ∧
              z.admitting.toList ++ z.staging = x.admitting.toList ++ x.staging ++
                [⟨m.member.toNat, m.slow, false, m.encoding.toNat, m.data⟩]) ∧
        (x.seen.contains m.member.toNat = false → slcPropagate (s.sheetsOn d) b = false →
          After (.quarantineMarker b d m) s fun t =>
            (t.sluice d).quarantined = satCount ((s.sluice d).quarantined + 1) ∧ BesideSluices s t ∧
            SliceNow t x.key fun z => z.seen = x.seen ++ [m.member.toNat] ∧ z.staging = x.staging ∧ z.acc = x.acc) ∧
        (x.seen.contains m.member.toNat = false → slcPropagate (s.sheetsOn d) b = true →
          After (.quarantineMarker b d m) s fun t =>
            (t.sluice d).quarantined = (s.sluice d).quarantined ∧ BesideSluices s t ∧
            (t.sluice d).dropped = satCount ((s.sluice d).dropped + 1) ∧
            SliceNow t x.key fun z => z.seen = x.seen ∧ z.staging = x.staging ∧ z.acc = x.acc)))

/-- R326, R327, R329, R339: an admitted contribution is added element by element; the quorum or the deadline closes the gate, and a
closed slice goes on only when its record has been written. Completes: admissionComplete, gateDeadline, collationRoom. -/
def Sys2Proof.Claims.SluiceGate : Prop :=
  ∀ (k : SliceKey) (s : State) (x : Slice), s.sliceAt k = some x → Idle s k.die →
    let onward := fun (z : Slice) => z.st = .closed ∨ z.st = .norming ∨ z.st = .updating
    (x.st = .gathering → x.replay = false →
      (∀ y xs, x.admitting = some y → s.sluicePresent k.die = true → x.byDeadline = false → y.member ≠ 0xFFFF →
        decodeForm y.encoding x.len y.form = some xs →
        let acc := (x.acc.zip xs).map (fun p => addF p.1 p.2)
        let quorum := slcQuorum (s.sheetsOn k.die) k.basin + boolBit x.carryIn
        (x.admitted.length + 1 < quorum → After (.admissionComplete k) s fun t =>
          SameMemory s t ∧ BesideSluices s t ∧ SliceNow t k fun z => z.st = .gathering ∧ z.acc = acc ∧
            z.admitted = x.admitted ++ [y.member] ∧ z.admitting.toList ++ z.staging = x.staging) ∧
        (quorum ≤ x.admitted.length + 1 → x.staging = [] →
          After (.admissionComplete k) s fun t => BesideSluices s t ∧ SliceNow t k fun z =>
            onward z ∧ z.acc = acc ∧ z.admitted = x.admitted ++ [y.member])) ∧
      (x.byDeadline = false →
        (x.admitting.isSome = true → exec (.gateDeadline k) s = .next (s.putSlice { x with byDeadline := true })) ∧
        (x.admitting = none → x.staging = [] → After (.gateDeadline k) s fun t => BesideSluices s t ∧
          SliceNow t k fun z => onward z ∧ z.acc = x.acc ∧
            z.admitted = x.admitted ∧ z.byDeadline = true ∧ (x.admitted = [] → z.skipped = true)))) ∧
    (∀ (t' : State) (off : Nat) (y : StepDesc), x.st = .closed → x.recorded = false → s.slcReady k.basin k.die = true →
      (s.sluice k.die).records = [] →
      s.slices.filter (fun z => z.key.basin == k.basin && z.key.die == k.die) = [x] →
      s.workOk (s.collBase k.basin k.die) = true → s.appendColl k.basin k.die (s.recordOf x false) = some (t', off) →
      s.stepAt k.basin k.step = some y → After (.collationRoom k.basin k.die) s fun t => BesideSluices s t ∧
        SliceNow t k fun z => z.recorded = true ∧ z.recAt = some off ∧ z.events = [] ∧ z.acc = x.acc ∧
          (y.normGate = false → z.st = .updating) ∧ (y.normGate = true → z.st = .norming ∨ z.st = .updating))

/-- R333, R343, R421: the norm tree: a child's partial is kept once, or waits while its step may still come; the total goes to
every slice that waits for it and, 40 bytes of shaping each, down the tree; a wait that runs out skips the update. Completes:
normPartial, normTotal, normWaitExpiry. -/
def Sys2Proof.Claims.SluiceNorm : Prop :=
  (∀ (b : BasinId) (step : W32) (member : W16) (q : W64) (s : State), s.slcReady b 0 = true → (s.basin b).slcQuiet = false →
    Idle s 0 →
    let drops := fun (i : Instr) => After i s fun t => (t.sluice 0).dropped = satCount ((s.sluice 0).dropped + 1) ∧
      t.norms = s.norms ∧ t.slices = s.slices ∧ BesideSluices s t
    let children := normChildren (slcP s.sheets b) (slcMember s.sheets b)
    (s.normAt b step = none → s.upcoming b step = false → drops (.normPartial b step member q)) ∧
    (s.normAt b step = none → s.upcoming b step = true → After (.normPartial b step member q) s fun t =>
      (∃ x, (t.sluice 0).parked = [x] ∧ x.basin = b.val ∧ x.kind = 3 ∧ x.msg.step = step ∧ x.msg.member = member ∧
        x.msg.data = leBytes 8 q.toNat) ∧ t.norms = s.norms ∧ t.slices = s.slices ∧ BesideSluices s t) ∧
    (s.normAt b step = none → drops (.normTotal b step q)) ∧
    ∀ n, s.normAt b step = some n →
      (n.sent = false → member.toNat ∈ children → (∀ e ∈ n.children, e.1 ≠ member.toNat) →
        After (.normPartial b step member q) s fun t => BesideSluices s t ∧
          ∃ n', t.normAt b step = some n' ∧ n'.children = ninsert n.children member.toNat q) ∧
      ((n.sent = true ∨ member.toNat ∉ children) → drops (.normPartial b step member q)) ∧
      (n.total = none → slcMember s.sheets b ≠ 0 → After (.normTotal b step q) s fun t => BesideSluices s t ∧
        (∃ n', t.normAt b step = some n' ∧ n'.total = some q) ∧
        ((s.sluice 0).normWait = [] → nget (fun _ => 0) (s.sluice 0).normSent b + 40 * children.length ≤ 256 →
          nget (fun _ => 0) (t.sluice 0).normSent b = nget (fun _ => 0) (s.sluice 0).normSent b + 40 * children.length ∧
          (t.sluice 0).normWait = []) ∧
        (216 < nget (fun _ => 0) (s.sluice 0).normSent b → ∀ c ∈ children, ∃ x ∈ (t.sluice 0).normWait,
          x.basin = b.val ∧ x.kind = 4 ∧ x.target = c ∧ x.msg.step = step ∧ x.msg.data = leBytes 8 q.toNat) ∧
        ∀ x ∈ s.slices, x.key.basin = b → x.key.step = step → x.st = .norming →
          SliceNow t x.key fun z => z.st = .updating ∧ z.total = some q)) ∧
  (∀ (k : SliceKey) (s : State) (x : Slice), s.sliceAt k = some x → x.st = .norming → Idle s k.die →
    After (.normWaitExpiry k) s fun t => BesideSluices s t ∧ SliceNow t k fun z =>
      z.st = .updating ∧ z.skipped = true ∧ z.acc = x.acc)

/-- R334-R338, R341, R343: an updated or skipped slice is to be sent to every other member and, with buddy shards, its moments to
the buddy, each once its beats are charged; it is done when all is sent and the buddy has acknowledged. A skipped slice sends
its parameters as they stood. Completes: updateComplete, mirrorAck. -/
def Sys2Proof.Claims.SluiceUpdate : Prop :=
  ∀ (k : SliceKey) (s : State) (x : Slice) (y : StepDesc) (e : BucketEntry), s.sliceAt k = some x →
    s.stepAt k.basin k.step = some y → y.entryOf k.bucket = some e → Idle s k.die →
    let sheets := s.sheetsOn k.die
    let others := (List.range (slcP sheets k.basin)).filter (· != slcMember sheets k.basin)
    let buddy := slcBuddy sheets k.basin && y.opt != 0
    (x.st = .updating → s.sluicePresent k.die = true → others ≠ [] → 0 < x.len → (s.sluice k.die).unreserved = 0 →
      After (.updateComplete k) s fun t => BesideSluices s t ∧
        (∃ m, Speaks s k.basin k.bucket k.step k.slice.toNat m ∧
          (t.sluice k.die).work.take others.length = others.map (fun i => sending k.basin 2 i m) ∧
          (x.skipped = true → ∀ bs, s.basinRead k.basin (e.params.toNat + 2 * s.loOf k.basin e k.slice.toNat) (2 * x.len) =
            .ok bs → m.data = bs)) ∧
        (buddy = false → (t.sluice k.die).work.length = others.length) ∧
        (buddy = true → ∃ m, Speaks s k.basin k.bucket k.step k.slice.toNat m ∧
          (t.sluice k.die).work.drop others.length = [sending k.basin 5 (memberBuddy sheets k.basin) m]) ∧
        SliceNow t k fun z => z.st = .broadcasting ∧ z.mirrored = !buddy ∧ z.acc = x.acc) ∧
    (x.st = .broadcasting → s.slcReady k.basin k.die = true → NoneWaits s → After (.mirrorAck k) s fun t =>
      BesideSluices s t ∧ SliceNow t k fun z => z.st = .done)

/-- R319, R337, R338: parameters of another owner's slice are written to this package's own area and count once; a bucket whose
slices have not all come within the broadcast wait completes as incomplete. Completes: parametersReceived,
broadcastWaitExpiry. -/
def Sys2Proof.Claims.SluiceBroadcast : Prop :=
  ∀ (b : BasinId) (d : CDieId) (s : State) (y : StepDesc) (n : Nat) (e : BucketEntry) (k : Bucket),
    (∀ m : SluiceMsg, Takes s b d m → s.stepAt b m.step = some y → y.indexOf m.bucket = some n →
      y.entryOf m.bucket = some e → s.bucketAt b d y.step n = some k → k.done = false → y.refetch = false →
      m.slice.toNat / 4 = m.member.toNat → m.slice.toNat % 4 = d.val → m.member.toNat < slcP (s.sheetsOn d) b →
      m.slice.toNat ≠ s.ownSlice b d → k.written.contains m.slice.toNat = false → m.data ≠ [] →
      m.data.length = 2 * s.lenOf b e m.slice.toNat →
      (crc32c m.data ≠ m.crc → After (.parametersReceived b d m) s fun t =>
        (t.sluice d).corrupt = satCount ((s.sluice d).corrupt + 1) ∧ t.buckets = s.buckets ∧ BesideSluices s t) ∧
      (crc32c m.data = m.crc → (∀ u < 72, chkMode (s.sheetsOn d) u ≠ 7) →
        (∃ j ∈ s.missing k e, j ≠ m.slice.toNat) → After (.parametersReceived b d m) s fun t =>
          t.bucketAt b d y.step n = some { k with written := k.written ++ [m.slice.toNat] } ∧
          (∀ a, t.byte a = (s.put b (e.params.toNat + 2 * s.loOf b e m.slice.toNat) m.data).byte a) ∧ BesideSluices s t)) ∧
    (∀ (step : W32), s.stepAt b step = some y → y.table[n]? = some e → s.bucketAt b d y.step n = some k →
      k.done = false → k.sent = true → s.slcReady b d = true → Idle s d → s.ownSlice b d ∉ s.missing k e →
      s.missing k e ≠ [] →
      (∃ k' ∈ s.buckets, k'.basin = b.val ∧ k'.step = y.step ∧ k'.done = false ∧ k'.same k = false) →
      y.basin = b.val → After (.broadcastWaitExpiry b d step n) s fun t =>
        t.bucketAt b d y.step n = some { k with done := true, status := 1 } ∧
        (t.sluice d).closed = satCount ((s.sluice d).closed + 1) ∧ BesideSluices s t ∧
        ∀ pa, let at_ := (y.signals.getD d 0).toNat + 16 * n + 8
          telNumeric (s.sheetsOn d) b = false → telNumeric s.sheets b = false → at_ % 64 ≤ 56 → s.access b true at_ = .ok pa →
          StoresLine s t pa (leBytes 4 y.low.toNat ++ leBytes 2 1 ++ leBytes 2 (min (s.missing k e).length 65535)))

/-- R341, R342: buddy shards: the buddy keeps its ward's moments with their step and sends its acknowledgement; it answers a
refetch with the parameters of its own area or with the copy and its step, and what it sends is installed. Completes:
momentMirror, refetchRequest, refetchData.
The model's choices in it: log entries 35 and 40. -/
def Obligations.SluiceBuddy : Prop :=
  ∀ (b : BasinId) (d : CDieId) (m : SluiceMsg) (s : State) (e : BucketEntry), Takes s b d m →
    slcBuddy (s.sheetsOn d) b = true → crc32c m.data = m.crc →
    let ward := memberWard (s.sheetsOn d) b
    let i := m.slice.toNat
    (s.entryFor b m.bucket m.step = some e → m.member.toNat = ward →
      (i = 4 * ward + d.val → m.data.length = 4 * s.lenOf b e i → m.data ≠ [] →
        After (.momentMirror b d m) s fun t => BesideSluices s t ∧ ⟨b, d, e, m.step⟩ ∈ t.wards ∧
          (∀ w ∈ t.wards, w.basin = b.val → w.die = d.val → w.entry.id = e.id → w.step = m.step) ∧
          ∃ u : State, u.ports = s.ports ∧ u.dies = s.dies ∧ u.basins = s.basins ∧ u.flows = (s.slcEpoch b d m).2.flows ∧
            t.ports = (u.sendPieces b d 5 ward (s.message b m.bucket m.step i 1 [])).ports) ∧
      (i % 4 = d.val → s.lenOf b e i ≠ 0 → (s.sluice d).unreserved = 1 →
        (∀ w, m.data = [1] → s.wards.find? (fun w => w.basin == b.val && w.die == d.val && w.entry.id == m.bucket) = some w →
          After (.refetchRequest b d m) s fun t => BesideSluices s t ∧ SameMemory s t ∧
            ∃ a, (t.sluice d).work = [sending b 7 ward a] ∧ Speaks s b m.bucket w.step i a ∧ a.data.head? = some 1) ∧
        (∀ bs, m.data = [0] → s.basinRead b (e.params.toNat + 2 * s.loOf b e i) (2 * s.lenOf b e i) = .ok bs →
          After (.refetchRequest b d m) s fun t => BesideSluices s t ∧ SameMemory s t ∧
            ∃ a, (t.sluice d).work = [sending b 7 ward a] ∧ Speaks s b m.bucket m.step i a ∧ a.data = 0 :: bs))) ∧
    (∀ (y : StepDesc) (n : Nat) (k : Bucket) (data : Bytes), s.stepsOf b = [y] → y.refetch = true →
      y.indexOf m.bucket = some n → y.entryOf m.bucket = some e → s.bucketAt b d y.step n = some k → k.done = false →
      m.member.toNat = memberBuddy (s.sheetsOn d) b → i % 4 = d.val → m.data = 0 :: data →
      s.lenOf b e i ≠ 0 → data.length = 2 * s.lenOf b e i → k.written.contains i = false →
      (∃ j ∈ s.missing k e, j ≠ i) →
      After (.refetchData b d m) s fun t => BesideSluices s t ∧
        t.bucketAt b d y.step n = some { k with written := k.written ++ [i] } ∧
        ∀ a, t.byte a = (s.put b (e.params.toNat + 2 * s.loOf b e i) data).byte a)

/-! ### The towpath -/

namespace Sys2Proof.Claims

/-- No port but p differs. -/
def OtherPorts (p : Nat) (s t : State) : Prop := ∀ q, q ≠ p → t.port q = s.port q

/-- Only port p, and it is k now; the messages o went out. -/
def PortIs (i : Instr) (s : State) (p : Nat) (k : Port) (o : List Out) : Prop :=
  After i s fun t => t.port p = k ∧ OtherPorts p s t ∧ t.out = s.out ++ o ∧ t.flows = s.flows ∧ t.pkg = s.pkg ∧
    t.basins = s.basins ∧ t.dies = s.dies ∧ t.cores = s.cores ∧ SameMemory s t

/-- The error code was raised for port p. -/
def PortRaised (t : State) (code : W16) (p : Nat) : Prop := ∃ e ∈ t.pkg.raised, e.1.code = code ∧ e.1.unit.toNat = p

/-- Only flow f differs, and it is k now; the messages o went out. -/
def FlowIs (i : Instr) (s : State) (f : Nat) (k : Flow) (o : List Out) : Prop :=
  After i s fun t => t.flow f = k ∧ (∀ g, g ≠ f → t.flow g = s.flow g) ∧ t.out = s.out ++ o ∧ t.ports = s.ports ∧
    t.pkg = s.pkg ∧ t.basins = s.basins ∧ t.dies = s.dies ∧ t.cores = s.cores ∧ SameMemory s t

/-- A control frame as a native port sends it. -/
def nativeControl (p kind : Nat) (seq flow alive : W16) (payload : Bytes) : Out :=
  .frame p (frameStream (controlFrame kind seq flow alive payload))

/-- The bytes are those of an undamaged frame of a kind. -/
def Brings (raw : Bytes) (kind : Nat) (f : TowFrame) : Prop := parseFrame raw = some f ∧ f.kind.toNat = kind

/-- Port p with a data frame in sequence in its buffer, which was empty. -/
def buffered (s : State) (p : Nat) (f : TowFrame) : State :=
  s.setPort p { s.port p with expSeq := (s.port p).expSeq + 1, nakOut := false, held := [f] }

end Sys2Proof.Claims

/-- R355-R360, R370: a down port's attempt, what ends it, the loss of a port, its fast retraining and its probation. Completes:
trainingAttempt, portTrained, portLoss, fastRetrainComplete, probationPassed, probationTimeout. -/
def Sys2Proof.Claims.PortStates : Prop :=
  ∀ (p : PortId) (s : State),
    let k := s.port p
    let sheets := s.sheetsOn (portDie p)
    (∀ shorted : Byte, s.pkg.pkgReady = true → k.st = .down → k.training = false → s.portHeld p = false →
      s.domainOn (6 * portDie p + 4) = true →
      (shorted &&& ~~~k.dcDisabled = 0 →
        PortIs (.trainingAttempt p shorted) s p { k with dcDisabled := k.dcDisabled ||| shorted, training := true } []) ∧
      (shorted &&& ~~~k.dcDisabled ≠ 0 → After (.trainingAttempt p shorted) s fun t =>
        t.port p = { k with dcDisabled := k.dcDisabled ||| shorted, training := true } ∧ OtherPorts p s t ∧
        PortRaised t 0x0902 p ∧ t.cores = s.cores ∧ SameMemory s t)) ∧
    (∀ o : TrainOutcome, k.st = .down → k.training = true →
      (k.dcDisabled = 0xFF → PortIs (.portTrained p o) s p { k with training := false, lastFail := 1 } []) ∧
      (k.dcDisabled ≠ 0xFF → o.locked &&& ~~~k.dcDisabled = 0 →
        PortIs (.portTrained p o) s p { k with training := false, lastFail := 2 } []) ∧
      (∀ w first good, s.trainVerdict p o = .inr (w, first, good) → After (.portTrained p o) s fun t =>
        (t.port p).width = w ∧ (t.port p).firstLane = first ∧ (t.port p).good = good ∧ (t.port p).training = false ∧
        (t.port p).peerSerial = o.peerSerial ∧ (t.port p).expSeq = 0 ∧ t.cores = s.cores ∧ t.dies = s.dies ∧
        ((k.everUp = true ∨ o.peerReturning = true ∨ k.quiesced = true) → (t.port p).st = .probation) ∧
        (k.everUp = false → o.peerReturning = false → k.quiesced = false → (t.port p).st = .up) ∧
        (towWidth sheets p < w → PortRaised t 0x0904 p))) ∧
    (∀ lost : Byte, (k.st = .up ∨ k.st = .probation) →
      (s.portNative p = true → k.good &&& ~~~lost ≠ 0 → After (.portLoss p lost) s fun t =>
        (t.port p).st = .fastRetrain ∧ (t.port p).good = k.good &&& ~~~lost ∧ (t.port p).fromUp = (k.st == .up) ∧
        t.cores = s.cores ∧ SameMemory s t) ∧
      ((s.portNative p = false ∨ k.good &&& ~~~lost = 0) → After (.portLoss p lost) s fun t =>
        (t.port p).st = .down ∧ (t.port p).replay = [] ∧ PortRaised t 0x0901 p ∧ t.cores = s.cores ∧ SameMemory s t)) ∧
    (∀ good : Byte, k.st = .fastRetrain →
      (After (.fastRetrainComplete p good false) s fun t => (t.port p).st = .down ∧ PortRaised t 0x0901 p ∧
        t.cores = s.cores ∧ SameMemory s t) ∧
      (∀ w first, widestGroup (towWidth sheets p) (k.good &&& good).toNat = some (w, first) →
        After (.fastRetrainComplete p good true) s fun t => (t.port p).st = (if k.fromUp then .up else .probation) ∧
          (t.port p).width = w ∧ (t.port p).firstLane = first ∧ t.cores = s.cores ∧ SameMemory s t)) ∧
    (k.st = .probation → k.quiesced = false →
      (towProbation sheets p ≤ k.probCount → After (.probationPassed p) s fun t =>
        (t.port p).st = .up ∧ (t.port p).everUp = true ∧ t.cores = s.cores ∧ SameMemory s t) ∧
      (k.probCount < towProbation sheets p → exec (.probationPassed p) s = .next s) ∧
      After (.probationTimeout p) s fun t => (t.port p).st = .down ∧ PortRaised t 0x0903 p ∧ t.cores = s.cores ∧
        SameMemory s t)

/-- R361-R365: a native frame is read back from its stream; a port delivers in sequence only: an earlier frame is discarded, a later
or damaged one NAKed once; a frame whose destination cannot take it stays in the buffer, one that has gone returns its
credits; acknowledgements free the replay buffer; a NAK replays in order, the 16th in a row is a loss; a reserved kind is
dropped and counted. Completes: dataFrame, ackCreditFrame, nakFrame, uncorrectableFrame, nakResendTimer, creditReturnTimer,
reservedFrameKind. -/
def Sys2Proof.Claims.LinkLayer : Prop :=
  (∀ f : TowFrame, f.payload.length ≤ 4096 → parseFrame (frameStream f) = some f ∧ (frameStream f).length % 16 = 0) ∧
  ∀ (p : PortId) (s : State), s.portNative p = true →
    let k := s.port p
    let nak := nativeControl p 3 k.expSeq 0 0 []
    k.st = .up →
      (∀ (raw : Bytes) (f : TowFrame), Brings raw 1 f →
        let room := k.heldCredits f.cls + frameCost f ≤ bufferCredits.getD f.cls.toNat 0
        (f.seq ≠ k.expSeq → (f.seq - k.expSeq).toNat < 0x8000 → k.nakOut = false →
          PortIs (.dataFrame p raw) s p { k with nakOut := true, naks := satCount (k.naks + 1) } [nak]) ∧
        (f.seq ≠ k.expSeq → ((f.seq - k.expSeq).toNat < 0x8000 → k.nakOut = true) → exec (.dataFrame p raw) s = .next s) ∧
        (f.seq = k.expSeq → ¬ room → k.nakOut = false →
          PortIs (.dataFrame p raw) s p { k with nakOut := true, naks := satCount (k.naks + 1) } [nak]) ∧
        (f.seq = k.expSeq → room → k.held = [] → f.slow = false →
          ((buffered s p f).arrive p f = none → exec (.dataFrame p raw) s = .next (buffered s p f)) ∧
          (k.returned.length = 4 → ∀ t', (buffered s p f).arrive p f = some t' → After (.dataFrame p raw) s fun t =>
            (t.port p).expSeq = k.expSeq + 1 ∧ (t.port p).nakOut = false ∧ (t.port p).held = [] ∧
            (t.port p).returned.getD f.cls.toNat 0 = k.returned.getD f.cls.toNat 0 + BitVec.ofNat 32 (frameCost f) ∧
            (f.flow.toNat < 0x4000 → OtherPorts p s t) ∧ t.cores = s.cores ∧ ∀ a, t.byte a = t'.byte a))) ∧
      (∀ raw : Bytes, parseFrame raw = none → k.nakOut = false → ∀ i ∈ [Instr.dataFrame p raw, .uncorrectableFrame p],
        PortIs i s p { k with fecUncorr := satCount (k.fecUncorr + 1), nakOut := true, naks := satCount (k.naks + 1) } [nak]) ∧
      (∀ (header payload : Bytes) (f : TowFrame), Brings (header ++ payload) 2 f → f.payload.length = 16 → k.waiting = [] →
        After (.ackCreditFrame p header payload) s fun t =>
          let counts := fun (c : Nat) => BitVec.ofNat 32 (field f.payload (4 * c) 4)
          (t.port p).replay = k.replay.filter (fun x => !((f.seq - x.frame.seq).toNat < 0x8000)) ∧
          (∀ c < 4, (t.port p).credits.getD c 0 =
            k.credits.getD c 0 + (counts c - k.peerReturned.getD c 0).toNat) ∧
          (t.port p).peerReturned = (List.range 4).map counts ∧ t.cores = s.cores) ∧
      (∀ (raw : Bytes) (f : TowFrame), Brings raw 3 f →
        (k.naksInRow < 15 → After (.nakFrame p raw) s fun t =>
          t.out = s.out ++ (k.replay.filter (fun x => (x.frame.seq - f.seq).toNat < 0x8000)).map
            (fun x => .frame p.val (frameStream x.frame)) ∧
          (t.port p).replay = k.replay ∧ (t.port p).naks = satCount (k.naks + 1) ∧ (t.port p).sendSeq = k.sendSeq ∧
          (t.port p).naksInRow = k.naksInRow + 1 ∧ OtherPorts p s t ∧ t.flows = s.flows ∧ t.cores = s.cores ∧ SameMemory s t) ∧
        (15 ≤ k.naksInRow → k.good ≠ 0 → After (.nakFrame p raw) s fun t => (t.port p).st = .fastRetrain ∧
          (t.port p).naksInRow = 0 ∧ t.cores = s.cores ∧ SameMemory s t)) ∧
      (k.nakOut = true → PortIs (.nakResendTimer p) s p { k with naks := satCount (k.naks + 1) } [nak]) ∧
      (k.held = [] → PortIs (.creditReturnTimer p) s p { k with sinceAck := 0 }
        [nativeControl p 2 (k.expSeq - 1) 0 0 (k.returned.flatMap (fun v => leBytes 4 v.toNat))]) ∧
      (∀ (raw : Bytes) (f : TowFrame), parseFrame raw = some f →
        (8 ≤ f.kind.toNat → PortIs (.reservedFrameKind p raw) s p { k with rxDrop := satCount (k.rxDrop + 1) } []) ∧
        (f.kind.toNat < 8 → exec (.reservedFrameKind p raw) s = .next s))

/-- R363, R366, R367: how a frame of a basin flow that comes in sequence is received on a native port: a duplicate and a stale
epoch are counted and dropped, a frame of a closed basin or a foreign flow is dropped; one that the ring has room for
advances the flow and the ring; one that it has no room for stays in the port's buffer. Completes: dataFrame. -/
def Sys2Proof.Claims.FlowReception : Prop :=
  ∀ (p : PortId) (s : State) (raw : Bytes) (x : TowFrame), s.portNative p = true → (s.port p).st = .up → Brings raw 1 x →
    x.seq = (s.port p).expSeq → frameCost x ≤ bufferCredits.getD x.cls.toNat 0 → (s.port p).held = [] → x.flow.toNat < 1024 →
    let f := x.flow.toNat
    let k := s.flow f
    let b := flowBasin s.sheets f
    ((flowEnabled s.sheets f = false ∨ portOwner s.sheets p ≠ some b ∨ (s.basin b).st ≠ .open) →
      After (.dataFrame p raw) s fun t => (t.port p).rxDrop = satCount ((s.port p).rxDrop + 1) ∧ t.flows = s.flows ∧
        (t.port p).held = [] ∧ t.basins = s.basins ∧ t.cores = s.cores ∧ SameMemory s t) ∧
    (flowEnabled s.sheets f = true → portOwner s.sheets p = some b → (s.basin b).st = .open → k.known = true →
      (127 < (x.epoch - k.epoch).toNat → After (.dataFrame p raw) s fun t =>
        t.flow f = { k with stale := satCount (k.stale + 1) } ∧ (t.port p).held = [] ∧ t.basins = s.basins ∧
        t.cores = s.cores ∧ SameMemory s t) ∧
      (x.epoch = k.epoch → x.alive ≠ k.expected → 32767 < (x.alive - k.expected).toNat → After (.dataFrame p raw) s fun t =>
        t.flow f = { k with dups := satCount (k.dups + 1) } ∧ (t.port p).held = [] ∧ t.basins = s.basins ∧
        t.cores = s.cores ∧ SameMemory s t) ∧
      (x.epoch = k.epoch → (x.alive - k.expected).toNat ≤ 32767 → s.recvRoom b f x = true →
        (x.alive = k.expected ∨ s.heldSomewhere x.flow k.expected = false) → After (.dataFrame p raw) s fun t =>
          (t.flow f).expected = x.alive + 1 ∧ (t.port p).held = [] ∧
          (t.flow f).gaps = (if x.alive = k.expected then k.gaps else satCount (k.gaps + 1)) ∧
          (t.recvRing b f).producer = ((s.recvRing b f).producer + (16 + x.payload.length + 63) / 64) % 2 ^ 32 ∧
          (∀ g, g ≠ f → t.flow g = s.flow g ∧ t.recvRing b g = s.recvRing b g) ∧ t.cores = s.cores) ∧
      (x.epoch = k.epoch → (x.alive - k.expected).toNat ≤ 32767 → s.recvRoom b f x = false → After (.dataFrame p raw) s fun t =>
        (t.port p).held = [x] ∧ (t.port p).expSeq = (s.port p).expSeq + 1 ∧ (t.port p).returned = (s.port p).returned ∧
        OtherPorts p s t ∧ t.flows = s.flows ∧ t.basins = s.basins ∧ t.cores = s.cores ∧ SameMemory s t))

/-- R366-R368, R377, R440: flows: the resume exchange, the sending of a message in frames of 4,096 bytes with the remainder last,
acknowledgements and NAKs in Ethernet mode, the end of the slow-water flag, and a port's quiesce. Completes: resumeQuery,
resumeAnswer, towpathSend, flowAckTimer, flowNakRepeat, flowGapTimeout, slowWaterHoldEnd, portQuiesce.
The model's choices in it: log entries 44, 45, 46 and 100. -/
def Obligations.Flows : Prop :=
  (∀ (p : PortId) (head crc payload : Bytes) (g : TowFrame) (flow last : W16) (epoch : Byte) (first : Bool) (s : State),
    s.portNative p = true → ((s.port p).st = .up ∨ (s.port p).st = .probation) →
    g.payload = resumePayload flow last epoch first → flow.toNat < 1024 →
    let k := s.flow flow.toNat
    let answer := fun (n : W16) => [nativeControl p 7 0 flow 0 (resumePayload flow n epoch false)]
    (Brings (head ++ crc ++ payload) 6 g → k.known = true → k.epoch = epoch → first = false →
      FlowIs (.resumeQuery p head crc payload) s flow.toNat k (answer (k.expected - 1))) ∧
    (Brings (head ++ crc ++ payload) 6 g → (k.known = false ∨ k.epoch ≠ epoch ∨ first = true) →
      FlowIs (.resumeQuery p head crc payload) s flow.toNat
        { k with known := true, epoch := epoch, expected := 0, first := true, nakOut := false } (answer 0xFFFF)) ∧
    (Brings (head ++ crc ++ payload) 7 g → k.port = some p.val → k.resuming = true →
      (s.basin (flowBasin s.sheets flow.toNat)).epoch = epoch → After (.resumeAnswer p head crc payload) s fun t =>
        (t.flow flow.toNat).resuming = false ∧ (t.flow flow.toNat).port = some p.val ∧
        (t.flow flow.toNat).unacked ++ (t.flow flow.toNat).pendingTx =
          k.unacked.filter (fun x => !((last - x.alive).toNat < 0x8000)) ++ k.pendingTx ∧
        (∀ g, g < 1024 → g ≠ flow.toNat → t.flow g = s.flow g) ∧ t.cores = s.cores)) ∧
  (∀ (b : BasinId) (r : RingId) (s : State) (e : Bytes), Entry s b r e → entryType e = 4 →
    entryMalformed s.sheets b e = false →
    (∀ d, s.basinRead b (entryAddr e) (entryLength e) = .error d → After (.towpathSend b r) s fun t =>
      Completes s t b r (s.entryRef b r e) 3 (0x400 + d)) ∧
    (∀ bs, s.basinRead b (entryAddr e) (entryLength e) = .ok bs → After (.towpathSend b r) s fun t =>
      let n := entryLength e / 4096 + 1
      let k := s.flow (entryTarget e)
      let k' := t.flow (entryTarget e)
      k'.next = k.next + BitVec.ofNat 16 n ∧ k'.msgs = k.msgs ++ [⟨s.entryRef b r e, entryLength e, n, 0⟩] ∧
      (k'.unacked ++ k'.pendingTx).flatMap (fun x => x.payload) =
        (k.unacked ++ k.pendingTx).flatMap (fun x => x.payload) ++ bs ∧
      (∀ g, g < 1024 → g ≠ entryTarget e → t.flow g = s.flow g) ∧ t.cores = s.cores)) ∧
  (∀ (p : PortId) (flow : FlowId) (s : State), s.ethernetUp p = true → flow.toNat < 1024 →
    let k := s.flow flow.toNat
    let tells := fun (kind : Nat) (alive : W16) (payload : Bytes) =>
      Out.frame p (s.wireBytes p flow.toNat (controlFrame kind 0 flow alive payload))
    (k.known = true → (s.port p).held = [] → (s.port p).pauseOut = 0 →
      Sends (.flowAckTimer p flow) s (tells 2 (k.expected - 1) (List.replicate 16 0))) ∧
    (k.known = true → k.nakOut = true → Sends (.flowNakRepeat p flow) s (tells 3 k.expected []) ∧
      FlowIs (.flowGapTimeout p flow) s flow.toNat { k with deliverGap := true } [])) ∧
  (∀ (b : BasinId) (s : State), (s.heldBelow b = false →
      exec (.slowWaterHoldEnd b) s = .next (s.setBasin b { s.basin b with slow := false })) ∧
    (s.heldBelow b = true → exec (.slowWaterHoldEnd b) s = .next s)) ∧
  (∀ (b : BasinId) (s : State) (a : Bytes), (s.basin b).st = .open → s.adminBasin b = true → Rings s b 0x18 a → a.length = 1 →
    (56 ≤ field a 0 1 → After (.portQuiesce b) s fun t => Replies s t b 1 0x01 [] ∧ OnlyReply s t b) ∧
    (field a 0 1 < 56 → After (.portQuiesce b) s fun t => (t.port (field a 0 1)).quiesced = true ∧
      (t.port (field a 0 1)).st = (if (s.port (field a 0 1)).st = .up then .probation else (s.port (field a 0 1)).st) ∧
      (t.port (field a 0 1)).probCount = 0 ∧ t.cores = s.cores))

/-- R371-R373: a port in Ethernet mode drops a datagram that is not for it, and treats a damaged frame in one as uncorrectable; a
gap in a flow is NAKed by its counter; it answers ARP and neighbour solicitations for its own address only, and a pause holds
its priorities. Completes: ethernetDatagram, arpRequest, neighborSolicitation, pauseFrame. -/
def Sys2Proof.Claims.EthernetPorts : Prop :=
  ∀ (p : PortId) (s : State), s.ethernetUp p = true →
    let k := s.port p
    let sheets := s.sheetsOn (portDie p)
    let dropped := fun (i : Instr) => PortIs i s p { k with rxDrop := satCount (k.rxDrop + 1) } []
    (∀ raw : Bytes,
      ((acceptDatagram sheets p raw = none ∨ beValue (raw.take 6) ≠ (Config.portMac p).toNat) →
        dropped (.ethernetDatagram p raw)) ∧
      (∀ a, acceptDatagram sheets p raw = some a → k.st = .up →
        ((parseFrame a.frame = none ∨ ∃ g, parseFrame a.frame = some g ∧ g.seq ≠ 0) →
          PortIs (.ethernetDatagram p raw) s p { k with fecUncorr := satCount (k.fecUncorr + 1) } []) ∧
        (∀ g, parseFrame a.frame = some g → g.seq = 0 →
          (g.kind = 0 → exec (.ethernetDatagram p raw) s = .next s) ∧
          (8 ≤ g.kind.toNat → dropped (.ethernetDatagram p raw)) ∧
          (let f := g.flow.toNat
           let b := flowBasin s.sheets f
           g.kind = 1 → f < 1024 → flowEnabled s.sheets f = true → portOwner s.sheets p = some b → (s.basin b).st = .open →
           (s.flow f).known = true → g.epoch = (s.flow f).epoch → (s.flow f).deliverGap = false → k.held = [] → k.pauseOut = 0 →
           g.alive ≠ (s.flow f).expected → (g.alive - (s.flow f).expected).toNat ≤ 32767 → (s.flow f).nakOut = false →
           After (.ethernetDatagram p raw) s fun t => t.flow f = { s.flow f with nakOut := true } ∧
             (∀ h, h ≠ f → t.flow h = s.flow h) ∧ (t.port p).held = [] ∧ t.basins = s.basins ∧ t.cores = s.cores ∧
             SameMemory s t ∧
             t.out = s.out ++ [.frame p (s.wireBytes p f (controlFrame 3 0 g.flow (s.flow f).expected []))])))) ∧
    (∀ target : Bytes,
      (towPort sheets p 3 1 = 4 → target = (towIp sheets p).take 4 → Sends (.arpRequest p target) s (.arpReply p)) ∧
      ((towPort sheets p 3 1 ≠ 4 ∨ target ≠ (towIp sheets p).take 4) → dropped (.arpRequest p target)) ∧
      (towPort sheets p 3 1 = 6 → target = towIp sheets p →
        Sends (.neighborSolicitation p target) s (.neighborAdvert p)) ∧
      ((towPort sheets p 3 1 ≠ 6 ∨ target ≠ towIp sheets p) → dropped (.neighborSolicitation p target))) ∧
    (∀ priorities : Byte, After (.pauseFrame p priorities) s fun t => (t.port p).paused = priorities ∧
      (t.port p).st = k.st ∧ OtherPorts p s t ∧ (k.st = .up → t.flows = s.flows) ∧ t.cores = s.cores ∧ SameMemory s t)

/-! ### Stitch links -/

namespace Sys2Proof.Claims

/-- No link but l differs. -/
def OtherLinks (l : Nat) (s t : State) : Prop := ∀ j, j ≠ l → t.link j = s.link j

/-- Only link l differs, and it is k now. -/
def LinkIs (i : Instr) (s : State) (l : Nat) (k : Link) : Prop := exec i s = .next (s.setLink l k)

/-- The group an end receives on when it echoes a mask: from the second attempt on, at most the last one. -/
def echoPick (s : State) (l : Nat) (mask : Nat) : Option (Nat × Nat) :=
  if (s.link l).width ≠ 0 ∧ groupGood mask ((s.link l).width, (s.link l).firstModule) = true then
    some ((s.link l).width, (s.link l).firstModule)
  else pickGroup (designWidth l) (if (s.link l).width = 0 then linkLimit s.sheets l else (s.link l).width) mask

/-- A message leaves die d at once, its units dealt over the modules of the link: where that link runs, has nothing waiting and holds
the credits; without the credits it waits there. -/
def Leaves (s t : State) (d : Nat) (m : StitchMsg) : Prop :=
  ∀ l, linkBetween d (s.nextDie d m.hdr.dst) = some l → d ≠ s.nextDie d m.hdr.dst →
    let second := (linkEnds l).1 != d
    let k := s.link l
    let e := k.side second
    k.st.carries = true → k.held = false → k.class3Only = false → e.waiting = [] →
    s.draining.contains (m.hdr.src.val, m.hdr.dst.val) = false →
    ((m.ahead = true ∨ (messageUnits m).length ≤ e.credits.getD (k.msgClass m) 0) →
      .units l second (dealUnits k.firstModule (max 1 k.width) e.unit (messageUnits m)) ∈ t.out ∧
      ((t.link l).side second).unit = e.unit + (messageUnits m).length ∧ ((t.link l).side second).waiting = []) ∧
    (m.ahead = false → e.credits.getD (k.msgClass m) 0 < (messageUnits m).length →
      ((t.link l).side second).waiting = [m])

/-- What only a message's reception and sending can change differs. -/
def StitchOnly (s t : State) : Prop :=
  t.cores = s.cores ∧ t.clusters = s.clusters ∧ t.dies = s.dies ∧ t.basins = s.basins ∧ t.pkg = s.pkg ∧ t.ports = s.ports

end Sys2Proof.Claims

/-- R380-R383, R390, R391: training: capability records, width echoes, lane faults and their retraining. Completes:
capabilityRecord, widthEcho, laneFault, stitchRetrainDone, stitchReservedType. -/
def Sys2Proof.Claims.LinkTraining : Prop :=
  ∀ (l : LinkId) (s : State),
    let k := s.link l
    (∀ (second : Bool) (r : Bytes), k.st = .training →
      let k' := if second then { k with record1 := some r } else { k with record0 := some r }
      (recordOk r = false → After (.capabilityRecord l second r) s fun t => (t.link l).st = .down ∧
        Raised t 0x0A05 ∧ OtherLinks l s t ∧ t.cores = s.cores ∧ SameMemory s t) ∧
      (recordOk r = true → (k'.record0 = none ∨ k'.record1 = none) → LinkIs (.capabilityRecord l second r) s l k') ∧
      (∀ a b, recordOk r = true → k'.record0 = some a → k'.record1 = some b → recordsMatch s.sheets l a b = false →
        After (.capabilityRecord l second r) s fun t => (t.link l).st = .down ∧ Raised t 0x0A05 ∧ OtherLinks l s t) ∧
      (∀ a b, recordOk r = true → k'.record0 = some a → k'.record1 = some b → recordsMatch s.sheets l a b = true →
        After (.capabilityRecord l second r) s fun t => (t.link l).st = .training ∧ OtherLinks l s t ∧ t.pkg = s.pkg ∧
          (t.link l).kettle = (field a 8 1 == 1 && field b 8 1 == 1) ∧
          ((t.link l).rate16 = true ↔ bitOf (commonRates s.sheets l a b) 1 = false))) ∧
    (∀ first second : BitVec 16, k.st = .training → k.first.waiting = [] → k.second.waiting = [] →
      let a := k.cut l first
      let b := k.cut l second
      (pickGroup (designWidth l) 1 (a &&& b) = none → After (.widthEcho l first second) s fun t =>
        (t.link l).st = .severed ∧ (t.link l).width = 0 ∧ Raised t 0x0A03 ∧ OtherLinks l s t) ∧
      (∀ narrowest ga gb, pickGroup (designWidth l) 1 (a &&& b) = some narrowest → echoPick s l a = some ga →
        echoPick s l b = some gb →
        (ga = gb → After (.widthEcho l first second) s fun t => (t.link l).st = .active ∧ (t.link l).width = ga.1 ∧
          (t.link l).firstModule = ga.2 ∧ OtherLinks l s t ∧ t.cores = s.cores ∧
          .widthEcho l false ga.1 a (if k.width = 0 then 1 else k.attempts + 1) ∈ t.out) ∧
        (ga ≠ gb → k.width ≠ 0 → 2 ≤ k.attempts → After (.widthEcho l first second) s fun t => (t.link l).st = .narrow ∧
          (t.link l).width = 1 ∧ Raised t 0x0A01 ∧ OtherLinks l s t) ∧
        (ga ≠ gb → (k.width = 0 ∨ k.attempts < 2) → After (.widthEcho l first second) s fun t =>
          (t.link l).st = .training ∧ (t.link l).attempts = (if k.width = 0 then 1 else k.attempts + 1) ∧
          (t.link l).width ≤ min ga.1 gb.1 ∧ OtherLinks l s t ∧ t.pkg = s.pkg))) ∧
    (∀ m : Fin 16, (k.st = .active ∨ k.st = .narrow) → m.val < designWidth l → k.bad.contains m.val = false →
      let lanes := if k.retraining.contains m.val then k.retraining else k.retraining ++ [m.val]
      LinkIs (.laneFault l m .stuck) s l { k with held := true, retraining := lanes } ∧
      After (.laneFault l m .retryThreshold) s fun t => (t.link l).held = true ∧ (t.link l).retraining = lanes ∧
        (t.link l).st = k.st ∧ OtherLinks l s t ∧ t.pkg = s.pkg ∧
        satCount (nget (fun _ => 0) k.retries m.val + stcThreshold s.sheets l + 1) ≤
          nget (fun _ => 0) (t.link l).retries m.val) ∧
    (∀ first second : BitVec 16, (k.st = .active ∨ k.st = .narrow) → k.retraining ≠ [] →
      let a := k.cut l first
      let b := k.cut l second
      ∀ narrowest g, pickGroup (designWidth l) 1 (a &&& b) = some narrowest →
        pickGroup (designWidth l) k.width a = some g → pickGroup (designWidth l) k.width b = some g →
        After (.stitchRetrainDone l true first second) s fun t => (t.link l).st = k.st ∧ (t.link l).width = g.1 ∧
          (t.link l).held = false ∧ (t.link l).retraining = [] ∧ OtherLinks l s t ∧ t.cores = s.cores) ∧
    (∀ type : Byte, (k.st = .active ∨ k.st = .narrow) →
      ((type = 0 ∨ 9 ≤ type.toNat) → LinkIs (.stitchReservedType l type) s l { k with rxDrop := satCount (k.rxDrop + 1) }) ∧
      (type ≠ 0 → type.toNat < 9 → exec (.stitchReservedType l type) s = .next s))

/-- R379, R385-R388, R258, R263, R283: a stream's units are restored from the modules they were dealt to. Requests at a die: passed
on along the route, or answered absent where none stands; their status decides; a good read returns the bytes of its pieces, a
good write stores the bytes its enables cover and nothing else, a bad one stores nothing; a completion ends its request.
Completes: stitchRead, stitchWrite, stitchCompletion. -/
def Sys2Proof.Claims.StitchTransactions : Prop :=
  (∀ (first n u : Nat) (us : List Bytes), 0 < n →
    restoreUnits first n us.length u (fun m => ((dealUnits first n u us).filter (fun x => x.1 == m)).map (fun x => x.2)) = us) ∧
  ∀ (d : DieId) (h : StitchHdr) (s : State), s.takes d h = true → h.src ≠ d →
    let reply := fun (status : Nat) (data : Bytes) => (⟨3, hdrReply h status, 0, data⟩ : StitchMsg)
    let answers := fun (i : Instr) (status : Nat) (data : Bytes) => After i s fun t =>
      Leaves s t d (reply status data) ∧ StitchOnly s t ∧ SameMemory s t
    let passes := fun (i : Instr) (m : StitchMsg) => After i s fun t => Leaves s t d m ∧ StitchOnly s t ∧ SameMemory s t
    (h.dst ≠ d → s.nextDie d h.dst ≠ 0xFF → passes (.stitchRead d h) ⟨1, h, 0, []⟩ ∧
      ∀ en data, passes (.stitchWrite d h en data) ⟨2, h, en, data⟩ ∧ passes (.stitchCompletion d h data) ⟨3, h, 0, data⟩) ∧
    (h.dst ≠ d → s.nextDie d h.dst = 0xFF → answers (.stitchRead d h) 1 [] ∧
      ∀ en data, answers (.stitchWrite d h en data) 1 []) ∧
    (h.dst = d →
      (s.requestStatus d h ≠ 0 → answers (.stitchRead d h) (s.requestStatus d h) [] ∧
        ∀ en data, answers (.stitchWrite d h en data) (s.requestStatus d h) []) ∧
      (s.requestStatus d h = 0 → (∀ a ∈ hdrPieces h, inControl d a = false) →
        (h.coherent = true → h.src.val < 4 ∧ ∀ a ∈ hdrPieces h, NoCopy s a) →
        answers (.stitchRead d h) (if (hdrPieces h).any s.poisoned then 3 else 0)
          ((hdrPieces h).flatMap (fun a => s.readBytes a 64))) ∧
      (s.requestStatus d h = 0 → h.coherent = true → 4 ≤ h.src.val → h.pieces = 0 → After (.stitchRead d h) s fun t =>
        (h.addr.toNat / 64, h.src.val) ∈ t.snoopLines ∧ t.cores = s.cores) ∧
      (∀ (en : W64) (data : Bytes), s.requestStatus d h = 0 → h.pieces = 0 → h.addr.toNat % 64 = 0 →
        inControl d h.addr.toNat = false → h.poisoned = false → data.length = 64 → After (.stitchWrite d h en data) s fun t =>
          t.cores = s.cores ∧ t.basins = s.basins ∧ t.pkg = s.pkg ∧
          (∀ i < 64, (h.part = true → bitOf en.toNat i = true) → t.byte (h.addr.toNat + i) = data.getD i 0) ∧
          (∀ a, (a < h.addr.toNat ∨ h.addr.toNat + 64 ≤ a) → t.byte a = s.byte a) ∧
          ((h.coherent = true → NoCopy s h.addr.toNat) → Leaves s t d (reply 0 []) ∧
            ∀ i < 64, h.part = true → bitOf en.toNat i = false → t.byte (h.addr.toNat + i) = s.byte (h.addr.toNat + i)) ∧
          (h.coherent = true → NoCopy t h.addr.toNat)) ∧
      (∀ (data : Bytes) (r : StitchReq),
        s.requests.find? (fun r => r.die == d.val && r.dst == h.src.val && r.tag == h.addr.setWidth 12) = some r →
        After (.stitchCompletion d h data) s fun t => t.requests = s.requests.erase r ∧ StitchOnly s t ∧ SameMemory s t ∧
          .stitchDone d r.tag (if 5 ≤ h.status.toNat then 2 else h.status.toNat) data ∈ t.out ∧
          (r.coherent = true → r.write = false → 4 ≤ d.val → h.status = 0 → data.length = 64 →
            ∃ e ∈ t.caches, e.line = r.addr.toNat / 64 ∧ e.die = d.val ∧ (e.dirty = false → e.data = data))))

/-- R263, R386: a snoop takes the line from the die's caches, unless it only downgrades it, and is answered; a line that is not held
answers without data, and a dirty one with its bytes; whether the harts have stored into a clean one is open. Dirty data is
written back whole. Completes: snoopRequest, snoopResponse. -/
def Sys2Proof.Claims.Snoops : Prop :=
  (∀ (d home : DieId) (line : BitVec 52) (kind : SnoopKind) (s : State), 4 ≤ d.val → home.val < 4 → s.dieIn d = true →
    let n := line.toNat / 64
    After (.snoopRequest d home line kind) s fun t =>
      t.snoopLines = (if kind = .downgrade then s.snoopLines else s.snoopLines.erase (n, d.val)) ∧
      (if kind = .downgrade then ∀ e, t.copyOf n d = some e → e.dirty = false else t.copyOf n d = none) ∧
      (∃ bs : Bytes, Leaves s t d
          ⟨6, { plainHdr d home with status := if bs = [] then 0 else 1, addr := line }, 0, bs⟩ ∧
        (s.copyOf n d = none → bs = []) ∧
        (∀ e, s.copyOf n d = some e → e.dirty = true → e.data.length = 64 → bs.length = 64)) ∧
      t.cores = s.cores ∧ t.requests = s.requests ∧ SameMemory s t) ∧
  (∀ (home : DieId) (line : BitVec 52) (data : Bytes) (s : State),
    let a := line.toNat / 64 * 64
    exec (.snoopResponse home line false data) s = .next s ∧
    (s.pieceStatus home a = 0 → inControl home a = false → data.length = 64 → After (.snoopResponse home line true data) s fun t =>
      t.readBytes a 64 = data ∧ (∀ x, (x < a ∨ a + 64 ≤ x) → t.byte x = s.byte x) ∧ t.cores = s.cores ∧
      t.snoopLines = s.snoopLines))

/-- R393, R26, R286, R394: a die that learns of a loss masks the lost die's kettle drive, ends its requests to it as absent, takes the
link down and reports 0x0A04; the first report isolates the lost die and puts the routes through it on their alternates. A
drained alternate gives way to the primary route. Completes: flitLossTimeout, isolationNotice, routeDrainComplete. -/
def Sys2Proof.Claims.DieLoss : Prop :=
  (∀ (d lost : DieId) (reason : Fin 3) (l : LinkId) (second : Bool) (s : State), d ≠ lost → s.dieIn d = true →
    let i := fun (b : Bool) => if b then Instr.flitLossTimeout l second else Instr.isolationNotice d lost reason
    ∀ b : Bool, (b = true → ((s.link l).st = .active ∨ (s.link l).st = .narrow) ∧
        linkEnds l = (if second then (d.val, lost.val) else (lost.val, d.val))) →
      After (i b) s fun t => (t.die lost).isolated = true ∧ lost.val ∈ (t.die d).kettleMask ∧
        (∀ r ∈ t.requests, ¬ (r.die = d.val ∧ r.dst = lost.val)) ∧
        (∀ r ∈ s.requests, r.die = d.val → r.dst = lost.val → .stitchDone d r.tag 1 [] ∈ t.out) ∧
        (∀ j, linkBetween d lost = some j → (s.link j).st ≠ .severed → (t.link j).st = .down) ∧
        ((s.die lost).isolated = false → Raised t 0x0A04 ∧ ∀ p ∈ lostRoutes lost, p ∈ t.alternates)) ∧
  (∀ (a b : DieId) (s : State), s.draining.contains (a.val, b.val) = true →
    (s.requests.any (fun r => r.die == a.val && r.dst == b.val) = false → After (.routeDrainComplete a b) s fun t =>
      t.draining = s.draining.erase (a.val, b.val) ∧ t.alternates = s.alternates.erase (a.val, b.val) ∧
      ((∀ m ∈ s.drainWait, ¬ (m.hdr.src = a ∧ m.hdr.dst = b)) → t = { s with draining := t.draining, alternates := t.alternates })) ∧
    (s.requests.any (fun r => r.die == a.val && r.dst == b.val) = true → exec (.routeDrainComplete a b) s = .next s))

/-! ### Power -/

/-- R48, R433, R434, R435, R447: a lock-cycle boundary: the next lock cycle begins at cycle 0, running timebases have counted what was
left of its 100 ticks, energy has grown, each granted cluster takes its next scale, and one that waited for credits ramps up; a cluster at
rest holds exactly its refill, its ramp falling to 1 after the sheet's count of quiet lock cycles. Completes: lockCycleBoundary. -/
def Sys2Proof.Claims.LockCycles : Prop :=
  ∀ (m : LockMeas) (s : State), After (.lockCycleBoundary m) s fun t =>
    t.lockCycle = s.lockCycle + 1 ∧ t.cyc = 0 ∧
    ((∀ d < 6, (s.die d).monitorFailed = []) → t.pkg.energy = satCount (s.pkg.energy + m.watts) ∧
      t.pkg.wattSum = s.pkg.wattSum + m.watts) ∧ t.pkg.wattCount = s.pkg.wattCount + 1 ∧
    (∀ d < 6, (s.die d).running = true → (s.die d).slew = 0 → s.cyc < 2200 →
      (t.die d).timebase = (s.die d).timebase + BitVec.ofNat 64 (100 - s.cyc / 22)) ∧
    (∀ d < 6, (s.die d).running = false → (t.die d).timebase = (s.die d).timebase) ∧
    (∀ k < 128, s.pkg.thermTrip = false → (s.cluster k).granted = true →
      (t.cluster k).scale = (if s.pkg.holdRises then min (s.cluster k).scale (s.cluster k).next else (s.cluster k).next) ∧
      ((s.cluster k).waited = true →
        (t.cluster k).ramp = if s.pkg.holdRises then (s.cluster k).ramp else min 8 ((s.cluster k).ramp + 1)) ∧
      (let full := refill16 (powCluster (s.sheetsOn (k / 32)) k) (s.cluster k).scale 8
       let quiet := if (s.cluster k).charged * 8 < full then (s.cluster k).quiet + 1 else 0
       (∀ c, c / 8 = k → (s.core c).ctx = .idle ∧ (s.core c).seqWait = .free) → s.ringBarges = [] → s.clusterWaits k = false →
        (s.cluster k).waited = false →
        (t.cluster k).unreserved = refill16 (powCluster (s.sheetsOn (k / 32)) k) (t.cluster k).scale (t.cluster k).ramp ∧
        (t.cluster k).ramp = if powIdle (s.sheetsOn (k / 32)) ≤ quiet then 1 else (s.cluster k).ramp)) ∧
    (s.pkg.thermTrip = true → (∀ k < 128, s.charges k = false) → t.clusters = s.clusters ∧ t.cores = s.cores)

/-- R436, R441, R442: an evaluation after at least 16 lock cycles: the mean power, the lower of the two caps, the package scale by the
stated rule, each die's thermal scale; the cap found unattainable after 64 periods at the floor; a die above 105 °C. None before 16
lock cycles, before PKG_READY or after a trip. Completes: governorEvaluation. -/
def Sys2Proof.Claims.GovernorEvaluation : Prop :=
  ∀ (temps : List (Option Nat)) (s : State),
    ((s.pkg.wattCount < 16 ∨ s.pkg.pkgReady = false ∨ s.pkg.thermTrip = true) →
      exec (.governorEvaluation temps) s = .next s) ∧
    (16 ≤ s.pkg.wattCount → s.pkg.pkgReady = true → s.pkg.thermTrip = false → After (.governorEvaluation temps) s fun t =>
      let w := s.pkg.wattSum / s.pkg.wattCount
      let c := min (powCap s.sheets) s.pkg.trayCap
      t.pkg.w = w ∧ t.pkg.c = c ∧ t.pkg.wattSum = 0 ∧ t.pkg.wattCount = 0 ∧ t.cores = s.cores ∧ SameMemory s t ∧
      (c < w → t.pkg.f = max 16 (s.pkg.f * c / w)) ∧ (w = c → t.pkg.f = s.pkg.f) ∧
      (w = 0 → 0 < c → t.pkg.f = min 256 (s.pkg.f + 32)) ∧
      (0 < w → w < c → t.pkg.f = min 256 (s.pkg.f + min 32 (s.pkg.f * (c - w) / w))) ∧
      (c < w → s.pkg.f = 16 → s.pkg.floorOver = 63 → s.pkg.capUnattainable = false →
        t.pkg.capUnattainable = true ∧ Raised t 0x0D01) ∧
      (w ≤ c → s.pkg.floorUnder = 63 → s.pkg.capUnattainable = true → t.pkg.capUnattainable = false) ∧
      (∀ d < 6, ∀ q, temps.getD d none = some q → 420 < q → t.pkg.overTemp = true ∧ (s.pkg.overTemp = false → Raised t 0x0D02)) ∧
      ∀ d < 6, (t.die d).temp = temps.getD d none ∧
        (t.die d).thermal = (match temps.getD d none with
          | none => 16
          | some q => if q < 380 then 256 else if q ≤ 420 then max 16 (256 - 6 * (q - 380)) else 16))

/-- R443-R448, R481: the trip stops every engine, port and complex; a lock cycle below 10 mV and the hourly trim; a failed monitor;
the tray's cap and the sensors, over a management path that is up. Completes: thermalTrip, hourlyTrim, powerMonitorFail, pldmSetCap,
pldmSensorRead.
The model's choices in it: log entries 77, 78 and 79. -/
def Obligations.PowerEvents : Prop :=
  (∀ (d : DieId) (s : State), s.pkg.thermTrip = false → s.pkg.phase ≠ .off → After (.thermalTrip d) s fun t =>
    t.pkg.thermTrip = true ∧ t.pkg.tripDie = d ∧ 460 ≤ t.pkg.tripTemp ∧ Raised t 0x0D03 ∧ t.ringBarges = [] ∧
    (∀ n < 32, t.pkg.domains.getD n false = false) ∧
    (∀ c, if (s.core c).ctx = .idle then (t.core c).ctx = .idle else (t.core c).ctx = .faulted ∧ (t.core c).fault = some 0x0D03) ∧
    (∀ k < 128, (t.cluster k).fenced = true ∧ (t.cluster k).granted = false) ∧
    (∀ x < 4, (t.complex x).running = false) ∧ (∀ p < 56, (t.port p).st = .off) ∧ SameMemory s t ∧ t.flash = s.flash) ∧
  (∀ (m : LockMeas) (s : State) (d mv : Nat), d < 4 → s.dieIn d = true → m.slack[d]? = some mv → mv < 10 →
    After (.lockCycleBoundary m) s fun t => (t.die d).freeboard = min 100 ((s.die d).freeboard + 10)) ∧
  (∀ s : State, s.pkg.pkgReady = true → After .hourlyTrim s fun t => t.cores = s.cores ∧ SameMemory s t ∧
    ∀ d < 4, s.dieIn d = true → ∀ v, (s.die d).leastSlack = some v →
      (v < 25 → (s.die d).freeboard < 100 → (t.die d).freeboard = min 100 ((s.die d).freeboard + 5)) ∧
      (v < 25 → (s.die d).freeboard = 100 → (t.die d).freeboard = 100 ∧ Raised t 0x0D04) ∧
      (25 ≤ v → v < 45 → (t.die d).freeboard = (s.die d).freeboard) ∧
      (45 ≤ v → 23 ≤ (s.die d).hourSlack.length → (∀ x ∈ (s.die d).hourSlack, 45 ≤ x) → 23 ≤ (s.die d).sinceFall →
        (t.die d).freeboard = max 35 ((s.die d).freeboard - 5)) ∧ (t.die d).leastSlack = none) ∧
  (∀ (rail : Fin 39) (s : State), s.pkg.phase ≠ .off →
    ((s.die (s.railDie rail)).monitorFailed.contains rail.val = false → After (.powerMonitorFail rail) s fun t =>
      (t.die (s.railDie rail)).monitorFailed = (s.die (s.railDie rail)).monitorFailed ++ [rail.val] ∧ Raised t 0x0D05 ∧
      t.cores = s.cores ∧ SameMemory s t) ∧
    ((s.die (s.railDie rail)).monitorFailed.contains rail.val = true → exec (.powerMonitorFail rail) s = .next s)) ∧
  (∀ (w : Nat) (s : State), s.pkg.phase = .ready → s.mgmtUp = true →
    (1200 ≤ w → w ≤ 3600 → exec (.pldmSetCap w) s =
      .next { s with pkg := { s.pkg with trayCap := w }, out := s.out ++ [.pldmResult 0] }) ∧
    ((w < 1200 ∨ 3600 < w) → Sends (.pldmSetCap w) s (.pldmResult 1)) ∧
    Sends (.pldmSensorRead .power) s (.pldmValue s.pkg.w) ∧ Sends (.pldmSensorRead .energy) s (.pldmValue s.pkg.energy) ∧
    Sends (.pldmSensorRead .packageScale) s (.pldmValue s.pkg.f) ∧
    ∀ d : CDieId, Sends (.pldmSensorRead (.freeboard d)) s (.pldmValue (s.die d).freeboard)) ∧
  (∀ (w : Nat) (q : PldmSensor) (s : State), s.mgmtUp = false →
    exec (.pldmSetCap w) s = .next s ∧ exec (.pldmSensorRead q) s = .next s)

/-! ### Faults and recovery -/

namespace Sys2Proof.Claims

/-- No log is full, so that no error is widened by R461. -/
def LogsOpen (s : State) : Prop :=
  (∀ d : DieId, fullLog 64 (s.die d).log = false) ∧ fullLog 256 s.pkg.log = false

/-- A recovery of this scope and unit is fenced. -/
def Fenced (t : State) (scope unit : Nat) : Prop := ∃ r ∈ t.pkg.recoveries, r.scope = scope ∧ r.unit = unit ∧ r.phase = .fenced

/-- The keepers have raised this error and not decided it yet. -/
def Awaits (s : State) (e : ErrEvent) : Prop := ∃ w, (e, w) ∈ s.pkg.raised

/-- No mailbox command of a basin waits for an answer. -/
def NoCommand (s : State) : Prop := ∀ b < 8, (s.basin b).mboxCmd = none

end Sys2Proof.Claims

/-- R451-R460: the decision: an error of scope none enters the history and nothing else; one with a scope begins a recovery of it and
fences it: a context stands, a cluster is fenced, a basin resets, a die is isolated, a package reset and a power cycle copy to flash first.
R283: a memory error of the row poisons its piece. Completes: recoveryDecision. -/
def Sys2Proof.Claims.RecoveryDecisions : Prop :=
  ∀ (e : ErrEvent) (s : State),
    (¬ Awaits s e → detectorCode e.code.toNat = false → exec (.recoveryDecision e) s = .next s) ∧
    (¬ Awaits s e → (e.code = 0x0801 ∨ e.code = 0x0802) → (s.memUnit (e.addr.toNat / 64 * 64)).isSome = true → LogsOpen s →
      After (.recoveryDecision e) s fun t => t.poisoned (e.addr.toNat / 64 * 64) = true ∧ SameMemory s t) ∧
    (Awaits s e → LogsOpen s →
      (s.firstScope e = none → After (.recoveryDecision e) s fun t => (∀ x ∈ t.pkg.raised, x ∈ s.pkg.raised) ∧
        t.pkg.raised.length + 1 = s.pkg.raised.length ∧
        (∃ x, t.pkg.history = ((if startLoss e.code.toNat then [x, x] else [x]) ++ s.pkg.history).take 4096 ∧
          x.code = e.code ∧ x.scope = 0xFE ∧ x.unit = e.unit) ∧
        t.cores = s.cores ∧ t.dies = s.dies ∧ SameMemory s t) ∧
      (s.pkg.recoveries = [] → s.pkg.cycleHeld = false →
        (∀ c, s.firstScope e = some ⟨0, c⟩ → After (.recoveryDecision e) s fun t => Fenced t 0 c ∨ Fenced t 1 (c / 8)) ∧
        (∀ k, s.firstScope e = some ⟨1, k⟩ → After (.recoveryDecision e) s fun t => Fenced t 1 k ∧
          (t.cluster k).fenced = true ∧ ∀ c, c / 8 = k → (t.core c).ctx = .idle ∨ (t.core c).ctx = .faulted) ∧
        (∀ b, s.firstScope e = some ⟨2, b⟩ → After (.recoveryDecision e) s fun t => Fenced t 2 b ∧
          (t.basin b).st = .resetting ∧ ∀ k < 128, bsnHasCluster s.sheets b k = true → (t.cluster k).fenced = true) ∧
        (∀ d, s.firstScope e = some ⟨3, d⟩ → After (.recoveryDecision e) s fun t => Fenced t 3 d ∧
          (t.die d).isolated = true ∧ ∀ p < 56, p / 14 = d → (t.port p).st = .off) ∧
        (e.code = 0x1005 → After (.recoveryDecision e) s fun t => t.pkg.copying = true ∧ (Fenced t 4 0 ∨ Fenced t 5 0)) ∧
        (s.firstScope e = some ⟨5, 0⟩ → After (.recoveryDecision e) s fun t => t.pkg.copying = true ∧ Fenced t 5 0)))

/-- R454, R455: a core whose sequencer makes no progress for the sheet's number of samples hangs, and its context faults. R472, R466: a
package reset is asked for over a management path that is up; a power cycle asserts CYCLE_REQ_N, or holds the package where the sheet
forbids it. R465, R466, R98: the flash sets and the copy before a package reset. Completes: hangSample, packageResetRequest,
powerCycleRequest, endpaperSetErase, endpaperFlashCopyDone. -/
def Sys2Proof.Claims.HangsAndRequests : Prop :=
  (∀ (d : DieId) (s : State) (c n : Nat), s.keeperLive d = true → c / 256 = d.val → (s.core c).ctx = .running →
    (s.core c).sampleSeq = ((s.core c).retiredSeq, n) → recQueue s.sheets ≤ n + 1 → After (.hangSample d) s fun t =>
      (t.core c).ctx = .faulted) ∧
  (∀ (d : DieId) (s : State), s.keeperLive d = false → exec (.hangSample d) s = .next s) ∧
  (∀ s : State, s.mgmtUp = true → ∃ e : ErrEvent, e.code = 0x1005 ∧ exec .packageResetRequest s =
    .next { s with pkg := { s.pkg with raised := s.pkg.raised ++ [(e, s.time (s.pkg.head % 6))] } }) ∧
  (∀ s : State, s.mgmtUp = false → exec .packageResetRequest s = .next s) ∧
  (∀ (s : State) (r : Recovery), s.pkg.recoveries = [r] → r.scope = 5 → r.phase ≠ .queued → s.pkg.copying = false →
    s.pkg.cycleReq = false → s.pkg.cycleHeld = false → After .powerCycleRequest s fun t =>
      .pldmEvent 0x1006 ∈ t.out ∧ t.pkg.domains = List.replicate 32 false ++ s.pkg.domains.drop 32 ∧
      (∀ p < 56, (t.port p).st = .off) ∧ (∀ k < 128, (t.cluster k).fenced = true) ∧ (∀ x < 4, (t.complex x).running = false) ∧
      t.pkg.cycleReq = !recNoCycle s.sheets ∧ t.pkg.cycleHeld = recNoCycle s.sheets) ∧
  (∀ s : State, (s.pkg.phase = .ready → s.pkg.copying = false →
      (s.setAIsCurrent = true → exec .endpaperSetErase s = .next (s.setPkg { s.pkg with setB := [] })) ∧
      (s.setAIsCurrent = false → (setSeqOf s.pkg.setB).isSome = true →
        exec .endpaperSetErase s = .next (s.setPkg { s.pkg with setA := [] })) ∧
      (s.setAIsCurrent = false → (setSeqOf s.pkg.setB).isSome = false → exec .endpaperSetErase s = .next s)) ∧
    ((s.pkg.phase ≠ .ready ∨ s.pkg.copying = true) → exec .endpaperSetErase s = .next s)) ∧
  (∀ (ok : Bool) (s : State) (r : Recovery), s.pkg.recoveries = [r] → r.phase ≠ .queued → s.pkg.copying = true →
    (r.scope = 5 → After (.endpaperFlashCopyDone ok) s fun t => t.pkg.copying = false ∧
      (ok = true → s.setAIsCurrent = true → t.pkg.setA = s.pkg.setA ∧
        setSeqOf t.pkg.setB = some ((setSeqOf s.pkg.setA).getD 0 + 1)) ∧
      (ok = true → s.setAIsCurrent = false → t.pkg.setB = s.pkg.setB ∧
        setSeqOf t.pkg.setA = some ((setSeqOf s.pkg.setB).getD 0 + 1)) ∧
      (ok = false → t.pkg.setA = s.pkg.setA ∧ t.pkg.setB = s.pkg.setB ∧ .pldmEvent 0x1004 ∈ t.out) ∧ t.cores = s.cores) ∧
    (r.scope = 4 → After (.endpaperFlashCopyDone ok) s fun t => t.pkg.pkgReady = false ∧ (∀ c, t.core c = .reset) ∧
      (∀ a, t.byte a = unlistedByte a) ∧ t.pkg.recoveries = [] ∧ (∀ x ∈ t.pkg.refaults, x.kind = 3) ∧
      ∀ d < 4, (t.die d).spineRegion = if ok then [] else (s.die d).spineRegion))

/-- R94, R457, R459, R462, R470, R471: a recovery's course: its endpapers are stored, its unit is reset and wiped, the unit returns to
service, a die with the timebase of its first partner that is not isolated (R54), and a reset that does not end in its time is widened.
Completes: endpaperStored, resetComplete, readmission, resetTimeout.
The model's choices in it: log entries 68 and 73. -/
def Obligations.Recoveries : Prop :=
  ∀ (n : Nat) (s : State) (r : Recovery), s.pkg.recoveries = [r] → r.id = n →
    (r.phase = .fenced → 1 ≤ r.scope → r.scope ≤ 3 → After (.endpaperStored n) s fun t =>
      (∃ q, t.pkg.recoveries = [{ r with phase := .stored, seq := q }]) ∧ t.cores = s.cores ∧ SameMemory s t) ∧
    (r.phase = .stored →
      (r.scope = 1 → After (.resetComplete n) s fun t => t.pkg.recoveries = [{ r with phase := .resetDone }] ∧
        ∀ c, c / 8 = r.unit → (t.core c).ctx = .idle ∧ (t.core c).aregs = [] ∧ (t.core c).retiredSeq = (s.core c).retiredSeq) ∧
      (r.scope = 2 → After (.resetComplete n) s fun t => t.pkg.recoveries = [{ r with phase := .resetDone }] ∧
        (t.basin r.unit).epoch = (s.basin r.unit).epoch + 1 ∧ (t.basin r.unit).rings = [] ∧
        ∀ i ∈ basinEntries s.sheets r.unit, (mapRange s.sheets i).kind = 1 →
          ∀ a, (mapRange s.sheets i).first * 0x40000000 ≤ a →
            a < ((mapRange s.sheets i).first + (mapRange s.sheets i).count) * 0x40000000 → t.byte a = unlistedByte a) ∧
      (r.scope = 3 → r.unit < 4 → After (.resetComplete n) s fun t => t.pkg.recoveries = [{ r with phase := .resetDone }] ∧
        (∀ c, c / 256 = r.unit → t.core c = .reset) ∧ (t.die r.unit).fuses = (s.die r.unit).fuses ∧
        (t.die r.unit).log = [] ∧ (t.die r.unit).keeperUp = true ∧
        (t.die r.unit).holdover = !((s.die r.unit).refQual0 || (s.die r.unit).refQual1))) ∧
    (r.phase = .resetDone →
      (r.scope = 1 → After (.readmission n) s fun t => t.pkg.recoveries = [] ∧ (t.cluster r.unit).fenced = false ∧
        t.cores = s.cores ∧ SameMemory s t) ∧
      (r.scope = 2 → r.event.code ≠ 0x1008 → (s.basin r.unit).lostDie = false → After (.readmission n) s fun t =>
        t.pkg.recoveries = [] ∧ (t.basin r.unit).st = .open ∧
        ∀ k < 128, bsnHasCluster s.sheets r.unit k = true → (t.cluster k).fenced = false) ∧
      (r.scope = 3 → r.final = true → After (.readmission n) s fun t => t.pkg.recoveries = [] ∧
        (t.die r.unit).isolated = (s.die r.unit).isolated) ∧
      (∀ p, r.scope = 3 → r.final = false → (timebaseSources r.unit).find? (fun p => !(s.die p).isolated) = some p →
        After (.readmission n) s fun t => t.pkg.recoveries = [] ∧ (t.die r.unit).isolated = false ∧
          (t.die r.unit).timebase = s.time p ∧ (t.die r.unit).running = true) ∧
      (r.scope = 3 → r.final = false → (∀ p ∈ timebaseSources r.unit, (s.die p).isolated = true) →
        exec (.readmission n) s = .next s)) ∧
    (∀ b, r.phase ≠ .queued → r.scope = 1 → clusterOwner s.sheets r.unit = some b → LogsOpen s →
      After (.resetTimeout n) s fun t => (t.basin b).st = .resetting ∧
        ∃ q, t.pkg.recoveries = [q] ∧ q.scope = 2 ∧ q.unit = b ∧ q.phase = .fenced ∧ q.event.code = 0x1002)

/-! ### Watching -/

/-- R477: a step's summary is written when its basin has moved past the step. R485, R486: the intervals of the stitch-mode units: a
transmitter reports the CRC of what it sent, a receiver keeps its own and compares, an interval that a turn left open under the former
entry of its unit; a missing report is recorded. Completes: stepSummaryClose, checkIntervalEnd, checkIntervalReport,
checkPartnerMissing.
The model's choices in it: log entries 64, 65 and 89. -/
def Obligations.Watching : Prop :=
  (∀ (b : BasinId) (s : State),
    ((∀ m ∈ (s.basin b).summaries, (s.basin b).step.toNat ≤ m.step.toNat) → exec (.stepSummaryClose b) s = .next s) ∧
    ∀ m, (s.basin b).summaries.find? (fun m => decide (m.step.toNat < (s.basin b).step.toNat)) = some m →
      After (.stepSummaryClose b) s fun t => (t.basin b).summaries = (s.basin b).summaries.erase m ∧
        (t.basin b).closedSteps = (s.basin b).closedSteps ++ [m.step] ∧ OtherBasins b s t ∧ t.cores = s.cores ∧
        (telSummary s.sheets b = false → SameMemory s t) ∧
        (let cap := telSummaryMib s.sheets b * 512
         let log := (s.basin b).sumLog
         let slot := telFirst s.sheets b * 0x40000000 + (telPhaseMib s.sheets b + telNumericMib s.sheets b) * 0x100000 +
           2048 * (log.head.toNat % cap)
         telSummary s.sheets b = true → cap ≠ 0 →
           ((log.head - log.tail).toNat ≠ cap → s.accStat slot = .ok → (t.basin b).sumLog = { log with head := log.head + 1 } ∧
             ∃ bs : Bytes, 2048 ≤ bs.length ∧ t.readBytes slot bs.length = bs ∧ field bs 0 8 = m.step.toNat ∧
               field bs 0x18 1 = b.val) ∧
           ((log.head - log.tail).toNat = cap → SameMemory s t ∧
             (t.basin b).sumLog = { log with lost := satCount (log.lost + 1) }))) ∧
  (∀ (u : CheckId) (s : State),
    let k := s.check u
    let sh := s.sheetsOn (checkDie u)
    let next := { k with interval := k.interval + 1, region := [] }
    let crc := crcOf (chkAlgorithm sh u) k.region
    (s.intervalEntry u = none →
      ((s.link (chkTarget sh u)).st.carries = true →
        (chkMode sh u = 3 → exec (.checkIntervalEnd u) s = .next ((s.setCheck u next).emit (.interval u k.interval crc))) ∧
        (chkMode sh u = 4 → exec (.checkIntervalEnd u) s =
          .next (s.setCheck u { next with results := k.results ++ [(k.interval, crc)] }))) ∧
      (((chkMode sh u ≠ 3 ∧ chkMode sh u ≠ 4) ∨ (s.link (chkTarget sh u)).st.carries = false) →
        exec (.checkIntervalEnd u) s = .next s)) ∧
    (∀ x, s.intervalEntry u = some x → chkMode (formerSheets u x) u = 3 →
      (s.link (chkTarget (formerSheets u x) u)).st.carries = true → After (.checkIntervalEnd u) s fun t =>
        t.out = s.out ++ [.interval u x.interval (crcOf (chkAlgorithm (formerSheets u x) u) x.region)] ∧
        (t.check u).interval = k.interval ∧ (t.check u).region = k.region ∧ t.cores = s.cores ∧ SameMemory s t) ∧
    (∀ (i : W16) (crc : W64), chkMode sh u = 4 → (∀ x ∈ k.formers, resultOf x.results i = none) →
      (resultOf k.results i = none → exec (.checkIntervalReport u i crc) s = .next (s.setCheck u (k.bump 7))) ∧
      (∀ r, resultOf k.results i = some r → nget (fun _ => 0) k.expected (chkTarget sh u) = i →
        (r.2 = crc → After (.checkIntervalReport u i crc) s fun t => (t.check u).records = k.records ∧
          (t.check u).results = k.results.erase r ∧ (t.check u).counts = (k.bump 0).counts ∧ t.out = s.out ∧
          t.cores = s.cores ∧ SameMemory s t) ∧
        (r.2 ≠ crc → k.records.length < 8 → After (.checkIntervalReport u i crc) s fun t =>
          (∃ x, (t.check u).records = k.records ++ [x] ∧ x.kind = 1 ∧ x.computed = r.2 ∧ x.expectedCrc = crc) ∧
          (t.check u).results = k.results.erase r ∧ t.out = s.out ++ [.checkIrq u, .pldmCheck u] ∧ t.cores = s.cores ∧
          SameMemory s t))) ∧
    ((∀ x ∈ k.formers, x.results = []) →
      (k.results = [] → exec (.checkPartnerMissing u) s = .next s) ∧
      (∀ r rest, k.results = r :: rest → k.records.length < 8 → After (.checkPartnerMissing u) s fun t =>
        (t.check u).results = rest ∧ (∃ x, (t.check u).records = k.records ++ [x] ∧ x.kind = 5) ∧ t.cores = s.cores ∧
        SameMemory s t)))

/-! ### The machine as a whole -/

namespace Sys2Proof.Claims

/-- Nothing happens by itself in the next cycle: no port holds a frame, every die has sent its drive word, and no engine has work to
charge that does not wait for a refill. -/
structure Still (s : State) : Prop where
  ports : ∀ e ∈ s.ports, e.2.held = []
  words : ∀ d < 6, s.dieIn d = true → nget (fun _ => 0xFFFFFFFF) (s.die d).kettleWords d = s.driveWord d
  work : ∀ k < 128, s.charges k = false

end Sys2Proof.Claims

/-- One step takes the command at the front of the queue and runs it with the rest of the queue. With no command waiting, one
CCLK cycle passes up to the lock cycle's last; each 22nd is a tick of the running dies' timebases (R48; the model's choice), and where
nothing happens by itself nothing else changes.
The model's choices in it: log entry 2. -/
def Obligations.StepRunsCommand : Prop :=
  (∀ (c : Instr) (rest : List Instr) (s : State), s.pending = c :: rest → step s = exec c { s with pending := rest }) ∧
  (∀ s : State, s.pending = [] → ∃ t, step s = .next t ∧ t.pending = [] ∧ t.lockCycle = s.lockCycle ∧
    t.cyc = (if s.cyc < 2199 then s.cyc + 1 else s.cyc) ∧
    (∀ d < 6, (s.die d).slew = 0 → (t.die d).timebase =
      if s.cyc < 2199 ∧ (s.cyc + 1) % 22 = 0 ∧ (s.die d).running = true then (s.die d).timebase + 1 else (s.die d).timebase) ∧
    (Still s → t = { s with cyc := t.cyc, dies := t.dies } ∧ (2199 ≤ s.cyc → t = s) ∧ ∀ d, 6 ≤ d → t.die d = s.die d))

/-- Every command answers a next state, from every state, and leaves the queue of waiting commands as it is.
The model's choices in it: log entry 1. -/
def Obligations.EveryCommandCompletes : Prop := ∀ (c : Instr) (s : State), After c s fun t => t.pending = s.pending

/-- R30, R87, R115, R167, R359, R363, R425, R435: the package before power. Nothing waits, PKG_READY and the other outputs are
inactive, cores are IDLE with every register zero, basins CLOSED, ports OFF with full credits, ramps at level 1, every cluster
in its default place, and every byte zero but DECAY and HEADROOM of the gauges, which are 15.
The model's choices in it: log entries 3, 4, 5, 6, 7 and 8. -/
def Obligations.ResetValues : Prop :=
  let s := State.reset
  s.pending = [] ∧ s.pkg.phase = .off ∧ s.pkg.pkgReady = false ∧ s.pkg.cycleReq = false ∧ s.pkg.thermTrip = false ∧
  s.pkg.alertLow = false ∧ s.out = [] ∧
  (∀ c, (s.core c).ctx = .idle ∧ (∀ n, (s.core c).areg n = 0) ∧ (∀ i e, (s.core c).tile i e = 0) ∧
    ∀ v, (s.core c).vreg v = 0) ∧
  (∀ b, (s.basin b).st = .closed ∧ (s.basin b).step = 0) ∧
  (∀ p, (s.port p).st = .off ∧ (s.port p).credits = [128, 1024, 768, 128]) ∧
  (∀ k, (s.cluster k).ramp = 1 ∧ (s.cluster k).granted = false) ∧
  (∀ d, (s.die d).fuses = 0 ∧ ∀ l < 32, (s.die d).map.getD l 0xFF = (l / 8) * 9 + l % 8) ∧
  (∀ a < windowBase, s.byte a = 0) ∧
  ∀ k < 128, ∀ g < 256, s.readLe (windowBase + k * 0x1000000 + 0xC00000 + 16 * g) 4 = 0xFF0000

/-- The canonical form of every table and memory, and the bounds of the governor's values, hold before power.
The model's choices in it: log entry 4. -/
def Obligations.InvariantsAtReset : Prop := State.reset.Canonical ∧ State.reset.Governed ∧ State.reset.ReadyAfterStart

/-- Every step keeps the canonical form of every table and memory.
The model's choices in it: log entry 9. -/
def Obligations.CanonicalFormKept : Prop := ∀ s t : State, s.Canonical → step s = .next t → t.Canonical

/-- R435, R436, R438, R442: every step keeps every scale between 16 and 256 and every ramp level between 1 and 8. -/
def Obligations.GovernorBoundsKept : Prop := ∀ s t : State, s.Governed → step s = .next t → t.Governed

/-- R99: no step moves the life-cycle state back, and none unblows a die's retirement fuse. -/
def Obligations.FusesOnlyBlow : Prop :=
  ∀ s t : State, step s = .next t → s.pkg.life.index ≤ t.pkg.life.index ∧
    ∀ d < 6, ∀ i, bitOf (s.die d).fuses i = true → bitOf (t.die d).fuses i = true

namespace Sys2Proof.Claims

/-- The package stops under R86: a PWR_GOOD input falls or RESET_N goes low. -/
def Stops (c : Instr) : Prop := (∃ d, c = .pwrGoodFall d) ∨ c = .resetNLow

/-- A package reset begins: a recovery's, once its endpapers are in flash, or that of a life-cycle transition (R94, R99). -/
def ResetsPackage (c : Instr) : Prop := (∃ ok, c = .endpaperFlashCopyDone ok) ∨ ∃ b, c = .lifeCycle b

end Sys2Proof.Claims

/-- R89: once asserted, PKG_READY stays asserted through every command but those at which a package reset begins or the package
stops under R86; at those it stays too unless the start does begin again. So no basin, die or lower-scope reset clears it. -/
def Obligations.PkgReadyStays : Prop :=
  ∀ (c : Instr) (s t : State), s.ReadyAfterStart → s.pkg.pkgReady = true → exec c s = .next t →
    (¬ Stops c → ¬ ResetsPackage c → t.pkg.pkgReady = true) ∧ (Stops c → t.pkg.pkgReady = false) ∧
    (ResetsPackage c → (t.pkg.pkgReady = true ↔ t.pkg.phase = .ready))

namespace Sys2Proof.Claims

/-- The rows that write an address register, with their opcodes and the bits each uses (R118). -/
def writers (c : CoreId) : List (Instr × Nat × Nat) :=
  [(.add c, 0x01, maskA), (.sub c, 0x02, maskA), (.and c, 0x03, maskA), (.or c, 0x04, maskA), (.xor c, 0x05, maskA),
   (.sll c, 0x06, maskA), (.srl c, 0x07, maskA), (.sra c, 0x08, maskA), (.mul c, 0x09, maskA), (.mulhu c, 0x0A, maskA)] ++
  [(.slt c, 0x0B, maskA), (.sltu c, 0x0C, maskA), (.minu c, 0x0D, maskA), (.maxu c, 0x0E, maskA), (.addi c, 0x10, maskB),
   (.andi c, 0x11, maskB), (.ori c, 0x12, maskB), (.xori c, 0x13, maskB), (.slli c, 0x14, maskB), (.srli c, 0x15, maskB)] ++
  [(.srai c, 0x16, maskB), (.li c, 0x18, maskC), (.lih c, 0x19, fieldMask 63 49 ||| fieldMask 15 0), (.ld c, 0x1A, maskB),
   (.rdsr c, 0x1C, fieldMask 63 49 ||| fieldMask 43 12)]

/-- Nothing else of the instruction faults: a shift of at most 63, a legal offset of LD, a special register of R122. -/
def Sound (s : State) (c : Nat) (w : W64) (op : Nat) : Prop :=
  (op = 0x14 ∨ op = 0x15 ∨ op = 0x16 → bitsOf w.toNat 43 12 ≤ 63) ∧
  (op = 0x1A → ((s.core c).areg (wB w) + sext64 32 (bitsOf w.toNat 43 12)).toNat % 8 = 0 ∧
    ((s.core c).areg (wB w) + sext64 32 (bitsOf w.toNat 43 12)).toNat + 8 ≤ (s.core c).bankCount * 0x8000) ∧
  (op = 0x1C → bitsOf w.toNat 43 12 ≤ 11)

end Sys2Proof.Claims

/-- R106: a0 reads as zero in every state, and an instruction that names it as its destination runs to its end without error and
writes no register. -/
def Obligations.ZeroRegister : Prop :=
  (∀ (c : Nat) (s : State), (s.core c).areg 0 = 0) ∧
  (∀ (c : CoreId) (s : State) (w : W64), ∀ e ∈ writers c, Next s c w 0 e.2.1 e.2.2 → Sound s c w e.2.1 → wA w = 0 →
    ∃ k', exec e.1 s = .next (s.setCore c k') ∧ k'.aregs = (s.core c).aregs ∧ k'.ctx = .running ∧
      k'.fault = (s.core c).fault ∧ GoesOn (s.core c) k' ∧ OnlySequencer (s.core c) k')

/-- R202: TZERO names tallies in a mask in bits [53:38], bit 38 + i for ti; a set bit among the reserved [37:0] faults; it sets
every bit of each named tally to zero, and with a mask of zero it does nothing. -/
def Obligations.TallyZero : Prop :=
  (∀ (c : CoreId) (s : State) (w : W64), s.fetch c = .word w → wQueue w = 1 → wOp w = 4 →
    ((s.core c).queue.press).length < 16 →
    (bitsOf w.toNat 37 0 ≠ 0 → Faults (.tzero c) c s 0x103) ∧
    (bitsOf w.toNat 37 0 = 0 → ∃ k' x, exec (.tzero c) s = .next (s.setCore c k') ∧
      k'.queue.press = (s.core c).queue.press ++
        [⟨w, [], (s.core c).pc, (s.core c).region.map (fun r => r.rung), (s.core c).dispatched.press, x⟩] ∧
      k'.aregs = (s.core c).aregs ∧ k'.tiles = (s.core c).tiles)) ∧
  (∀ (c : CoreId) (s₀ s : State) (f : InFlight) (fs : List InFlight), Oldest s₀ s c .press f fs → wOp f.q.word = 4 →
    After (.instructionComplete c .press) s₀ fun t => Retired s t c .press fs ∧ SameMemory s t ∧
      (t.core c).vregs = (s.core c).vregs ∧
      (∀ i < 16, ∀ e < 1024, (t.core c).tile i e = if bitOf f.q.word.toNat (38 + i) then 0 else (s.core c).tile i e) ∧
      (bitsOf f.q.word.toNat 53 38 = 0 → (t.core c).tiles = (s.core c).tiles))

/-! ### Statements in several parts -/

/-- R118: ADD to MAXU write the stated function of rs1 and rs2 to rd. Completes: add, sub, and, or, xor, sll, srl,
sra, mul, mulhu, slt, sltu, minu, maxu. R118: ADDI to SRAI, LI and LIH write the stated function of rs1 and the
immediate to rd; a shift by more than 63 counts as a non-zero reserved field and faults with detail 0x03. Completes:
addi, andi, ori, xori, slli, srli, srai, li, lih.
The model's choices in it: log entry 14. -/
def Obligations.RegisterInstructions : Prop := Claims.RegisterArithmetic ∧ Claims.ImmediateArithmetic

/-- R119, R113: LD and ST move the 64-bit word at rs1 + imm32 of the context's allocation; a misaligned offset or one
outside the allocation faults with detail 0x05. ST changes no other byte of memory. Completes: ld, st. R122: RDSR
reads the special registers; an index above 11 faults with detail 0x0A. Completes: rdsr. -/
def Obligations.ScratchpadAndSpecialRegisters : Prop := Claims.ScratchpadLoadStore ∧ Claims.SpecialRegisters

/-- R130, R131, R133: LOOP and LOOPI open a level whose body ends at the target, a zero count skips the body, and
BREAK leaves imm31[1:0] + 1 levels. Completes: loop, loopi, brk. R132: at the end of the innermost loop's body a
further iteration goes back to its start with its index one higher.
The model's choices in it: log entry 15. -/
def Obligations.LoopInstructions : Prop := Claims.HardwareLoops ∧ Claims.LoopBackEdge

/-- R86, R94, R443: a PWR_GOOD fall and a low RESET_N stop everything at once: no context, no memory contents; fuses
and flash stay; THERMTRIP_N and CYCLE_REQ_N are released by power and stand through RESET_N. That RESET_N leaves the
error history is the model's reading. Completes: pwrGoodFall, resetNLow. R87, R93, R100, R518: at time 0 the straps
and references are sampled; with TEST_EN high only boundary scan answers, in SCRAPPED nothing starts, with no
reference the start waits with ALERT_N low, and otherwise a slot is chosen: with none valid the package waits with
ALERT_N low. Registers and memories are as at reset. Completes: powerOnStart.
The model's choices in it: log entries 68, 93 and 94. -/
def Obligations.StopAndStart : Prop := Claims.PowerAndResetStop ∧ Claims.PowerOnStart

/-- R46, R47, R50: qualified inputs, holdover when the input in use is lost, relock to a qualified input, the return
to the primary, and the loss of a root PLL, which stops its die's clocks and sends isolation notices. Each changes its
die alone. Completes: referenceQualified, referenceDisqualified, pllRelock, revertToPrimary, rootPllLossOfLock. R51,
R52, R409: a hart's write of CLK_VFREQ moves its complex, unless a change is under way, towards the clamped request or
the governor's ceiling, whichever is slower; the voltage of the faster of two steps is there from the beginning of a
change to its end; a change completes before the next begins. From VS-mode the write takes exception 22, from U- and
VU-mode exception 2. ERR_HWADDR's VALID is cleared by writing 1. Completes: vfreqWrite, stepChangeComplete,
errHwaddrWrite. R55, R369: the keeper's exchange of time with its chosen native port: the request carries the
timebase, the answer slews it by half the difference of the two ways, rounded towards zero, and the stratum is one
more than the peer's; a peer at stratum 15 leaves the die unsynchronised, and so does a package without a native port.
The dies of the package with no native port of their own follow the same source (R53). Completes: timeRequestTimer,
timeRequest, timeResponse.
The model's choices in it: log entries 49 and 52. -/
def Obligations.ClocksAndTime : Prop := Claims.ReferencesAndPlls ∧ Claims.ComplexSteps ∧ Claims.TimeExchange

/-- R93, R99, R102: the first START condition after power-up decides whether the management lines are swapped, and
later ones change nothing; shorted lines are a condition of ALERT_N until they are cleared. A JTAG instruction is
taken in BLANK, PROVISIONED and RETURNED; in DEPLOYED and SCRAPPED only the mandatory ones are, while RESET_N is low,
and any other is BYPASS. Completes: mgmtStartCondition, mgmtLinesShorted, mgmtLinesCleared, jtagInstruction. R99,
R100, R101: a life-cycle command that is accepted is answered, then moves the package on: memory is wiped, the
endpaper region erased, the error history gone. To SCRAPPED from any state but SCRAPPED; else one state onward where
the identity sheet permits it, and from BLANK with hashes under which the inactive slot validates, which are fused.
Any other is refused. Completes: lifeCycle.
The model's choices in it: log entry 98. -/
def Obligations.LifeCycleAndTestPins : Prop := Claims.ManagementAndTestPins ∧ Claims.LifeCycleTransition

/-- R413, R414, R425: a malformed request gets status 3, an administrators' command from a basin outside the mask
refusal 0x02, and a basin that is not OPEN refusal 0x03, except the topology query of an UNAVAILABLE basin. Nothing
else changes. Completes: unknownCommand. R413: a doorbell while a command is in progress is ignored, and flagged with
vector 1 the first time. Completes: mboxOverrun.
The model's choices in it: log entry 85. -/
def Obligations.MailboxAcceptance : Prop := Claims.MailboxChecks ∧ Claims.MailboxOverrun

/-- R415, R416, R260, R262, R292, R146: the host's commands. Completes: topologyQuery, setStep, translationRoot,
translationFlush, semaphoreSignal, abort. R417, R366: setting up a work ring, and the receive ring of a flow.
Completes: ringSetup, flowRing.
The model's choices in it: log entry 48. -/
def Obligations.MailboxCommands : Prop := Claims.HostCommands ∧ Claims.RingCommands

/-- R72, R74: staging clears Pending, erases the inactive slot and no other slot, programs it, and ends; each command
outside its shadow state is refused with 0x01; stage begin is refused with 0x07 while a turn is under way or another
administrator stages, and with 0x08 after return or scrapping. Completes: stageBegin, stageData, stageEnd. R70, R72,
R74: validation leaves the shadow set VALID, with a copy in every keeper, or INVALID with its code; a turn at reset
marks the inactive slot pending; the query returns both sequences, the shadow state and the last code. Completes:
validate, turnAtReset, quireQuery.
The model's choices in it: log entries 95, 96 and 97. -/
def Obligations.QuireCommands : Prop := Claims.QuireStaging ∧ Claims.QuireValidation

/-- R77: each keeper votes by its shadow sequence, its gates and the recoveries that run, and holds its gates on YES;
the first NO aborts and is reported, the sixth YES commits, and a vote missing 100 lock cycles after the attempt's
start aborts with 0x05. Completes: turnPrepare, turnVote, turnVoteDeadline. R77, R78, R79: at boundary T every live
keeper that knows the COMMIT exchanges the changed sheets and releases its holds, and one that learns it later does so
at once; each acknowledges; the selector record names the new slot and the turn reports 0x00. On ABORT a keeper
releases its holds; with 0x03 and a wait limit the turn starts again every 1,000 lock cycles until the limit. A keeper
left without a decision for 1 ms is a keeper fault. Completes: turnDecision, turnSwap, turnAck, selectorWriteComplete,
turnRetry, turnDecisionQueryTimeout.
The model's choices in it: log entries 50 and 107. -/
def Obligations.TurnDecision : Prop := Claims.TurnVoting ∧ Claims.TurnCompletion

/-- R118, R127: NOP does nothing; QBAR records how far the waited queues have come and holds what its hold mask names
until they have completed that much, a wait mask of zero holds nothing, and a hold mask of zero faults. Completes:
nop, qbar. R135, R144: a phase mark waits for its wait set; with none it is taken at once; in a retry region it faults
with 0x08. Completes: phase, phaseMarkTaken. -/
def Obligations.BarriersAndMarks : Prop := Claims.NopAndQueueBarriers ∧ Claims.PhaseMarks

/-- R134, R135: RTRY opens a region at its start rung; regions do not nest and lie inside the image and the loop.
Completes: rtry. R137, R173: when a region has reported an overflow, what it has not begun to issue leaves the queues;
once what it let through has completed, the rung rises, to 3 at most, and the body begins again. Completes:
regionOverflow, retryRestart. -/
def Obligations.Retries : Prop := Claims.RetryRegions ∧ Claims.RegionRetry

/-- R141, R142: DRAW returns the reservation in force, clamps its request to the core's share, and sets it aside when
the cluster's unreserved balance covers it; else the sequencer waits. In sixteenths of a credit. Completes: draw.
R145, R149: HALT stops dispatch and frees the loop levels; a drained context returns to IDLE with its store valid; one
that has faulted is wiped, its endpaper stored, and returns to IDLE. Completes: halt, contextDrained, contextFault.
The model's choices in it: log entries 16, 25 and 31. -/
def Obligations.DrawsAndContextEnds : Prop := Claims.DrawReservations ∧ Claims.ContextEnds

/-- R117, R123, R197, R213: the press's instructions, their fields, registers and ranges as the rules ask, are queued
with their registers' values. Completes: mma, tout, tin, tzero, pwin. R117, R123, R217, R248: the vector engine's
instructions, as the rules ask, are queued with their registers' values. Completes: vop, vld, vst, vget, vput, tcvt,
tred, rmrg, scvt, radd, smax, fly. R117, R123, R265, R293: barge and sync instructions, as the rules ask, are queued;
in a retry region no sync instruction may stand, an increment of zero and a core number above 1,023 are refused.
Completes: brg, blin, swait, ssig, sset, srsig, kbar, kwait, kjoin, kleave.
The model's choices in it: log entry 14. -/
def Obligations.EngineDispatch : Prop := Claims.PressDispatch ∧ Claims.VectorDispatch ∧ Claims.BargeAndSyncDispatch

/-- R109, R114: a start entry reads its descriptor, is refused with the code of the first failed check, or loads.
Completes: contextStart. R112, R115: a context begins to run with its image in the store, its arguments in a1 onward,
and every other register zero; an image or arguments that cannot be read leave the core as it was, IDLE. Completes:
contextLoaded.
The model's choices in it: log entries 28 and 29. -/
def Obligations.ContextStarts : Prop := Claims.ContextStart ∧ Claims.ContextLoaded

/-- R225, R227: VLD, VST, VGET and VPUT move 128 bytes between the allocation and a register, and 32 elements between
a tally and a register. R219, R222: lane arithmetic: an integer sum or difference without saturation wraps at the
lane's width, the bitwise functions work on every lane, and a compare gives ones or zeros.
The model's choices in it: log entries 13, 17 and 23. -/
def Obligations.VectorEffects : Prop := Claims.VectorMoves ∧ Claims.VectorLanes

/-- R268, R270, R275: a linear barge inside the allocation whose ranges do not meet moves its bytes in order and
nothing else; one that failed a check moves nothing and faults its context with its detail. Completes: bargeComplete,
bargeFail. R269, R419: a ring barge that moves nothing, or that failed a check, ends with its completion record.
The model's choices in it: log entries 18, 20 and 21. -/
def Obligations.BargeEffects : Prop := Claims.CoreBarges ∧ Claims.RingBargeEnds

/-- R293, R294, R295: SSIG adds to its semaphore and SSET sets it; a sum above 65,535 leaves it and faults with detail
0x02; SWAIT completes once the threshold is reached and subtracts, faulting with 0x01 when it would underflow.
Completes: instructionComplete, swaitSatisfied. R298, R299: a remote signal is applied at its target or refused, and
answered; one that would pass 65,535 faults its target. The acknowledgement that returns completes the SRSIG in order,
and a refused one faults the sender with detail 0x06; where the sender's context has ended, it is dropped. Completes:
remoteSignalArrival, srsigAck.
The model's choices in it: log entry 25. -/
def Obligations.Synchronisation : Prop := Claims.Semaphores ∧ Claims.RemoteSignals

/-- R302, R305, R306: a line on which every member of a die that is not isolated has arrived releases: its generation
counts, departed members are forgotten, joiners become members and leavers leave, and a waiting instruction of a
member is let on; a core of an isolated die is left as it was. The core table is in canonical form (an invariant of
the model). Completes: kettleRelease. R302, R304, R311: KBAR records its arrival, KWAIT waits for the release, KJOIN
and KLEAVE become pending; on a line the context has no part in they fault with detail 0x05. Completes: engineIssue.
R389: a die keeps the latest word of each source and passes a new sequence number on, once, to its other partners; it
sends its own word under the next number, and keeps it. R308, R309, R310: a context deadlocked for a whole window
faults with detail 0x04, its wait graph kept. Completes: kettleUpdate, kettleUpdateResend, deadlockWindowExpiry.
The model's choices in it: log entries 26, 27 and 87. -/
def Obligations.Kettle : Prop := Claims.KettleRelease ∧ Claims.KettleInstructions ∧ Claims.KettleUpdatesAndDeadlock

/-- R491, R56: a 32-bit read of LO gives the low half and latches the high half for its own path; the read of HI that
follows gives the latch, whatever the counter does meanwhile, and changes nothing. No other latch and no register
changes. Completes: loReadLatch. R506, R492, R93, R100: register accesses over the management bus: an error and
nothing else while bit 8 of the administrator mask is clear; with it set, a 32-bit read gives a single register, or
zero where nothing is listed; nothing at all while the bus carries no commands. Completes: mctpControlAccess,
loReadLatch, registerWrite, chkPop.
The model's choices in it: log entries 54 and 57. -/
def Obligations.RegisterAccess : Prop := Claims.RegisterPairs ∧ Claims.ManagementRegisters

/-- R503, R504, R506, R507, R12: writes of the registers of a control page. A consumer index may not pass its
producer; the error bits clear where ones are written; the selects and the mailbox's request bytes take the value;
read-only registers and the view window take nothing; an unlisted offset or a misaligned access is misuse. Completes:
registerWrite. R417, R503, R505, R506: the doorbells of a page: a ring takes its producer index, stops when more
entries are announced than it holds, and is misuse when its count is 0; the interrupt forward and the check pop.
Completes: ringDoorbell, bsnIrqFwd, bsnChkPop, chkPop.
The model's choices in it: log entries 53, 55 and 56. -/
def Obligations.ControlPage : Prop := Claims.ControlPageWrites ∧ Claims.Doorbells

/-- R404, R405, R258, R264, R283, R424: what a host or a device below a root port gets of a basin's memory within one
64-byte piece: the bytes, or a poisoned completion, or a failure with its bit; while a Dalpa cache holds the line,
only that line may be written back. A write stores its bytes and leaves no Dalpa copy of the line. Completes:
hostRead, hostWrite, deviceMemoryRequest. R405, R424, R522, R504: a segment's link, its reset pin, its devices'
interrupts and the configuration of an endpoint. A link that goes down sets its owner's bit and raises vector 1.
Completes: endpointLinkDown, perstNAssert, perstNRelease, segmentLinkUp, pcieConfigRequest, deviceIrqFwd.
The model's choices in it: log entries 58 and 59. -/
def Obligations.HostsAndDevices : Prop := Claims.HostAndDeviceMemory ∧ Claims.PcieSegments

/-- R316, R320: a step descriptor that fails a check is refused whole with the check's code; one that passes becomes
active with a bucket for each entry and die, and its entry stays taken until the step retires. Completes: sluiceStep.
R319, R321, R343, R345: when the ready word names the step, the bucket opens, unless a turn holds it: each slice is to
be encoded, and is when its charge is paid. Without thinning the owner of a slice gets its gradient bytes unchanged,
with their CRC; the die's own slice opens and admits its own. Completes: bucketReady.
The model's choices in it: log entries 35 and 39. -/
def Obligations.SluiceStart : Prop := Claims.SluiceSteps ∧ Claims.SluiceSending

/-- R326, R327, R329, R339: an admitted contribution is added element by element; the quorum or the deadline closes
the gate, and a closed slice goes on only when its record has been written. Completes: admissionComplete,
gateDeadline, collationRoom. R333, R343, R421: the norm tree: a child's partial is kept once, or waits while its step
may still come; the total goes to every slice that waits for it and, 40 bytes of shaping each, down the tree; a wait
that runs out skips the update. Completes: normPartial, normTotal, normWaitExpiry.
The model's choices in it: log entries 36 and 104. -/
def Obligations.SluiceClosing : Prop := Claims.SluiceGate ∧ Claims.SluiceNorm

/-- R334-R338, R341, R343: an updated or skipped slice is to be sent to every other member and, with buddy shards, its
moments to the buddy, each once its beats are charged; it is done when all is sent and the buddy has acknowledged. A
skipped slice sends its parameters as they stood. Completes: updateComplete, mirrorAck. R319, R337, R338: parameters
of another owner's slice are written to this package's own area and count once; a bucket whose slices have not all
come within the broadcast wait completes as incomplete. Completes: parametersReceived, broadcastWaitExpiry.
The model's choices in it: log entry 43. -/
def Obligations.SluiceResults : Prop := Claims.SluiceUpdate ∧ Claims.SluiceBroadcast

/-- R355-R360, R370: a down port's attempt, what ends it, the loss of a port, its fast retraining and its probation.
Completes: trainingAttempt, portTrained, portLoss, fastRetrainComplete, probationPassed, probationTimeout. R371-R373:
a port in Ethernet mode drops a datagram that is not for it, and treats a damaged frame in one as uncorrectable; a gap
in a flow is NAKed by its counter; it answers ARP and neighbour solicitations for its own address only, and a pause
holds its priorities. Completes: ethernetDatagram, arpRequest, neighborSolicitation, pauseFrame.
The model's choices in it: log entries 46, 102 and 103. -/
def Obligations.PortTraining : Prop := Claims.PortStates ∧ Claims.EthernetPorts

/-- R361-R365: a native frame is read back from its stream; a port delivers in sequence only: an earlier frame is
discarded, a later or damaged one NAKed once; a frame whose destination cannot take it stays in the buffer, one that
has gone returns its credits; acknowledgements free the replay buffer; a NAK replays in order, the 16th in a row is a
loss; a reserved kind is dropped and counted. Completes: dataFrame, ackCreditFrame, nakFrame, uncorrectableFrame,
nakResendTimer, creditReturnTimer, reservedFrameKind. R363, R366, R367: how a frame of a basin flow that comes in
sequence is received on a native port: a duplicate and a stale epoch are counted and dropped, a frame of a closed
basin or a foreign flow is dropped; one that the ring has room for advances the flow and the ring; one that it has no
room for stays in the port's buffer. Completes: dataFrame.
The model's choices in it: log entries 44 and 101. -/
def Obligations.TowpathReception : Prop := Claims.LinkLayer ∧ Claims.FlowReception

/-- R379, R385-R388, R258, R263, R283: a stream's units are restored from the modules they were dealt to. Requests at
a die: passed on along the route, or answered absent where none stands; their status decides; a good read returns the
bytes of its pieces, a good write stores the bytes its enables cover and nothing else, a bad one stores nothing; a
completion ends its request. Completes: stitchRead, stitchWrite, stitchCompletion. R263, R386: a snoop takes the line
from the die's caches, unless it only downgrades it, and is answered; a line that is not held answers without data,
and a dirty one with its bytes; whether the harts have stored into a clean one is open. Dirty data is written back
whole. Completes: snoopRequest, snoopResponse.
The model's choices in it: log entries 60, 63 and 106. -/
def Obligations.StitchRequests : Prop := Claims.StitchTransactions ∧ Claims.Snoops

/-- R380-R383, R390, R391: training: capability records, width echoes, lane faults and their retraining. Completes:
capabilityRecord, widthEcho, laneFault, stitchRetrainDone, stitchReservedType. R393, R26, R286, R394: a die that
learns of a loss masks the lost die's kettle drive, ends its requests to it as absent, takes the link down and reports
0x0A04; the first report isolates the lost die and puts the routes through it on their alternates. A drained alternate
gives way to the primary route. Completes: flitLossTimeout, isolationNotice, routeDrainComplete.
The model's choices in it: log entries 61 and 62. -/
def Obligations.StitchLinks : Prop := Claims.LinkTraining ∧ Claims.DieLoss

/-- R48, R433, R434, R435, R447: a lock-cycle boundary: the next lock cycle begins at cycle 0, running timebases have
counted what was left of its 100 ticks, energy has grown, each granted cluster takes its next scale, and one that
waited for credits ramps up; a cluster at rest holds exactly its refill, its ramp falling to 1 after the sheet's count
of quiet lock cycles. Completes: lockCycleBoundary. R436, R441, R442: an evaluation after at least 16 lock cycles: the
mean power, the lower of the two caps, the package scale by the stated rule, each die's thermal scale; the cap found
unattainable after 64 periods at the floor; a die above 105 °C. None before 16 lock cycles, before PKG_READY or after
a trip. Completes: governorEvaluation.
The model's choices in it: log entry 76. -/
def Obligations.Governor : Prop := Claims.LockCycles ∧ Claims.GovernorEvaluation

/-- R451-R460: the decision: an error of scope none enters the history and nothing else; one with a scope begins a
recovery of it and fences it: a context stands, a cluster is fenced, a basin resets, a die is isolated, a package
reset and a power cycle copy to flash first. R283: a memory error of the row poisons its piece. Completes:
recoveryDecision. R454, R455: a core whose sequencer makes no progress for the sheet's number of samples hangs, and
its context faults. R472, R466: a package reset is asked for over a management path that is up; a power cycle asserts
CYCLE_REQ_N, or holds the package where the sheet forbids it. R465, R466, R98: the flash sets and the copy before a
package reset. Completes: hangSample, packageResetRequest, powerCycleRequest, endpaperSetErase, endpaperFlashCopyDone.

The model's choices in it: log entries 67, 68 and 70. -/
def Obligations.RecoveryStart : Prop := Claims.RecoveryDecisions ∧ Claims.HangsAndRequests
end

