-- ==== Sys2Proof/Laws/Tables.lean ====
section
/-!
SUPPORT. Sparse tables: a read after a write, and the canonical form kept by every operation.
-/
namespace Sys2Proof.Machine

variable {α : Type}

theorem nget_ninsert (d : Nat → α) (m : NMap α) (k j : Nat) (v : α) :
    nget d (ninsert m k v) j = if j = k then v else nget d m j := by
  induction m with
  | nil =>
    by_cases h : j = k
    · simp [ninsert, nget, h]
    · have : k ≠ j := fun e => h e.symm
      simp [ninsert, nget, h, this]
  | cons e m ih =>
    obtain ⟨k', v'⟩ := e
    unfold ninsert
    split
    · by_cases h : j = k
      · simp [nget, h]
      · have : k ≠ j := fun e => h e.symm
        simp [nget, h, this]
    · split
      · by_cases h : j = k
        · simp [nget, h]
        · have : k ≠ j := fun e => h e.symm
          simp_all [nget]
      · by_cases h : k' = j
        · subst h
          have : k' ≠ k := fun e => by simp_all
          simp [nget, this]
        · simp [nget, h, ih]

theorem nget_nerase (d : Nat → α) (m : NMap α) (k j : Nat) :
    nget d (nerase m k) j = if j = k then d k else nget d m j := by
  induction m with
  | nil => by_cases h : j = k <;> simp [nerase, nget, h]
  | cons e m ih =>
    obtain ⟨k', v'⟩ := e
    unfold nerase
    split
    · rename_i h
      subst h
      rw [ih]
      by_cases h : j = k' <;> simp [nget, h, eq_comm]
    · rename_i h
      by_cases h' : k' = j
      · subst h'; simp [nget, h]
      · simp [nget, h', ih]

/-- A read after a write of a table. -/
theorem nget_nset [DecidableEq α] (d : Nat → α) (m : NMap α) (k j : Nat) (v : α) :
    nget d (nset d m k v) j = if j = k then v else nget d m j := by
  unfold nset
  split
  · rename_i h; rw [nget_nerase, h]
  · exact nget_ninsert d m k j v

@[simp] theorem nget_nset_self [DecidableEq α] (d : Nat → α) (m : NMap α) (k : Nat) (v : α) :
    nget d (nset d m k v) k = v := by simp [nget_nset]

theorem nget_nset_ne [DecidableEq α] (d : Nat → α) (m : NMap α) {k j : Nat} (v : α) (h : j ≠ k) :
    nget d (nset d m k v) j = nget d m j := by simp [nget_nset, h]

/-- Filtering keeps the canonical form. -/
theorem NMap.wf_filter (d : Nat → α) {m : NMap α} (h : m.wf d) (p : Nat × α → Bool) : NMap.wf d (m.filter p) :=
  ⟨h.1.filter p, fun e he => h.2 e ((List.mem_filter.mp he).1)⟩

theorem nerase_eq_filter (m : NMap α) (k : Nat) : nerase m k = m.filter (fun e => e.1 != k) := by
  induction m with
  | nil => rfl
  | cons e m ih =>
    obtain ⟨k', v'⟩ := e
    by_cases h : k' = k <;> simp [nerase, h, ih]

theorem mem_ninsert {m : NMap α} {k : Nat} {v : α} {e : Nat × α} (h : e ∈ ninsert m k v) : e = (k, v) ∨ e ∈ m := by
  induction m with
  | nil => simpa [ninsert] using h
  | cons x m ih =>
    obtain ⟨k', v'⟩ := x
    unfold ninsert at h
    split at h
    · simpa using h
    · split at h
      · rcases List.mem_cons.mp h with h | h
        · exact .inl h
        · exact .inr (List.mem_cons_of_mem _ h)
      · rcases List.mem_cons.mp h with h | h
        · exact .inr (h ▸ List.mem_cons_self)
        · rcases ih h with h | h
          · exact .inl h
          · exact .inr (List.mem_cons_of_mem _ h)

theorem ninsert_rises {m : NMap α} (h : m.Pairwise (fun x y => x.1 < y.1)) (k : Nat) (v : α) :
    (ninsert m k v).Pairwise (fun x y => x.1 < y.1) := by
  induction m with
  | nil => simp [ninsert]
  | cons e m ih =>
    obtain ⟨k', v'⟩ := e
    have hc := List.pairwise_cons.mp h
    unfold ninsert
    split
    · rename_i hk
      refine List.pairwise_cons.mpr ⟨fun y hy => ?_, h⟩
      rcases List.mem_cons.mp hy with hy | hy
      · subst hy; exact hk
      · exact Nat.lt_trans hk (hc.1 y hy)
    · split
      · rename_i hk
        subst hk
        exact List.pairwise_cons.mpr ⟨fun y hy => hc.1 y hy, hc.2⟩
      · refine List.pairwise_cons.mpr ⟨fun y hy => ?_, ih hc.2⟩
        rcases mem_ninsert hy with hy | hy
        · subst hy; simp only; omega
        · exact hc.1 y hy

/-- A write keeps the canonical form. -/
theorem nset_wf [DecidableEq α] (d : Nat → α) {m : NMap α} (h : m.wf d) (k : Nat) (v : α) : NMap.wf d (nset d m k v) := by
  unfold nset
  split
  · rw [nerase_eq_filter]; exact NMap.wf_filter d h _
  · rename_i hv
    refine ⟨ninsert_rises h.1 k v, fun e he => ?_⟩
    rcases mem_ninsert he with he | he
    · subst he; exact hv
    · exact h.2 e he

end Sys2Proof.Machine
end

