-- ==== Sys2Proof/Laws/State.lean ====
section
/-!
SUPPORT. What each update of the state changes and what it leaves: one lemma per update and part of the state.
-/
namespace Sys2Proof.Machine

@[simp] theorem State.setDie_get (s : State) (i j : Nat) (v : Die) : (s.setDie i v).die j = if j = i then v else s.die j := nget_nset _ _ _ _ _
@[simp] theorem State.setDie_self (s : State) (i : Nat) (v : Die) : (s.setDie i v).die i = v := nget_nset_self _ _ _ _
@[simp] theorem State.setDie_core (s : State) (i j : Nat) (v : Die) : (s.setDie i v).core j = s.core j := rfl
@[simp] theorem State.setDie_cluster (s : State) (i j : Nat) (v : Die) : (s.setDie i v).cluster j = s.cluster j := rfl
@[simp] theorem State.setDie_complex (s : State) (i j : Nat) (v : Die) : (s.setDie i v).complex j = s.complex j := rfl
@[simp] theorem State.setDie_hart (s : State) (i j : Nat) (v : Die) : (s.setDie i v).hart j = s.hart j := rfl
@[simp] theorem State.setDie_basin (s : State) (i j : Nat) (v : Die) : (s.setDie i v).basin j = s.basin j := rfl
@[simp] theorem State.setDie_segment (s : State) (i j : Nat) (v : Die) : (s.setDie i v).segment j = s.segment j := rfl
@[simp] theorem State.setDie_cxlPort (s : State) (i j : Nat) (v : Die) : (s.setDie i v).cxlPort j = s.cxlPort j := rfl
@[simp] theorem State.setDie_sluice (s : State) (i j : Nat) (v : Die) : (s.setDie i v).sluice j = s.sluice j := rfl
@[simp] theorem State.setDie_port (s : State) (i j : Nat) (v : Die) : (s.setDie i v).port j = s.port j := rfl
@[simp] theorem State.setDie_flow (s : State) (i j : Nat) (v : Die) : (s.setDie i v).flow j = s.flow j := rfl
@[simp] theorem State.setDie_link (s : State) (i j : Nat) (v : Die) : (s.setDie i v).link j = s.link j := rfl
@[simp] theorem State.setDie_check (s : State) (i j : Nat) (v : Die) : (s.setDie i v).check j = s.check j := rfl
@[simp] theorem State.setDie_pending (s : State) (i : Nat) (v : Die) : (s.setDie i v).pending = s.pending := rfl
@[simp] theorem State.setDie_lockCycle (s : State) (i : Nat) (v : Die) : (s.setDie i v).lockCycle = s.lockCycle := rfl
@[simp] theorem State.setDie_cyc (s : State) (i : Nat) (v : Die) : (s.setDie i v).cyc = s.cyc := rfl
@[simp] theorem State.setDie_freeCount (s : State) (i : Nat) (v : Die) : (s.setDie i v).freeCount = s.freeCount := rfl
@[simp] theorem State.setDie_pkg (s : State) (i : Nat) (v : Die) : (s.setDie i v).pkg = s.pkg := rfl
@[simp] theorem State.setDie_mem (s : State) (i : Nat) (v : Die) : (s.setDie i v).mem = s.mem := rfl
@[simp] theorem State.setDie_flash (s : State) (i : Nat) (v : Die) : (s.setDie i v).flash = s.flash := rfl
@[simp] theorem State.setDie_poison (s : State) (i : Nat) (v : Die) : (s.setDie i v).poison = s.poison := rfl
@[simp] theorem State.setDie_out (s : State) (i : Nat) (v : Die) : (s.setDie i v).out = s.out := rfl
@[simp] theorem State.setDie_signals (s : State) (i : Nat) (v : Die) : (s.setDie i v).signals = s.signals := rfl
@[simp] theorem State.setDie_ringBarges (s : State) (i : Nat) (v : Die) : (s.setDie i v).ringBarges = s.ringBarges := rfl
@[simp] theorem State.setDie_steps (s : State) (i : Nat) (v : Die) : (s.setDie i v).steps = s.steps := rfl
@[simp] theorem State.setDie_buckets (s : State) (i : Nat) (v : Die) : (s.setDie i v).buckets = s.buckets := rfl
@[simp] theorem State.setDie_slices (s : State) (i : Nat) (v : Die) : (s.setDie i v).slices = s.slices := rfl
@[simp] theorem State.setDie_wards (s : State) (i : Nat) (v : Die) : (s.setDie i v).wards = s.wards := rfl
@[simp] theorem State.setDie_requests (s : State) (i : Nat) (v : Die) : (s.setDie i v).requests = s.requests := rfl
@[simp] theorem State.setDie_alternates (s : State) (i : Nat) (v : Die) : (s.setDie i v).alternates = s.alternates := rfl
@[simp] theorem State.setDie_draining (s : State) (i : Nat) (v : Die) : (s.setDie i v).draining = s.draining := rfl
@[simp] theorem State.setDie_norms (s : State) (i : Nat) (v : Die) : (s.setDie i v).norms = s.norms := rfl
@[simp] theorem State.setDie_retired (s : State) (i : Nat) (v : Die) : (s.setDie i v).retired = s.retired := rfl
@[simp] theorem State.setDie_pieces (s : State) (i : Nat) (v : Die) : (s.setDie i v).pieces = s.pieces := rfl
@[simp] theorem State.setDie_drainWait (s : State) (i : Nat) (v : Die) : (s.setDie i v).drainWait = s.drainWait := rfl
@[simp] theorem State.setDie_kettleGen (s : State) (i : Nat) (v : Die) : (s.setDie i v).kettleGen = s.kettleGen := rfl
@[simp] theorem State.setDie_kettleShort (s : State) (i : Nat) (v : Die) : (s.setDie i v).kettleShort = s.kettleShort := rfl
@[simp] theorem State.setDie_kettleDepartures (s : State) (i : Nat) (v : Die) : (s.setDie i v).kettleDepartures = s.kettleDepartures := rfl
@[simp] theorem State.setDie_kettleGhosts (s : State) (i : Nat) (v : Die) : (s.setDie i v).kettleGhosts = s.kettleGhosts := rfl
@[simp] theorem State.setDie_latches (s : State) (i : Nat) (v : Die) : (s.setDie i v).latches = s.latches := rfl
@[simp] theorem State.setDie_tlb (s : State) (i : Nat) (v : Die) : (s.setDie i v).tlb = s.tlb := rfl
@[simp] theorem State.setDie_snoopLines (s : State) (i : Nat) (v : Die) : (s.setDie i v).snoopLines = s.snoopLines := rfl
@[simp] theorem State.setDie_caches (s : State) (i : Nat) (v : Die) : (s.setDie i v).caches = s.caches := rfl
@[simp] theorem State.setDie_ddrMarks (s : State) (i : Nat) (v : Die) : (s.setDie i v).ddrMarks = s.ddrMarks := rfl
@[simp] theorem State.setDie_cxlFilling (s : State) (i : Nat) (v : Die) : (s.setDie i v).cxlFilling = s.cxlFilling := rfl
@[simp] theorem State.setDie_cxlFresh (s : State) (i : Nat) (v : Die) : (s.setDie i v).cxlFresh = s.cxlFresh := rfl
@[simp] theorem State.setDie_dimms (s : State) (i : Nat) (v : Die) : (s.setDie i v).dimms = s.dimms := rfl
@[simp] theorem State.setDie_ddrFailed (s : State) (i : Nat) (v : Die) : (s.setDie i v).ddrFailed = s.ddrFailed := rfl
@[simp] theorem State.setDie_hbmAbsent (s : State) (i : Nat) (v : Die) : (s.setDie i v).hbmAbsent = s.hbmAbsent := rfl

@[simp] theorem State.setCore_get (s : State) (i j : Nat) (v : Core) : (s.setCore i v).core j = if j = i then v else s.core j := nget_nset _ _ _ _ _
@[simp] theorem State.setCore_self (s : State) (i : Nat) (v : Core) : (s.setCore i v).core i = v := nget_nset_self _ _ _ _
@[simp] theorem State.setCore_die (s : State) (i j : Nat) (v : Core) : (s.setCore i v).die j = s.die j := rfl
@[simp] theorem State.setCore_cluster (s : State) (i j : Nat) (v : Core) : (s.setCore i v).cluster j = s.cluster j := rfl
@[simp] theorem State.setCore_complex (s : State) (i j : Nat) (v : Core) : (s.setCore i v).complex j = s.complex j := rfl
@[simp] theorem State.setCore_hart (s : State) (i j : Nat) (v : Core) : (s.setCore i v).hart j = s.hart j := rfl
@[simp] theorem State.setCore_basin (s : State) (i j : Nat) (v : Core) : (s.setCore i v).basin j = s.basin j := rfl
@[simp] theorem State.setCore_segment (s : State) (i j : Nat) (v : Core) : (s.setCore i v).segment j = s.segment j := rfl
@[simp] theorem State.setCore_cxlPort (s : State) (i j : Nat) (v : Core) : (s.setCore i v).cxlPort j = s.cxlPort j := rfl
@[simp] theorem State.setCore_sluice (s : State) (i j : Nat) (v : Core) : (s.setCore i v).sluice j = s.sluice j := rfl
@[simp] theorem State.setCore_port (s : State) (i j : Nat) (v : Core) : (s.setCore i v).port j = s.port j := rfl
@[simp] theorem State.setCore_flow (s : State) (i j : Nat) (v : Core) : (s.setCore i v).flow j = s.flow j := rfl
@[simp] theorem State.setCore_link (s : State) (i j : Nat) (v : Core) : (s.setCore i v).link j = s.link j := rfl
@[simp] theorem State.setCore_check (s : State) (i j : Nat) (v : Core) : (s.setCore i v).check j = s.check j := rfl
@[simp] theorem State.setCore_pending (s : State) (i : Nat) (v : Core) : (s.setCore i v).pending = s.pending := rfl
@[simp] theorem State.setCore_lockCycle (s : State) (i : Nat) (v : Core) : (s.setCore i v).lockCycle = s.lockCycle := rfl
@[simp] theorem State.setCore_cyc (s : State) (i : Nat) (v : Core) : (s.setCore i v).cyc = s.cyc := rfl
@[simp] theorem State.setCore_freeCount (s : State) (i : Nat) (v : Core) : (s.setCore i v).freeCount = s.freeCount := rfl
@[simp] theorem State.setCore_pkg (s : State) (i : Nat) (v : Core) : (s.setCore i v).pkg = s.pkg := rfl
@[simp] theorem State.setCore_mem (s : State) (i : Nat) (v : Core) : (s.setCore i v).mem = s.mem := rfl
@[simp] theorem State.setCore_flash (s : State) (i : Nat) (v : Core) : (s.setCore i v).flash = s.flash := rfl
@[simp] theorem State.setCore_poison (s : State) (i : Nat) (v : Core) : (s.setCore i v).poison = s.poison := rfl
@[simp] theorem State.setCore_out (s : State) (i : Nat) (v : Core) : (s.setCore i v).out = s.out := rfl
@[simp] theorem State.setCore_signals (s : State) (i : Nat) (v : Core) : (s.setCore i v).signals = s.signals := rfl
@[simp] theorem State.setCore_ringBarges (s : State) (i : Nat) (v : Core) : (s.setCore i v).ringBarges = s.ringBarges := rfl
@[simp] theorem State.setCore_steps (s : State) (i : Nat) (v : Core) : (s.setCore i v).steps = s.steps := rfl
@[simp] theorem State.setCore_buckets (s : State) (i : Nat) (v : Core) : (s.setCore i v).buckets = s.buckets := rfl
@[simp] theorem State.setCore_slices (s : State) (i : Nat) (v : Core) : (s.setCore i v).slices = s.slices := rfl
@[simp] theorem State.setCore_wards (s : State) (i : Nat) (v : Core) : (s.setCore i v).wards = s.wards := rfl
@[simp] theorem State.setCore_requests (s : State) (i : Nat) (v : Core) : (s.setCore i v).requests = s.requests := rfl
@[simp] theorem State.setCore_alternates (s : State) (i : Nat) (v : Core) : (s.setCore i v).alternates = s.alternates := rfl
@[simp] theorem State.setCore_draining (s : State) (i : Nat) (v : Core) : (s.setCore i v).draining = s.draining := rfl
@[simp] theorem State.setCore_norms (s : State) (i : Nat) (v : Core) : (s.setCore i v).norms = s.norms := rfl
@[simp] theorem State.setCore_retired (s : State) (i : Nat) (v : Core) : (s.setCore i v).retired = s.retired := rfl
@[simp] theorem State.setCore_pieces (s : State) (i : Nat) (v : Core) : (s.setCore i v).pieces = s.pieces := rfl
@[simp] theorem State.setCore_drainWait (s : State) (i : Nat) (v : Core) : (s.setCore i v).drainWait = s.drainWait := rfl
@[simp] theorem State.setCore_kettleGen (s : State) (i : Nat) (v : Core) : (s.setCore i v).kettleGen = s.kettleGen := rfl
@[simp] theorem State.setCore_kettleShort (s : State) (i : Nat) (v : Core) : (s.setCore i v).kettleShort = s.kettleShort := rfl
@[simp] theorem State.setCore_kettleDepartures (s : State) (i : Nat) (v : Core) : (s.setCore i v).kettleDepartures = s.kettleDepartures := rfl
@[simp] theorem State.setCore_kettleGhosts (s : State) (i : Nat) (v : Core) : (s.setCore i v).kettleGhosts = s.kettleGhosts := rfl
@[simp] theorem State.setCore_latches (s : State) (i : Nat) (v : Core) : (s.setCore i v).latches = s.latches := rfl
@[simp] theorem State.setCore_tlb (s : State) (i : Nat) (v : Core) : (s.setCore i v).tlb = s.tlb := rfl
@[simp] theorem State.setCore_snoopLines (s : State) (i : Nat) (v : Core) : (s.setCore i v).snoopLines = s.snoopLines := rfl
@[simp] theorem State.setCore_caches (s : State) (i : Nat) (v : Core) : (s.setCore i v).caches = s.caches := rfl
@[simp] theorem State.setCore_ddrMarks (s : State) (i : Nat) (v : Core) : (s.setCore i v).ddrMarks = s.ddrMarks := rfl
@[simp] theorem State.setCore_cxlFilling (s : State) (i : Nat) (v : Core) : (s.setCore i v).cxlFilling = s.cxlFilling := rfl
@[simp] theorem State.setCore_cxlFresh (s : State) (i : Nat) (v : Core) : (s.setCore i v).cxlFresh = s.cxlFresh := rfl
@[simp] theorem State.setCore_dimms (s : State) (i : Nat) (v : Core) : (s.setCore i v).dimms = s.dimms := rfl
@[simp] theorem State.setCore_ddrFailed (s : State) (i : Nat) (v : Core) : (s.setCore i v).ddrFailed = s.ddrFailed := rfl
@[simp] theorem State.setCore_hbmAbsent (s : State) (i : Nat) (v : Core) : (s.setCore i v).hbmAbsent = s.hbmAbsent := rfl

@[simp] theorem State.setCluster_get (s : State) (i j : Nat) (v : Cluster) : (s.setCluster i v).cluster j = if j = i then v else s.cluster j := nget_nset _ _ _ _ _
@[simp] theorem State.setCluster_self (s : State) (i : Nat) (v : Cluster) : (s.setCluster i v).cluster i = v := nget_nset_self _ _ _ _
@[simp] theorem State.setCluster_die (s : State) (i j : Nat) (v : Cluster) : (s.setCluster i v).die j = s.die j := rfl
@[simp] theorem State.setCluster_core (s : State) (i j : Nat) (v : Cluster) : (s.setCluster i v).core j = s.core j := rfl
@[simp] theorem State.setCluster_complex (s : State) (i j : Nat) (v : Cluster) : (s.setCluster i v).complex j = s.complex j := rfl
@[simp] theorem State.setCluster_hart (s : State) (i j : Nat) (v : Cluster) : (s.setCluster i v).hart j = s.hart j := rfl
@[simp] theorem State.setCluster_basin (s : State) (i j : Nat) (v : Cluster) : (s.setCluster i v).basin j = s.basin j := rfl
@[simp] theorem State.setCluster_segment (s : State) (i j : Nat) (v : Cluster) : (s.setCluster i v).segment j = s.segment j := rfl
@[simp] theorem State.setCluster_cxlPort (s : State) (i j : Nat) (v : Cluster) : (s.setCluster i v).cxlPort j = s.cxlPort j := rfl
@[simp] theorem State.setCluster_sluice (s : State) (i j : Nat) (v : Cluster) : (s.setCluster i v).sluice j = s.sluice j := rfl
@[simp] theorem State.setCluster_port (s : State) (i j : Nat) (v : Cluster) : (s.setCluster i v).port j = s.port j := rfl
@[simp] theorem State.setCluster_flow (s : State) (i j : Nat) (v : Cluster) : (s.setCluster i v).flow j = s.flow j := rfl
@[simp] theorem State.setCluster_link (s : State) (i j : Nat) (v : Cluster) : (s.setCluster i v).link j = s.link j := rfl
@[simp] theorem State.setCluster_check (s : State) (i j : Nat) (v : Cluster) : (s.setCluster i v).check j = s.check j := rfl
@[simp] theorem State.setCluster_pending (s : State) (i : Nat) (v : Cluster) : (s.setCluster i v).pending = s.pending := rfl
@[simp] theorem State.setCluster_lockCycle (s : State) (i : Nat) (v : Cluster) : (s.setCluster i v).lockCycle = s.lockCycle := rfl
@[simp] theorem State.setCluster_cyc (s : State) (i : Nat) (v : Cluster) : (s.setCluster i v).cyc = s.cyc := rfl
@[simp] theorem State.setCluster_freeCount (s : State) (i : Nat) (v : Cluster) : (s.setCluster i v).freeCount = s.freeCount := rfl
@[simp] theorem State.setCluster_pkg (s : State) (i : Nat) (v : Cluster) : (s.setCluster i v).pkg = s.pkg := rfl
@[simp] theorem State.setCluster_mem (s : State) (i : Nat) (v : Cluster) : (s.setCluster i v).mem = s.mem := rfl
@[simp] theorem State.setCluster_flash (s : State) (i : Nat) (v : Cluster) : (s.setCluster i v).flash = s.flash := rfl
@[simp] theorem State.setCluster_poison (s : State) (i : Nat) (v : Cluster) : (s.setCluster i v).poison = s.poison := rfl
@[simp] theorem State.setCluster_out (s : State) (i : Nat) (v : Cluster) : (s.setCluster i v).out = s.out := rfl
@[simp] theorem State.setCluster_signals (s : State) (i : Nat) (v : Cluster) : (s.setCluster i v).signals = s.signals := rfl
@[simp] theorem State.setCluster_ringBarges (s : State) (i : Nat) (v : Cluster) : (s.setCluster i v).ringBarges = s.ringBarges := rfl
@[simp] theorem State.setCluster_steps (s : State) (i : Nat) (v : Cluster) : (s.setCluster i v).steps = s.steps := rfl
@[simp] theorem State.setCluster_buckets (s : State) (i : Nat) (v : Cluster) : (s.setCluster i v).buckets = s.buckets := rfl
@[simp] theorem State.setCluster_slices (s : State) (i : Nat) (v : Cluster) : (s.setCluster i v).slices = s.slices := rfl
@[simp] theorem State.setCluster_wards (s : State) (i : Nat) (v : Cluster) : (s.setCluster i v).wards = s.wards := rfl
@[simp] theorem State.setCluster_requests (s : State) (i : Nat) (v : Cluster) : (s.setCluster i v).requests = s.requests := rfl
@[simp] theorem State.setCluster_alternates (s : State) (i : Nat) (v : Cluster) : (s.setCluster i v).alternates = s.alternates := rfl
@[simp] theorem State.setCluster_draining (s : State) (i : Nat) (v : Cluster) : (s.setCluster i v).draining = s.draining := rfl
@[simp] theorem State.setCluster_norms (s : State) (i : Nat) (v : Cluster) : (s.setCluster i v).norms = s.norms := rfl
@[simp] theorem State.setCluster_retired (s : State) (i : Nat) (v : Cluster) : (s.setCluster i v).retired = s.retired := rfl
@[simp] theorem State.setCluster_pieces (s : State) (i : Nat) (v : Cluster) : (s.setCluster i v).pieces = s.pieces := rfl
@[simp] theorem State.setCluster_drainWait (s : State) (i : Nat) (v : Cluster) : (s.setCluster i v).drainWait = s.drainWait := rfl
@[simp] theorem State.setCluster_kettleGen (s : State) (i : Nat) (v : Cluster) : (s.setCluster i v).kettleGen = s.kettleGen := rfl
@[simp] theorem State.setCluster_kettleShort (s : State) (i : Nat) (v : Cluster) : (s.setCluster i v).kettleShort = s.kettleShort := rfl
@[simp] theorem State.setCluster_kettleDepartures (s : State) (i : Nat) (v : Cluster) : (s.setCluster i v).kettleDepartures = s.kettleDepartures := rfl
@[simp] theorem State.setCluster_kettleGhosts (s : State) (i : Nat) (v : Cluster) : (s.setCluster i v).kettleGhosts = s.kettleGhosts := rfl
@[simp] theorem State.setCluster_latches (s : State) (i : Nat) (v : Cluster) : (s.setCluster i v).latches = s.latches := rfl
@[simp] theorem State.setCluster_tlb (s : State) (i : Nat) (v : Cluster) : (s.setCluster i v).tlb = s.tlb := rfl
@[simp] theorem State.setCluster_snoopLines (s : State) (i : Nat) (v : Cluster) : (s.setCluster i v).snoopLines = s.snoopLines := rfl
@[simp] theorem State.setCluster_caches (s : State) (i : Nat) (v : Cluster) : (s.setCluster i v).caches = s.caches := rfl
@[simp] theorem State.setCluster_ddrMarks (s : State) (i : Nat) (v : Cluster) : (s.setCluster i v).ddrMarks = s.ddrMarks := rfl
@[simp] theorem State.setCluster_cxlFilling (s : State) (i : Nat) (v : Cluster) : (s.setCluster i v).cxlFilling = s.cxlFilling := rfl
@[simp] theorem State.setCluster_cxlFresh (s : State) (i : Nat) (v : Cluster) : (s.setCluster i v).cxlFresh = s.cxlFresh := rfl
@[simp] theorem State.setCluster_dimms (s : State) (i : Nat) (v : Cluster) : (s.setCluster i v).dimms = s.dimms := rfl
@[simp] theorem State.setCluster_ddrFailed (s : State) (i : Nat) (v : Cluster) : (s.setCluster i v).ddrFailed = s.ddrFailed := rfl
@[simp] theorem State.setCluster_hbmAbsent (s : State) (i : Nat) (v : Cluster) : (s.setCluster i v).hbmAbsent = s.hbmAbsent := rfl

@[simp] theorem State.setComplex_get (s : State) (i j : Nat) (v : Complex) : (s.setComplex i v).complex j = if j = i then v else s.complex j := nget_nset _ _ _ _ _
@[simp] theorem State.setComplex_self (s : State) (i : Nat) (v : Complex) : (s.setComplex i v).complex i = v := nget_nset_self _ _ _ _
@[simp] theorem State.setComplex_die (s : State) (i j : Nat) (v : Complex) : (s.setComplex i v).die j = s.die j := rfl
@[simp] theorem State.setComplex_core (s : State) (i j : Nat) (v : Complex) : (s.setComplex i v).core j = s.core j := rfl
@[simp] theorem State.setComplex_cluster (s : State) (i j : Nat) (v : Complex) : (s.setComplex i v).cluster j = s.cluster j := rfl
@[simp] theorem State.setComplex_hart (s : State) (i j : Nat) (v : Complex) : (s.setComplex i v).hart j = s.hart j := rfl
@[simp] theorem State.setComplex_basin (s : State) (i j : Nat) (v : Complex) : (s.setComplex i v).basin j = s.basin j := rfl
@[simp] theorem State.setComplex_segment (s : State) (i j : Nat) (v : Complex) : (s.setComplex i v).segment j = s.segment j := rfl
@[simp] theorem State.setComplex_cxlPort (s : State) (i j : Nat) (v : Complex) : (s.setComplex i v).cxlPort j = s.cxlPort j := rfl
@[simp] theorem State.setComplex_sluice (s : State) (i j : Nat) (v : Complex) : (s.setComplex i v).sluice j = s.sluice j := rfl
@[simp] theorem State.setComplex_port (s : State) (i j : Nat) (v : Complex) : (s.setComplex i v).port j = s.port j := rfl
@[simp] theorem State.setComplex_flow (s : State) (i j : Nat) (v : Complex) : (s.setComplex i v).flow j = s.flow j := rfl
@[simp] theorem State.setComplex_link (s : State) (i j : Nat) (v : Complex) : (s.setComplex i v).link j = s.link j := rfl
@[simp] theorem State.setComplex_check (s : State) (i j : Nat) (v : Complex) : (s.setComplex i v).check j = s.check j := rfl
@[simp] theorem State.setComplex_pending (s : State) (i : Nat) (v : Complex) : (s.setComplex i v).pending = s.pending := rfl
@[simp] theorem State.setComplex_lockCycle (s : State) (i : Nat) (v : Complex) : (s.setComplex i v).lockCycle = s.lockCycle := rfl
@[simp] theorem State.setComplex_cyc (s : State) (i : Nat) (v : Complex) : (s.setComplex i v).cyc = s.cyc := rfl
@[simp] theorem State.setComplex_freeCount (s : State) (i : Nat) (v : Complex) : (s.setComplex i v).freeCount = s.freeCount := rfl
@[simp] theorem State.setComplex_pkg (s : State) (i : Nat) (v : Complex) : (s.setComplex i v).pkg = s.pkg := rfl
@[simp] theorem State.setComplex_mem (s : State) (i : Nat) (v : Complex) : (s.setComplex i v).mem = s.mem := rfl
@[simp] theorem State.setComplex_flash (s : State) (i : Nat) (v : Complex) : (s.setComplex i v).flash = s.flash := rfl
@[simp] theorem State.setComplex_poison (s : State) (i : Nat) (v : Complex) : (s.setComplex i v).poison = s.poison := rfl
@[simp] theorem State.setComplex_out (s : State) (i : Nat) (v : Complex) : (s.setComplex i v).out = s.out := rfl
@[simp] theorem State.setComplex_signals (s : State) (i : Nat) (v : Complex) : (s.setComplex i v).signals = s.signals := rfl
@[simp] theorem State.setComplex_ringBarges (s : State) (i : Nat) (v : Complex) : (s.setComplex i v).ringBarges = s.ringBarges := rfl
@[simp] theorem State.setComplex_steps (s : State) (i : Nat) (v : Complex) : (s.setComplex i v).steps = s.steps := rfl
@[simp] theorem State.setComplex_buckets (s : State) (i : Nat) (v : Complex) : (s.setComplex i v).buckets = s.buckets := rfl
@[simp] theorem State.setComplex_slices (s : State) (i : Nat) (v : Complex) : (s.setComplex i v).slices = s.slices := rfl
@[simp] theorem State.setComplex_wards (s : State) (i : Nat) (v : Complex) : (s.setComplex i v).wards = s.wards := rfl
@[simp] theorem State.setComplex_requests (s : State) (i : Nat) (v : Complex) : (s.setComplex i v).requests = s.requests := rfl
@[simp] theorem State.setComplex_alternates (s : State) (i : Nat) (v : Complex) : (s.setComplex i v).alternates = s.alternates := rfl
@[simp] theorem State.setComplex_draining (s : State) (i : Nat) (v : Complex) : (s.setComplex i v).draining = s.draining := rfl
@[simp] theorem State.setComplex_norms (s : State) (i : Nat) (v : Complex) : (s.setComplex i v).norms = s.norms := rfl
@[simp] theorem State.setComplex_retired (s : State) (i : Nat) (v : Complex) : (s.setComplex i v).retired = s.retired := rfl
@[simp] theorem State.setComplex_pieces (s : State) (i : Nat) (v : Complex) : (s.setComplex i v).pieces = s.pieces := rfl
@[simp] theorem State.setComplex_drainWait (s : State) (i : Nat) (v : Complex) : (s.setComplex i v).drainWait = s.drainWait := rfl
@[simp] theorem State.setComplex_kettleGen (s : State) (i : Nat) (v : Complex) : (s.setComplex i v).kettleGen = s.kettleGen := rfl
@[simp] theorem State.setComplex_kettleShort (s : State) (i : Nat) (v : Complex) : (s.setComplex i v).kettleShort = s.kettleShort := rfl
@[simp] theorem State.setComplex_kettleDepartures (s : State) (i : Nat) (v : Complex) : (s.setComplex i v).kettleDepartures = s.kettleDepartures := rfl
@[simp] theorem State.setComplex_kettleGhosts (s : State) (i : Nat) (v : Complex) : (s.setComplex i v).kettleGhosts = s.kettleGhosts := rfl
@[simp] theorem State.setComplex_latches (s : State) (i : Nat) (v : Complex) : (s.setComplex i v).latches = s.latches := rfl
@[simp] theorem State.setComplex_tlb (s : State) (i : Nat) (v : Complex) : (s.setComplex i v).tlb = s.tlb := rfl
@[simp] theorem State.setComplex_snoopLines (s : State) (i : Nat) (v : Complex) : (s.setComplex i v).snoopLines = s.snoopLines := rfl
@[simp] theorem State.setComplex_caches (s : State) (i : Nat) (v : Complex) : (s.setComplex i v).caches = s.caches := rfl
@[simp] theorem State.setComplex_ddrMarks (s : State) (i : Nat) (v : Complex) : (s.setComplex i v).ddrMarks = s.ddrMarks := rfl
@[simp] theorem State.setComplex_cxlFilling (s : State) (i : Nat) (v : Complex) : (s.setComplex i v).cxlFilling = s.cxlFilling := rfl
@[simp] theorem State.setComplex_cxlFresh (s : State) (i : Nat) (v : Complex) : (s.setComplex i v).cxlFresh = s.cxlFresh := rfl
@[simp] theorem State.setComplex_dimms (s : State) (i : Nat) (v : Complex) : (s.setComplex i v).dimms = s.dimms := rfl
@[simp] theorem State.setComplex_ddrFailed (s : State) (i : Nat) (v : Complex) : (s.setComplex i v).ddrFailed = s.ddrFailed := rfl
@[simp] theorem State.setComplex_hbmAbsent (s : State) (i : Nat) (v : Complex) : (s.setComplex i v).hbmAbsent = s.hbmAbsent := rfl

@[simp] theorem State.setHart_get (s : State) (i j : Nat) (v : Hart) : (s.setHart i v).hart j = if j = i then v else s.hart j := nget_nset _ _ _ _ _
@[simp] theorem State.setHart_self (s : State) (i : Nat) (v : Hart) : (s.setHart i v).hart i = v := nget_nset_self _ _ _ _
@[simp] theorem State.setHart_die (s : State) (i j : Nat) (v : Hart) : (s.setHart i v).die j = s.die j := rfl
@[simp] theorem State.setHart_core (s : State) (i j : Nat) (v : Hart) : (s.setHart i v).core j = s.core j := rfl
@[simp] theorem State.setHart_cluster (s : State) (i j : Nat) (v : Hart) : (s.setHart i v).cluster j = s.cluster j := rfl
@[simp] theorem State.setHart_complex (s : State) (i j : Nat) (v : Hart) : (s.setHart i v).complex j = s.complex j := rfl
@[simp] theorem State.setHart_basin (s : State) (i j : Nat) (v : Hart) : (s.setHart i v).basin j = s.basin j := rfl
@[simp] theorem State.setHart_segment (s : State) (i j : Nat) (v : Hart) : (s.setHart i v).segment j = s.segment j := rfl
@[simp] theorem State.setHart_cxlPort (s : State) (i j : Nat) (v : Hart) : (s.setHart i v).cxlPort j = s.cxlPort j := rfl
@[simp] theorem State.setHart_sluice (s : State) (i j : Nat) (v : Hart) : (s.setHart i v).sluice j = s.sluice j := rfl
@[simp] theorem State.setHart_port (s : State) (i j : Nat) (v : Hart) : (s.setHart i v).port j = s.port j := rfl
@[simp] theorem State.setHart_flow (s : State) (i j : Nat) (v : Hart) : (s.setHart i v).flow j = s.flow j := rfl
@[simp] theorem State.setHart_link (s : State) (i j : Nat) (v : Hart) : (s.setHart i v).link j = s.link j := rfl
@[simp] theorem State.setHart_check (s : State) (i j : Nat) (v : Hart) : (s.setHart i v).check j = s.check j := rfl
@[simp] theorem State.setHart_pending (s : State) (i : Nat) (v : Hart) : (s.setHart i v).pending = s.pending := rfl
@[simp] theorem State.setHart_lockCycle (s : State) (i : Nat) (v : Hart) : (s.setHart i v).lockCycle = s.lockCycle := rfl
@[simp] theorem State.setHart_cyc (s : State) (i : Nat) (v : Hart) : (s.setHart i v).cyc = s.cyc := rfl
@[simp] theorem State.setHart_freeCount (s : State) (i : Nat) (v : Hart) : (s.setHart i v).freeCount = s.freeCount := rfl
@[simp] theorem State.setHart_pkg (s : State) (i : Nat) (v : Hart) : (s.setHart i v).pkg = s.pkg := rfl
@[simp] theorem State.setHart_mem (s : State) (i : Nat) (v : Hart) : (s.setHart i v).mem = s.mem := rfl
@[simp] theorem State.setHart_flash (s : State) (i : Nat) (v : Hart) : (s.setHart i v).flash = s.flash := rfl
@[simp] theorem State.setHart_poison (s : State) (i : Nat) (v : Hart) : (s.setHart i v).poison = s.poison := rfl
@[simp] theorem State.setHart_out (s : State) (i : Nat) (v : Hart) : (s.setHart i v).out = s.out := rfl
@[simp] theorem State.setHart_signals (s : State) (i : Nat) (v : Hart) : (s.setHart i v).signals = s.signals := rfl
@[simp] theorem State.setHart_ringBarges (s : State) (i : Nat) (v : Hart) : (s.setHart i v).ringBarges = s.ringBarges := rfl
@[simp] theorem State.setHart_steps (s : State) (i : Nat) (v : Hart) : (s.setHart i v).steps = s.steps := rfl
@[simp] theorem State.setHart_buckets (s : State) (i : Nat) (v : Hart) : (s.setHart i v).buckets = s.buckets := rfl
@[simp] theorem State.setHart_slices (s : State) (i : Nat) (v : Hart) : (s.setHart i v).slices = s.slices := rfl
@[simp] theorem State.setHart_wards (s : State) (i : Nat) (v : Hart) : (s.setHart i v).wards = s.wards := rfl
@[simp] theorem State.setHart_requests (s : State) (i : Nat) (v : Hart) : (s.setHart i v).requests = s.requests := rfl
@[simp] theorem State.setHart_alternates (s : State) (i : Nat) (v : Hart) : (s.setHart i v).alternates = s.alternates := rfl
@[simp] theorem State.setHart_draining (s : State) (i : Nat) (v : Hart) : (s.setHart i v).draining = s.draining := rfl
@[simp] theorem State.setHart_norms (s : State) (i : Nat) (v : Hart) : (s.setHart i v).norms = s.norms := rfl
@[simp] theorem State.setHart_retired (s : State) (i : Nat) (v : Hart) : (s.setHart i v).retired = s.retired := rfl
@[simp] theorem State.setHart_pieces (s : State) (i : Nat) (v : Hart) : (s.setHart i v).pieces = s.pieces := rfl
@[simp] theorem State.setHart_drainWait (s : State) (i : Nat) (v : Hart) : (s.setHart i v).drainWait = s.drainWait := rfl
@[simp] theorem State.setHart_kettleGen (s : State) (i : Nat) (v : Hart) : (s.setHart i v).kettleGen = s.kettleGen := rfl
@[simp] theorem State.setHart_kettleShort (s : State) (i : Nat) (v : Hart) : (s.setHart i v).kettleShort = s.kettleShort := rfl
@[simp] theorem State.setHart_kettleDepartures (s : State) (i : Nat) (v : Hart) : (s.setHart i v).kettleDepartures = s.kettleDepartures := rfl
@[simp] theorem State.setHart_kettleGhosts (s : State) (i : Nat) (v : Hart) : (s.setHart i v).kettleGhosts = s.kettleGhosts := rfl
@[simp] theorem State.setHart_latches (s : State) (i : Nat) (v : Hart) : (s.setHart i v).latches = s.latches := rfl
@[simp] theorem State.setHart_tlb (s : State) (i : Nat) (v : Hart) : (s.setHart i v).tlb = s.tlb := rfl
@[simp] theorem State.setHart_snoopLines (s : State) (i : Nat) (v : Hart) : (s.setHart i v).snoopLines = s.snoopLines := rfl
@[simp] theorem State.setHart_caches (s : State) (i : Nat) (v : Hart) : (s.setHart i v).caches = s.caches := rfl
@[simp] theorem State.setHart_ddrMarks (s : State) (i : Nat) (v : Hart) : (s.setHart i v).ddrMarks = s.ddrMarks := rfl
@[simp] theorem State.setHart_cxlFilling (s : State) (i : Nat) (v : Hart) : (s.setHart i v).cxlFilling = s.cxlFilling := rfl
@[simp] theorem State.setHart_cxlFresh (s : State) (i : Nat) (v : Hart) : (s.setHart i v).cxlFresh = s.cxlFresh := rfl
@[simp] theorem State.setHart_dimms (s : State) (i : Nat) (v : Hart) : (s.setHart i v).dimms = s.dimms := rfl
@[simp] theorem State.setHart_ddrFailed (s : State) (i : Nat) (v : Hart) : (s.setHart i v).ddrFailed = s.ddrFailed := rfl
@[simp] theorem State.setHart_hbmAbsent (s : State) (i : Nat) (v : Hart) : (s.setHart i v).hbmAbsent = s.hbmAbsent := rfl

@[simp] theorem State.setBasin_get (s : State) (i j : Nat) (v : Basin) : (s.setBasin i v).basin j = if j = i then v else s.basin j := nget_nset _ _ _ _ _
@[simp] theorem State.setBasin_self (s : State) (i : Nat) (v : Basin) : (s.setBasin i v).basin i = v := nget_nset_self _ _ _ _
@[simp] theorem State.setBasin_die (s : State) (i j : Nat) (v : Basin) : (s.setBasin i v).die j = s.die j := rfl
@[simp] theorem State.setBasin_core (s : State) (i j : Nat) (v : Basin) : (s.setBasin i v).core j = s.core j := rfl
@[simp] theorem State.setBasin_cluster (s : State) (i j : Nat) (v : Basin) : (s.setBasin i v).cluster j = s.cluster j := rfl
@[simp] theorem State.setBasin_complex (s : State) (i j : Nat) (v : Basin) : (s.setBasin i v).complex j = s.complex j := rfl
@[simp] theorem State.setBasin_hart (s : State) (i j : Nat) (v : Basin) : (s.setBasin i v).hart j = s.hart j := rfl
@[simp] theorem State.setBasin_segment (s : State) (i j : Nat) (v : Basin) : (s.setBasin i v).segment j = s.segment j := rfl
@[simp] theorem State.setBasin_cxlPort (s : State) (i j : Nat) (v : Basin) : (s.setBasin i v).cxlPort j = s.cxlPort j := rfl
@[simp] theorem State.setBasin_sluice (s : State) (i j : Nat) (v : Basin) : (s.setBasin i v).sluice j = s.sluice j := rfl
@[simp] theorem State.setBasin_port (s : State) (i j : Nat) (v : Basin) : (s.setBasin i v).port j = s.port j := rfl
@[simp] theorem State.setBasin_flow (s : State) (i j : Nat) (v : Basin) : (s.setBasin i v).flow j = s.flow j := rfl
@[simp] theorem State.setBasin_link (s : State) (i j : Nat) (v : Basin) : (s.setBasin i v).link j = s.link j := rfl
@[simp] theorem State.setBasin_check (s : State) (i j : Nat) (v : Basin) : (s.setBasin i v).check j = s.check j := rfl
@[simp] theorem State.setBasin_pending (s : State) (i : Nat) (v : Basin) : (s.setBasin i v).pending = s.pending := rfl
@[simp] theorem State.setBasin_lockCycle (s : State) (i : Nat) (v : Basin) : (s.setBasin i v).lockCycle = s.lockCycle := rfl
@[simp] theorem State.setBasin_cyc (s : State) (i : Nat) (v : Basin) : (s.setBasin i v).cyc = s.cyc := rfl
@[simp] theorem State.setBasin_freeCount (s : State) (i : Nat) (v : Basin) : (s.setBasin i v).freeCount = s.freeCount := rfl
@[simp] theorem State.setBasin_pkg (s : State) (i : Nat) (v : Basin) : (s.setBasin i v).pkg = s.pkg := rfl
@[simp] theorem State.setBasin_mem (s : State) (i : Nat) (v : Basin) : (s.setBasin i v).mem = s.mem := rfl
@[simp] theorem State.setBasin_flash (s : State) (i : Nat) (v : Basin) : (s.setBasin i v).flash = s.flash := rfl
@[simp] theorem State.setBasin_poison (s : State) (i : Nat) (v : Basin) : (s.setBasin i v).poison = s.poison := rfl
@[simp] theorem State.setBasin_out (s : State) (i : Nat) (v : Basin) : (s.setBasin i v).out = s.out := rfl
@[simp] theorem State.setBasin_signals (s : State) (i : Nat) (v : Basin) : (s.setBasin i v).signals = s.signals := rfl
@[simp] theorem State.setBasin_ringBarges (s : State) (i : Nat) (v : Basin) : (s.setBasin i v).ringBarges = s.ringBarges := rfl
@[simp] theorem State.setBasin_steps (s : State) (i : Nat) (v : Basin) : (s.setBasin i v).steps = s.steps := rfl
@[simp] theorem State.setBasin_buckets (s : State) (i : Nat) (v : Basin) : (s.setBasin i v).buckets = s.buckets := rfl
@[simp] theorem State.setBasin_slices (s : State) (i : Nat) (v : Basin) : (s.setBasin i v).slices = s.slices := rfl
@[simp] theorem State.setBasin_wards (s : State) (i : Nat) (v : Basin) : (s.setBasin i v).wards = s.wards := rfl
@[simp] theorem State.setBasin_requests (s : State) (i : Nat) (v : Basin) : (s.setBasin i v).requests = s.requests := rfl
@[simp] theorem State.setBasin_alternates (s : State) (i : Nat) (v : Basin) : (s.setBasin i v).alternates = s.alternates := rfl
@[simp] theorem State.setBasin_draining (s : State) (i : Nat) (v : Basin) : (s.setBasin i v).draining = s.draining := rfl
@[simp] theorem State.setBasin_norms (s : State) (i : Nat) (v : Basin) : (s.setBasin i v).norms = s.norms := rfl
@[simp] theorem State.setBasin_retired (s : State) (i : Nat) (v : Basin) : (s.setBasin i v).retired = s.retired := rfl
@[simp] theorem State.setBasin_pieces (s : State) (i : Nat) (v : Basin) : (s.setBasin i v).pieces = s.pieces := rfl
@[simp] theorem State.setBasin_drainWait (s : State) (i : Nat) (v : Basin) : (s.setBasin i v).drainWait = s.drainWait := rfl
@[simp] theorem State.setBasin_kettleGen (s : State) (i : Nat) (v : Basin) : (s.setBasin i v).kettleGen = s.kettleGen := rfl
@[simp] theorem State.setBasin_kettleShort (s : State) (i : Nat) (v : Basin) : (s.setBasin i v).kettleShort = s.kettleShort := rfl
@[simp] theorem State.setBasin_kettleDepartures (s : State) (i : Nat) (v : Basin) : (s.setBasin i v).kettleDepartures = s.kettleDepartures := rfl
@[simp] theorem State.setBasin_kettleGhosts (s : State) (i : Nat) (v : Basin) : (s.setBasin i v).kettleGhosts = s.kettleGhosts := rfl
@[simp] theorem State.setBasin_latches (s : State) (i : Nat) (v : Basin) : (s.setBasin i v).latches = s.latches := rfl
@[simp] theorem State.setBasin_tlb (s : State) (i : Nat) (v : Basin) : (s.setBasin i v).tlb = s.tlb := rfl
@[simp] theorem State.setBasin_snoopLines (s : State) (i : Nat) (v : Basin) : (s.setBasin i v).snoopLines = s.snoopLines := rfl
@[simp] theorem State.setBasin_caches (s : State) (i : Nat) (v : Basin) : (s.setBasin i v).caches = s.caches := rfl
@[simp] theorem State.setBasin_ddrMarks (s : State) (i : Nat) (v : Basin) : (s.setBasin i v).ddrMarks = s.ddrMarks := rfl
@[simp] theorem State.setBasin_cxlFilling (s : State) (i : Nat) (v : Basin) : (s.setBasin i v).cxlFilling = s.cxlFilling := rfl
@[simp] theorem State.setBasin_cxlFresh (s : State) (i : Nat) (v : Basin) : (s.setBasin i v).cxlFresh = s.cxlFresh := rfl
@[simp] theorem State.setBasin_dimms (s : State) (i : Nat) (v : Basin) : (s.setBasin i v).dimms = s.dimms := rfl
@[simp] theorem State.setBasin_ddrFailed (s : State) (i : Nat) (v : Basin) : (s.setBasin i v).ddrFailed = s.ddrFailed := rfl
@[simp] theorem State.setBasin_hbmAbsent (s : State) (i : Nat) (v : Basin) : (s.setBasin i v).hbmAbsent = s.hbmAbsent := rfl

@[simp] theorem State.setSegment_get (s : State) (i j : Nat) (v : Segment) : (s.setSegment i v).segment j = if j = i then v else s.segment j := nget_nset _ _ _ _ _
@[simp] theorem State.setSegment_self (s : State) (i : Nat) (v : Segment) : (s.setSegment i v).segment i = v := nget_nset_self _ _ _ _
@[simp] theorem State.setSegment_die (s : State) (i j : Nat) (v : Segment) : (s.setSegment i v).die j = s.die j := rfl
@[simp] theorem State.setSegment_core (s : State) (i j : Nat) (v : Segment) : (s.setSegment i v).core j = s.core j := rfl
@[simp] theorem State.setSegment_cluster (s : State) (i j : Nat) (v : Segment) : (s.setSegment i v).cluster j = s.cluster j := rfl
@[simp] theorem State.setSegment_complex (s : State) (i j : Nat) (v : Segment) : (s.setSegment i v).complex j = s.complex j := rfl
@[simp] theorem State.setSegment_hart (s : State) (i j : Nat) (v : Segment) : (s.setSegment i v).hart j = s.hart j := rfl
@[simp] theorem State.setSegment_basin (s : State) (i j : Nat) (v : Segment) : (s.setSegment i v).basin j = s.basin j := rfl
@[simp] theorem State.setSegment_cxlPort (s : State) (i j : Nat) (v : Segment) : (s.setSegment i v).cxlPort j = s.cxlPort j := rfl
@[simp] theorem State.setSegment_sluice (s : State) (i j : Nat) (v : Segment) : (s.setSegment i v).sluice j = s.sluice j := rfl
@[simp] theorem State.setSegment_port (s : State) (i j : Nat) (v : Segment) : (s.setSegment i v).port j = s.port j := rfl
@[simp] theorem State.setSegment_flow (s : State) (i j : Nat) (v : Segment) : (s.setSegment i v).flow j = s.flow j := rfl
@[simp] theorem State.setSegment_link (s : State) (i j : Nat) (v : Segment) : (s.setSegment i v).link j = s.link j := rfl
@[simp] theorem State.setSegment_check (s : State) (i j : Nat) (v : Segment) : (s.setSegment i v).check j = s.check j := rfl
@[simp] theorem State.setSegment_pending (s : State) (i : Nat) (v : Segment) : (s.setSegment i v).pending = s.pending := rfl
@[simp] theorem State.setSegment_lockCycle (s : State) (i : Nat) (v : Segment) : (s.setSegment i v).lockCycle = s.lockCycle := rfl
@[simp] theorem State.setSegment_cyc (s : State) (i : Nat) (v : Segment) : (s.setSegment i v).cyc = s.cyc := rfl
@[simp] theorem State.setSegment_freeCount (s : State) (i : Nat) (v : Segment) : (s.setSegment i v).freeCount = s.freeCount := rfl
@[simp] theorem State.setSegment_pkg (s : State) (i : Nat) (v : Segment) : (s.setSegment i v).pkg = s.pkg := rfl
@[simp] theorem State.setSegment_mem (s : State) (i : Nat) (v : Segment) : (s.setSegment i v).mem = s.mem := rfl
@[simp] theorem State.setSegment_flash (s : State) (i : Nat) (v : Segment) : (s.setSegment i v).flash = s.flash := rfl
@[simp] theorem State.setSegment_poison (s : State) (i : Nat) (v : Segment) : (s.setSegment i v).poison = s.poison := rfl
@[simp] theorem State.setSegment_out (s : State) (i : Nat) (v : Segment) : (s.setSegment i v).out = s.out := rfl
@[simp] theorem State.setSegment_signals (s : State) (i : Nat) (v : Segment) : (s.setSegment i v).signals = s.signals := rfl
@[simp] theorem State.setSegment_ringBarges (s : State) (i : Nat) (v : Segment) : (s.setSegment i v).ringBarges = s.ringBarges := rfl
@[simp] theorem State.setSegment_steps (s : State) (i : Nat) (v : Segment) : (s.setSegment i v).steps = s.steps := rfl
@[simp] theorem State.setSegment_buckets (s : State) (i : Nat) (v : Segment) : (s.setSegment i v).buckets = s.buckets := rfl
@[simp] theorem State.setSegment_slices (s : State) (i : Nat) (v : Segment) : (s.setSegment i v).slices = s.slices := rfl
@[simp] theorem State.setSegment_wards (s : State) (i : Nat) (v : Segment) : (s.setSegment i v).wards = s.wards := rfl
@[simp] theorem State.setSegment_requests (s : State) (i : Nat) (v : Segment) : (s.setSegment i v).requests = s.requests := rfl
@[simp] theorem State.setSegment_alternates (s : State) (i : Nat) (v : Segment) : (s.setSegment i v).alternates = s.alternates := rfl
@[simp] theorem State.setSegment_draining (s : State) (i : Nat) (v : Segment) : (s.setSegment i v).draining = s.draining := rfl
@[simp] theorem State.setSegment_norms (s : State) (i : Nat) (v : Segment) : (s.setSegment i v).norms = s.norms := rfl
@[simp] theorem State.setSegment_retired (s : State) (i : Nat) (v : Segment) : (s.setSegment i v).retired = s.retired := rfl
@[simp] theorem State.setSegment_pieces (s : State) (i : Nat) (v : Segment) : (s.setSegment i v).pieces = s.pieces := rfl
@[simp] theorem State.setSegment_drainWait (s : State) (i : Nat) (v : Segment) : (s.setSegment i v).drainWait = s.drainWait := rfl
@[simp] theorem State.setSegment_kettleGen (s : State) (i : Nat) (v : Segment) : (s.setSegment i v).kettleGen = s.kettleGen := rfl
@[simp] theorem State.setSegment_kettleShort (s : State) (i : Nat) (v : Segment) : (s.setSegment i v).kettleShort = s.kettleShort := rfl
@[simp] theorem State.setSegment_kettleDepartures (s : State) (i : Nat) (v : Segment) : (s.setSegment i v).kettleDepartures = s.kettleDepartures := rfl
@[simp] theorem State.setSegment_kettleGhosts (s : State) (i : Nat) (v : Segment) : (s.setSegment i v).kettleGhosts = s.kettleGhosts := rfl
@[simp] theorem State.setSegment_latches (s : State) (i : Nat) (v : Segment) : (s.setSegment i v).latches = s.latches := rfl
@[simp] theorem State.setSegment_tlb (s : State) (i : Nat) (v : Segment) : (s.setSegment i v).tlb = s.tlb := rfl
@[simp] theorem State.setSegment_snoopLines (s : State) (i : Nat) (v : Segment) : (s.setSegment i v).snoopLines = s.snoopLines := rfl
@[simp] theorem State.setSegment_caches (s : State) (i : Nat) (v : Segment) : (s.setSegment i v).caches = s.caches := rfl
@[simp] theorem State.setSegment_ddrMarks (s : State) (i : Nat) (v : Segment) : (s.setSegment i v).ddrMarks = s.ddrMarks := rfl
@[simp] theorem State.setSegment_cxlFilling (s : State) (i : Nat) (v : Segment) : (s.setSegment i v).cxlFilling = s.cxlFilling := rfl
@[simp] theorem State.setSegment_cxlFresh (s : State) (i : Nat) (v : Segment) : (s.setSegment i v).cxlFresh = s.cxlFresh := rfl
@[simp] theorem State.setSegment_dimms (s : State) (i : Nat) (v : Segment) : (s.setSegment i v).dimms = s.dimms := rfl
@[simp] theorem State.setSegment_ddrFailed (s : State) (i : Nat) (v : Segment) : (s.setSegment i v).ddrFailed = s.ddrFailed := rfl
@[simp] theorem State.setSegment_hbmAbsent (s : State) (i : Nat) (v : Segment) : (s.setSegment i v).hbmAbsent = s.hbmAbsent := rfl

@[simp] theorem State.setCxlPort_get (s : State) (i j : Nat) (v : CxlPort) : (s.setCxlPort i v).cxlPort j = if j = i then v else s.cxlPort j := nget_nset _ _ _ _ _
@[simp] theorem State.setCxlPort_self (s : State) (i : Nat) (v : CxlPort) : (s.setCxlPort i v).cxlPort i = v := nget_nset_self _ _ _ _
@[simp] theorem State.setCxlPort_die (s : State) (i j : Nat) (v : CxlPort) : (s.setCxlPort i v).die j = s.die j := rfl
@[simp] theorem State.setCxlPort_core (s : State) (i j : Nat) (v : CxlPort) : (s.setCxlPort i v).core j = s.core j := rfl
@[simp] theorem State.setCxlPort_cluster (s : State) (i j : Nat) (v : CxlPort) : (s.setCxlPort i v).cluster j = s.cluster j := rfl
@[simp] theorem State.setCxlPort_complex (s : State) (i j : Nat) (v : CxlPort) : (s.setCxlPort i v).complex j = s.complex j := rfl
@[simp] theorem State.setCxlPort_hart (s : State) (i j : Nat) (v : CxlPort) : (s.setCxlPort i v).hart j = s.hart j := rfl
@[simp] theorem State.setCxlPort_basin (s : State) (i j : Nat) (v : CxlPort) : (s.setCxlPort i v).basin j = s.basin j := rfl
@[simp] theorem State.setCxlPort_segment (s : State) (i j : Nat) (v : CxlPort) : (s.setCxlPort i v).segment j = s.segment j := rfl
@[simp] theorem State.setCxlPort_sluice (s : State) (i j : Nat) (v : CxlPort) : (s.setCxlPort i v).sluice j = s.sluice j := rfl
@[simp] theorem State.setCxlPort_port (s : State) (i j : Nat) (v : CxlPort) : (s.setCxlPort i v).port j = s.port j := rfl
@[simp] theorem State.setCxlPort_flow (s : State) (i j : Nat) (v : CxlPort) : (s.setCxlPort i v).flow j = s.flow j := rfl
@[simp] theorem State.setCxlPort_link (s : State) (i j : Nat) (v : CxlPort) : (s.setCxlPort i v).link j = s.link j := rfl
@[simp] theorem State.setCxlPort_check (s : State) (i j : Nat) (v : CxlPort) : (s.setCxlPort i v).check j = s.check j := rfl
@[simp] theorem State.setCxlPort_pending (s : State) (i : Nat) (v : CxlPort) : (s.setCxlPort i v).pending = s.pending := rfl
@[simp] theorem State.setCxlPort_lockCycle (s : State) (i : Nat) (v : CxlPort) : (s.setCxlPort i v).lockCycle = s.lockCycle := rfl
@[simp] theorem State.setCxlPort_cyc (s : State) (i : Nat) (v : CxlPort) : (s.setCxlPort i v).cyc = s.cyc := rfl
@[simp] theorem State.setCxlPort_freeCount (s : State) (i : Nat) (v : CxlPort) : (s.setCxlPort i v).freeCount = s.freeCount := rfl
@[simp] theorem State.setCxlPort_pkg (s : State) (i : Nat) (v : CxlPort) : (s.setCxlPort i v).pkg = s.pkg := rfl
@[simp] theorem State.setCxlPort_mem (s : State) (i : Nat) (v : CxlPort) : (s.setCxlPort i v).mem = s.mem := rfl
@[simp] theorem State.setCxlPort_flash (s : State) (i : Nat) (v : CxlPort) : (s.setCxlPort i v).flash = s.flash := rfl
@[simp] theorem State.setCxlPort_poison (s : State) (i : Nat) (v : CxlPort) : (s.setCxlPort i v).poison = s.poison := rfl
@[simp] theorem State.setCxlPort_out (s : State) (i : Nat) (v : CxlPort) : (s.setCxlPort i v).out = s.out := rfl
@[simp] theorem State.setCxlPort_signals (s : State) (i : Nat) (v : CxlPort) : (s.setCxlPort i v).signals = s.signals := rfl
@[simp] theorem State.setCxlPort_ringBarges (s : State) (i : Nat) (v : CxlPort) : (s.setCxlPort i v).ringBarges = s.ringBarges := rfl
@[simp] theorem State.setCxlPort_steps (s : State) (i : Nat) (v : CxlPort) : (s.setCxlPort i v).steps = s.steps := rfl
@[simp] theorem State.setCxlPort_buckets (s : State) (i : Nat) (v : CxlPort) : (s.setCxlPort i v).buckets = s.buckets := rfl
@[simp] theorem State.setCxlPort_slices (s : State) (i : Nat) (v : CxlPort) : (s.setCxlPort i v).slices = s.slices := rfl
@[simp] theorem State.setCxlPort_wards (s : State) (i : Nat) (v : CxlPort) : (s.setCxlPort i v).wards = s.wards := rfl
@[simp] theorem State.setCxlPort_requests (s : State) (i : Nat) (v : CxlPort) : (s.setCxlPort i v).requests = s.requests := rfl
@[simp] theorem State.setCxlPort_alternates (s : State) (i : Nat) (v : CxlPort) : (s.setCxlPort i v).alternates = s.alternates := rfl
@[simp] theorem State.setCxlPort_draining (s : State) (i : Nat) (v : CxlPort) : (s.setCxlPort i v).draining = s.draining := rfl
@[simp] theorem State.setCxlPort_norms (s : State) (i : Nat) (v : CxlPort) : (s.setCxlPort i v).norms = s.norms := rfl
@[simp] theorem State.setCxlPort_retired (s : State) (i : Nat) (v : CxlPort) : (s.setCxlPort i v).retired = s.retired := rfl
@[simp] theorem State.setCxlPort_pieces (s : State) (i : Nat) (v : CxlPort) : (s.setCxlPort i v).pieces = s.pieces := rfl
@[simp] theorem State.setCxlPort_drainWait (s : State) (i : Nat) (v : CxlPort) : (s.setCxlPort i v).drainWait = s.drainWait := rfl
@[simp] theorem State.setCxlPort_kettleGen (s : State) (i : Nat) (v : CxlPort) : (s.setCxlPort i v).kettleGen = s.kettleGen := rfl
@[simp] theorem State.setCxlPort_kettleShort (s : State) (i : Nat) (v : CxlPort) : (s.setCxlPort i v).kettleShort = s.kettleShort := rfl
@[simp] theorem State.setCxlPort_kettleDepartures (s : State) (i : Nat) (v : CxlPort) : (s.setCxlPort i v).kettleDepartures = s.kettleDepartures := rfl
@[simp] theorem State.setCxlPort_kettleGhosts (s : State) (i : Nat) (v : CxlPort) : (s.setCxlPort i v).kettleGhosts = s.kettleGhosts := rfl
@[simp] theorem State.setCxlPort_latches (s : State) (i : Nat) (v : CxlPort) : (s.setCxlPort i v).latches = s.latches := rfl
@[simp] theorem State.setCxlPort_tlb (s : State) (i : Nat) (v : CxlPort) : (s.setCxlPort i v).tlb = s.tlb := rfl
@[simp] theorem State.setCxlPort_snoopLines (s : State) (i : Nat) (v : CxlPort) : (s.setCxlPort i v).snoopLines = s.snoopLines := rfl
@[simp] theorem State.setCxlPort_caches (s : State) (i : Nat) (v : CxlPort) : (s.setCxlPort i v).caches = s.caches := rfl
@[simp] theorem State.setCxlPort_ddrMarks (s : State) (i : Nat) (v : CxlPort) : (s.setCxlPort i v).ddrMarks = s.ddrMarks := rfl
@[simp] theorem State.setCxlPort_cxlFilling (s : State) (i : Nat) (v : CxlPort) : (s.setCxlPort i v).cxlFilling = s.cxlFilling := rfl
@[simp] theorem State.setCxlPort_cxlFresh (s : State) (i : Nat) (v : CxlPort) : (s.setCxlPort i v).cxlFresh = s.cxlFresh := rfl
@[simp] theorem State.setCxlPort_dimms (s : State) (i : Nat) (v : CxlPort) : (s.setCxlPort i v).dimms = s.dimms := rfl
@[simp] theorem State.setCxlPort_ddrFailed (s : State) (i : Nat) (v : CxlPort) : (s.setCxlPort i v).ddrFailed = s.ddrFailed := rfl
@[simp] theorem State.setCxlPort_hbmAbsent (s : State) (i : Nat) (v : CxlPort) : (s.setCxlPort i v).hbmAbsent = s.hbmAbsent := rfl

@[simp] theorem State.setSluice_get (s : State) (i j : Nat) (v : Sluice) : (s.setSluice i v).sluice j = if j = i then v else s.sluice j := nget_nset _ _ _ _ _
@[simp] theorem State.setSluice_self (s : State) (i : Nat) (v : Sluice) : (s.setSluice i v).sluice i = v := nget_nset_self _ _ _ _
@[simp] theorem State.setSluice_die (s : State) (i j : Nat) (v : Sluice) : (s.setSluice i v).die j = s.die j := rfl
@[simp] theorem State.setSluice_core (s : State) (i j : Nat) (v : Sluice) : (s.setSluice i v).core j = s.core j := rfl
@[simp] theorem State.setSluice_cluster (s : State) (i j : Nat) (v : Sluice) : (s.setSluice i v).cluster j = s.cluster j := rfl
@[simp] theorem State.setSluice_complex (s : State) (i j : Nat) (v : Sluice) : (s.setSluice i v).complex j = s.complex j := rfl
@[simp] theorem State.setSluice_hart (s : State) (i j : Nat) (v : Sluice) : (s.setSluice i v).hart j = s.hart j := rfl
@[simp] theorem State.setSluice_basin (s : State) (i j : Nat) (v : Sluice) : (s.setSluice i v).basin j = s.basin j := rfl
@[simp] theorem State.setSluice_segment (s : State) (i j : Nat) (v : Sluice) : (s.setSluice i v).segment j = s.segment j := rfl
@[simp] theorem State.setSluice_cxlPort (s : State) (i j : Nat) (v : Sluice) : (s.setSluice i v).cxlPort j = s.cxlPort j := rfl
@[simp] theorem State.setSluice_port (s : State) (i j : Nat) (v : Sluice) : (s.setSluice i v).port j = s.port j := rfl
@[simp] theorem State.setSluice_flow (s : State) (i j : Nat) (v : Sluice) : (s.setSluice i v).flow j = s.flow j := rfl
@[simp] theorem State.setSluice_link (s : State) (i j : Nat) (v : Sluice) : (s.setSluice i v).link j = s.link j := rfl
@[simp] theorem State.setSluice_check (s : State) (i j : Nat) (v : Sluice) : (s.setSluice i v).check j = s.check j := rfl
@[simp] theorem State.setSluice_pending (s : State) (i : Nat) (v : Sluice) : (s.setSluice i v).pending = s.pending := rfl
@[simp] theorem State.setSluice_lockCycle (s : State) (i : Nat) (v : Sluice) : (s.setSluice i v).lockCycle = s.lockCycle := rfl
@[simp] theorem State.setSluice_cyc (s : State) (i : Nat) (v : Sluice) : (s.setSluice i v).cyc = s.cyc := rfl
@[simp] theorem State.setSluice_freeCount (s : State) (i : Nat) (v : Sluice) : (s.setSluice i v).freeCount = s.freeCount := rfl
@[simp] theorem State.setSluice_pkg (s : State) (i : Nat) (v : Sluice) : (s.setSluice i v).pkg = s.pkg := rfl
@[simp] theorem State.setSluice_mem (s : State) (i : Nat) (v : Sluice) : (s.setSluice i v).mem = s.mem := rfl
@[simp] theorem State.setSluice_flash (s : State) (i : Nat) (v : Sluice) : (s.setSluice i v).flash = s.flash := rfl
@[simp] theorem State.setSluice_poison (s : State) (i : Nat) (v : Sluice) : (s.setSluice i v).poison = s.poison := rfl
@[simp] theorem State.setSluice_out (s : State) (i : Nat) (v : Sluice) : (s.setSluice i v).out = s.out := rfl
@[simp] theorem State.setSluice_signals (s : State) (i : Nat) (v : Sluice) : (s.setSluice i v).signals = s.signals := rfl
@[simp] theorem State.setSluice_ringBarges (s : State) (i : Nat) (v : Sluice) : (s.setSluice i v).ringBarges = s.ringBarges := rfl
@[simp] theorem State.setSluice_steps (s : State) (i : Nat) (v : Sluice) : (s.setSluice i v).steps = s.steps := rfl
@[simp] theorem State.setSluice_buckets (s : State) (i : Nat) (v : Sluice) : (s.setSluice i v).buckets = s.buckets := rfl
@[simp] theorem State.setSluice_slices (s : State) (i : Nat) (v : Sluice) : (s.setSluice i v).slices = s.slices := rfl
@[simp] theorem State.setSluice_wards (s : State) (i : Nat) (v : Sluice) : (s.setSluice i v).wards = s.wards := rfl
@[simp] theorem State.setSluice_requests (s : State) (i : Nat) (v : Sluice) : (s.setSluice i v).requests = s.requests := rfl
@[simp] theorem State.setSluice_alternates (s : State) (i : Nat) (v : Sluice) : (s.setSluice i v).alternates = s.alternates := rfl
@[simp] theorem State.setSluice_draining (s : State) (i : Nat) (v : Sluice) : (s.setSluice i v).draining = s.draining := rfl
@[simp] theorem State.setSluice_norms (s : State) (i : Nat) (v : Sluice) : (s.setSluice i v).norms = s.norms := rfl
@[simp] theorem State.setSluice_retired (s : State) (i : Nat) (v : Sluice) : (s.setSluice i v).retired = s.retired := rfl
@[simp] theorem State.setSluice_pieces (s : State) (i : Nat) (v : Sluice) : (s.setSluice i v).pieces = s.pieces := rfl
@[simp] theorem State.setSluice_drainWait (s : State) (i : Nat) (v : Sluice) : (s.setSluice i v).drainWait = s.drainWait := rfl
@[simp] theorem State.setSluice_kettleGen (s : State) (i : Nat) (v : Sluice) : (s.setSluice i v).kettleGen = s.kettleGen := rfl
@[simp] theorem State.setSluice_kettleShort (s : State) (i : Nat) (v : Sluice) : (s.setSluice i v).kettleShort = s.kettleShort := rfl
@[simp] theorem State.setSluice_kettleDepartures (s : State) (i : Nat) (v : Sluice) : (s.setSluice i v).kettleDepartures = s.kettleDepartures := rfl
@[simp] theorem State.setSluice_kettleGhosts (s : State) (i : Nat) (v : Sluice) : (s.setSluice i v).kettleGhosts = s.kettleGhosts := rfl
@[simp] theorem State.setSluice_latches (s : State) (i : Nat) (v : Sluice) : (s.setSluice i v).latches = s.latches := rfl
@[simp] theorem State.setSluice_tlb (s : State) (i : Nat) (v : Sluice) : (s.setSluice i v).tlb = s.tlb := rfl
@[simp] theorem State.setSluice_snoopLines (s : State) (i : Nat) (v : Sluice) : (s.setSluice i v).snoopLines = s.snoopLines := rfl
@[simp] theorem State.setSluice_caches (s : State) (i : Nat) (v : Sluice) : (s.setSluice i v).caches = s.caches := rfl
@[simp] theorem State.setSluice_ddrMarks (s : State) (i : Nat) (v : Sluice) : (s.setSluice i v).ddrMarks = s.ddrMarks := rfl
@[simp] theorem State.setSluice_cxlFilling (s : State) (i : Nat) (v : Sluice) : (s.setSluice i v).cxlFilling = s.cxlFilling := rfl
@[simp] theorem State.setSluice_cxlFresh (s : State) (i : Nat) (v : Sluice) : (s.setSluice i v).cxlFresh = s.cxlFresh := rfl
@[simp] theorem State.setSluice_dimms (s : State) (i : Nat) (v : Sluice) : (s.setSluice i v).dimms = s.dimms := rfl
@[simp] theorem State.setSluice_ddrFailed (s : State) (i : Nat) (v : Sluice) : (s.setSluice i v).ddrFailed = s.ddrFailed := rfl
@[simp] theorem State.setSluice_hbmAbsent (s : State) (i : Nat) (v : Sluice) : (s.setSluice i v).hbmAbsent = s.hbmAbsent := rfl

@[simp] theorem State.setPort_get (s : State) (i j : Nat) (v : Port) : (s.setPort i v).port j = if j = i then v else s.port j := nget_nset _ _ _ _ _
@[simp] theorem State.setPort_self (s : State) (i : Nat) (v : Port) : (s.setPort i v).port i = v := nget_nset_self _ _ _ _
@[simp] theorem State.setPort_die (s : State) (i j : Nat) (v : Port) : (s.setPort i v).die j = s.die j := rfl
@[simp] theorem State.setPort_core (s : State) (i j : Nat) (v : Port) : (s.setPort i v).core j = s.core j := rfl
@[simp] theorem State.setPort_cluster (s : State) (i j : Nat) (v : Port) : (s.setPort i v).cluster j = s.cluster j := rfl
@[simp] theorem State.setPort_complex (s : State) (i j : Nat) (v : Port) : (s.setPort i v).complex j = s.complex j := rfl
@[simp] theorem State.setPort_hart (s : State) (i j : Nat) (v : Port) : (s.setPort i v).hart j = s.hart j := rfl
@[simp] theorem State.setPort_basin (s : State) (i j : Nat) (v : Port) : (s.setPort i v).basin j = s.basin j := rfl
@[simp] theorem State.setPort_segment (s : State) (i j : Nat) (v : Port) : (s.setPort i v).segment j = s.segment j := rfl
@[simp] theorem State.setPort_cxlPort (s : State) (i j : Nat) (v : Port) : (s.setPort i v).cxlPort j = s.cxlPort j := rfl
@[simp] theorem State.setPort_sluice (s : State) (i j : Nat) (v : Port) : (s.setPort i v).sluice j = s.sluice j := rfl
@[simp] theorem State.setPort_flow (s : State) (i j : Nat) (v : Port) : (s.setPort i v).flow j = s.flow j := rfl
@[simp] theorem State.setPort_link (s : State) (i j : Nat) (v : Port) : (s.setPort i v).link j = s.link j := rfl
@[simp] theorem State.setPort_check (s : State) (i j : Nat) (v : Port) : (s.setPort i v).check j = s.check j := rfl
@[simp] theorem State.setPort_pending (s : State) (i : Nat) (v : Port) : (s.setPort i v).pending = s.pending := rfl
@[simp] theorem State.setPort_lockCycle (s : State) (i : Nat) (v : Port) : (s.setPort i v).lockCycle = s.lockCycle := rfl
@[simp] theorem State.setPort_cyc (s : State) (i : Nat) (v : Port) : (s.setPort i v).cyc = s.cyc := rfl
@[simp] theorem State.setPort_freeCount (s : State) (i : Nat) (v : Port) : (s.setPort i v).freeCount = s.freeCount := rfl
@[simp] theorem State.setPort_pkg (s : State) (i : Nat) (v : Port) : (s.setPort i v).pkg = s.pkg := rfl
@[simp] theorem State.setPort_mem (s : State) (i : Nat) (v : Port) : (s.setPort i v).mem = s.mem := rfl
@[simp] theorem State.setPort_flash (s : State) (i : Nat) (v : Port) : (s.setPort i v).flash = s.flash := rfl
@[simp] theorem State.setPort_poison (s : State) (i : Nat) (v : Port) : (s.setPort i v).poison = s.poison := rfl
@[simp] theorem State.setPort_out (s : State) (i : Nat) (v : Port) : (s.setPort i v).out = s.out := rfl
@[simp] theorem State.setPort_signals (s : State) (i : Nat) (v : Port) : (s.setPort i v).signals = s.signals := rfl
@[simp] theorem State.setPort_ringBarges (s : State) (i : Nat) (v : Port) : (s.setPort i v).ringBarges = s.ringBarges := rfl
@[simp] theorem State.setPort_steps (s : State) (i : Nat) (v : Port) : (s.setPort i v).steps = s.steps := rfl
@[simp] theorem State.setPort_buckets (s : State) (i : Nat) (v : Port) : (s.setPort i v).buckets = s.buckets := rfl
@[simp] theorem State.setPort_slices (s : State) (i : Nat) (v : Port) : (s.setPort i v).slices = s.slices := rfl
@[simp] theorem State.setPort_wards (s : State) (i : Nat) (v : Port) : (s.setPort i v).wards = s.wards := rfl
@[simp] theorem State.setPort_requests (s : State) (i : Nat) (v : Port) : (s.setPort i v).requests = s.requests := rfl
@[simp] theorem State.setPort_alternates (s : State) (i : Nat) (v : Port) : (s.setPort i v).alternates = s.alternates := rfl
@[simp] theorem State.setPort_draining (s : State) (i : Nat) (v : Port) : (s.setPort i v).draining = s.draining := rfl
@[simp] theorem State.setPort_norms (s : State) (i : Nat) (v : Port) : (s.setPort i v).norms = s.norms := rfl
@[simp] theorem State.setPort_retired (s : State) (i : Nat) (v : Port) : (s.setPort i v).retired = s.retired := rfl
@[simp] theorem State.setPort_pieces (s : State) (i : Nat) (v : Port) : (s.setPort i v).pieces = s.pieces := rfl
@[simp] theorem State.setPort_drainWait (s : State) (i : Nat) (v : Port) : (s.setPort i v).drainWait = s.drainWait := rfl
@[simp] theorem State.setPort_kettleGen (s : State) (i : Nat) (v : Port) : (s.setPort i v).kettleGen = s.kettleGen := rfl
@[simp] theorem State.setPort_kettleShort (s : State) (i : Nat) (v : Port) : (s.setPort i v).kettleShort = s.kettleShort := rfl
@[simp] theorem State.setPort_kettleDepartures (s : State) (i : Nat) (v : Port) : (s.setPort i v).kettleDepartures = s.kettleDepartures := rfl
@[simp] theorem State.setPort_kettleGhosts (s : State) (i : Nat) (v : Port) : (s.setPort i v).kettleGhosts = s.kettleGhosts := rfl
@[simp] theorem State.setPort_latches (s : State) (i : Nat) (v : Port) : (s.setPort i v).latches = s.latches := rfl
@[simp] theorem State.setPort_tlb (s : State) (i : Nat) (v : Port) : (s.setPort i v).tlb = s.tlb := rfl
@[simp] theorem State.setPort_snoopLines (s : State) (i : Nat) (v : Port) : (s.setPort i v).snoopLines = s.snoopLines := rfl
@[simp] theorem State.setPort_caches (s : State) (i : Nat) (v : Port) : (s.setPort i v).caches = s.caches := rfl
@[simp] theorem State.setPort_ddrMarks (s : State) (i : Nat) (v : Port) : (s.setPort i v).ddrMarks = s.ddrMarks := rfl
@[simp] theorem State.setPort_cxlFilling (s : State) (i : Nat) (v : Port) : (s.setPort i v).cxlFilling = s.cxlFilling := rfl
@[simp] theorem State.setPort_cxlFresh (s : State) (i : Nat) (v : Port) : (s.setPort i v).cxlFresh = s.cxlFresh := rfl
@[simp] theorem State.setPort_dimms (s : State) (i : Nat) (v : Port) : (s.setPort i v).dimms = s.dimms := rfl
@[simp] theorem State.setPort_ddrFailed (s : State) (i : Nat) (v : Port) : (s.setPort i v).ddrFailed = s.ddrFailed := rfl
@[simp] theorem State.setPort_hbmAbsent (s : State) (i : Nat) (v : Port) : (s.setPort i v).hbmAbsent = s.hbmAbsent := rfl

@[simp] theorem State.setFlow_get (s : State) (i j : Nat) (v : Flow) : (s.setFlow i v).flow j = if j = i then v else s.flow j := nget_nset _ _ _ _ _
@[simp] theorem State.setFlow_self (s : State) (i : Nat) (v : Flow) : (s.setFlow i v).flow i = v := nget_nset_self _ _ _ _
@[simp] theorem State.setFlow_die (s : State) (i j : Nat) (v : Flow) : (s.setFlow i v).die j = s.die j := rfl
@[simp] theorem State.setFlow_core (s : State) (i j : Nat) (v : Flow) : (s.setFlow i v).core j = s.core j := rfl
@[simp] theorem State.setFlow_cluster (s : State) (i j : Nat) (v : Flow) : (s.setFlow i v).cluster j = s.cluster j := rfl
@[simp] theorem State.setFlow_complex (s : State) (i j : Nat) (v : Flow) : (s.setFlow i v).complex j = s.complex j := rfl
@[simp] theorem State.setFlow_hart (s : State) (i j : Nat) (v : Flow) : (s.setFlow i v).hart j = s.hart j := rfl
@[simp] theorem State.setFlow_basin (s : State) (i j : Nat) (v : Flow) : (s.setFlow i v).basin j = s.basin j := rfl
@[simp] theorem State.setFlow_segment (s : State) (i j : Nat) (v : Flow) : (s.setFlow i v).segment j = s.segment j := rfl
@[simp] theorem State.setFlow_cxlPort (s : State) (i j : Nat) (v : Flow) : (s.setFlow i v).cxlPort j = s.cxlPort j := rfl
@[simp] theorem State.setFlow_sluice (s : State) (i j : Nat) (v : Flow) : (s.setFlow i v).sluice j = s.sluice j := rfl
@[simp] theorem State.setFlow_port (s : State) (i j : Nat) (v : Flow) : (s.setFlow i v).port j = s.port j := rfl
@[simp] theorem State.setFlow_link (s : State) (i j : Nat) (v : Flow) : (s.setFlow i v).link j = s.link j := rfl
@[simp] theorem State.setFlow_check (s : State) (i j : Nat) (v : Flow) : (s.setFlow i v).check j = s.check j := rfl
@[simp] theorem State.setFlow_pending (s : State) (i : Nat) (v : Flow) : (s.setFlow i v).pending = s.pending := rfl
@[simp] theorem State.setFlow_lockCycle (s : State) (i : Nat) (v : Flow) : (s.setFlow i v).lockCycle = s.lockCycle := rfl
@[simp] theorem State.setFlow_cyc (s : State) (i : Nat) (v : Flow) : (s.setFlow i v).cyc = s.cyc := rfl
@[simp] theorem State.setFlow_freeCount (s : State) (i : Nat) (v : Flow) : (s.setFlow i v).freeCount = s.freeCount := rfl
@[simp] theorem State.setFlow_pkg (s : State) (i : Nat) (v : Flow) : (s.setFlow i v).pkg = s.pkg := rfl
@[simp] theorem State.setFlow_mem (s : State) (i : Nat) (v : Flow) : (s.setFlow i v).mem = s.mem := rfl
@[simp] theorem State.setFlow_flash (s : State) (i : Nat) (v : Flow) : (s.setFlow i v).flash = s.flash := rfl
@[simp] theorem State.setFlow_poison (s : State) (i : Nat) (v : Flow) : (s.setFlow i v).poison = s.poison := rfl
@[simp] theorem State.setFlow_out (s : State) (i : Nat) (v : Flow) : (s.setFlow i v).out = s.out := rfl
@[simp] theorem State.setFlow_signals (s : State) (i : Nat) (v : Flow) : (s.setFlow i v).signals = s.signals := rfl
@[simp] theorem State.setFlow_ringBarges (s : State) (i : Nat) (v : Flow) : (s.setFlow i v).ringBarges = s.ringBarges := rfl
@[simp] theorem State.setFlow_steps (s : State) (i : Nat) (v : Flow) : (s.setFlow i v).steps = s.steps := rfl
@[simp] theorem State.setFlow_buckets (s : State) (i : Nat) (v : Flow) : (s.setFlow i v).buckets = s.buckets := rfl
@[simp] theorem State.setFlow_slices (s : State) (i : Nat) (v : Flow) : (s.setFlow i v).slices = s.slices := rfl
@[simp] theorem State.setFlow_wards (s : State) (i : Nat) (v : Flow) : (s.setFlow i v).wards = s.wards := rfl
@[simp] theorem State.setFlow_requests (s : State) (i : Nat) (v : Flow) : (s.setFlow i v).requests = s.requests := rfl
@[simp] theorem State.setFlow_alternates (s : State) (i : Nat) (v : Flow) : (s.setFlow i v).alternates = s.alternates := rfl
@[simp] theorem State.setFlow_draining (s : State) (i : Nat) (v : Flow) : (s.setFlow i v).draining = s.draining := rfl
@[simp] theorem State.setFlow_norms (s : State) (i : Nat) (v : Flow) : (s.setFlow i v).norms = s.norms := rfl
@[simp] theorem State.setFlow_retired (s : State) (i : Nat) (v : Flow) : (s.setFlow i v).retired = s.retired := rfl
@[simp] theorem State.setFlow_pieces (s : State) (i : Nat) (v : Flow) : (s.setFlow i v).pieces = s.pieces := rfl
@[simp] theorem State.setFlow_drainWait (s : State) (i : Nat) (v : Flow) : (s.setFlow i v).drainWait = s.drainWait := rfl
@[simp] theorem State.setFlow_kettleGen (s : State) (i : Nat) (v : Flow) : (s.setFlow i v).kettleGen = s.kettleGen := rfl
@[simp] theorem State.setFlow_kettleShort (s : State) (i : Nat) (v : Flow) : (s.setFlow i v).kettleShort = s.kettleShort := rfl
@[simp] theorem State.setFlow_kettleDepartures (s : State) (i : Nat) (v : Flow) : (s.setFlow i v).kettleDepartures = s.kettleDepartures := rfl
@[simp] theorem State.setFlow_kettleGhosts (s : State) (i : Nat) (v : Flow) : (s.setFlow i v).kettleGhosts = s.kettleGhosts := rfl
@[simp] theorem State.setFlow_latches (s : State) (i : Nat) (v : Flow) : (s.setFlow i v).latches = s.latches := rfl
@[simp] theorem State.setFlow_tlb (s : State) (i : Nat) (v : Flow) : (s.setFlow i v).tlb = s.tlb := rfl
@[simp] theorem State.setFlow_snoopLines (s : State) (i : Nat) (v : Flow) : (s.setFlow i v).snoopLines = s.snoopLines := rfl
@[simp] theorem State.setFlow_caches (s : State) (i : Nat) (v : Flow) : (s.setFlow i v).caches = s.caches := rfl
@[simp] theorem State.setFlow_ddrMarks (s : State) (i : Nat) (v : Flow) : (s.setFlow i v).ddrMarks = s.ddrMarks := rfl
@[simp] theorem State.setFlow_cxlFilling (s : State) (i : Nat) (v : Flow) : (s.setFlow i v).cxlFilling = s.cxlFilling := rfl
@[simp] theorem State.setFlow_cxlFresh (s : State) (i : Nat) (v : Flow) : (s.setFlow i v).cxlFresh = s.cxlFresh := rfl
@[simp] theorem State.setFlow_dimms (s : State) (i : Nat) (v : Flow) : (s.setFlow i v).dimms = s.dimms := rfl
@[simp] theorem State.setFlow_ddrFailed (s : State) (i : Nat) (v : Flow) : (s.setFlow i v).ddrFailed = s.ddrFailed := rfl
@[simp] theorem State.setFlow_hbmAbsent (s : State) (i : Nat) (v : Flow) : (s.setFlow i v).hbmAbsent = s.hbmAbsent := rfl

@[simp] theorem State.setLink_get (s : State) (i j : Nat) (v : Link) : (s.setLink i v).link j = if j = i then v else s.link j := nget_nset _ _ _ _ _
@[simp] theorem State.setLink_self (s : State) (i : Nat) (v : Link) : (s.setLink i v).link i = v := nget_nset_self _ _ _ _
@[simp] theorem State.setLink_die (s : State) (i j : Nat) (v : Link) : (s.setLink i v).die j = s.die j := rfl
@[simp] theorem State.setLink_core (s : State) (i j : Nat) (v : Link) : (s.setLink i v).core j = s.core j := rfl
@[simp] theorem State.setLink_cluster (s : State) (i j : Nat) (v : Link) : (s.setLink i v).cluster j = s.cluster j := rfl
@[simp] theorem State.setLink_complex (s : State) (i j : Nat) (v : Link) : (s.setLink i v).complex j = s.complex j := rfl
@[simp] theorem State.setLink_hart (s : State) (i j : Nat) (v : Link) : (s.setLink i v).hart j = s.hart j := rfl
@[simp] theorem State.setLink_basin (s : State) (i j : Nat) (v : Link) : (s.setLink i v).basin j = s.basin j := rfl
@[simp] theorem State.setLink_segment (s : State) (i j : Nat) (v : Link) : (s.setLink i v).segment j = s.segment j := rfl
@[simp] theorem State.setLink_cxlPort (s : State) (i j : Nat) (v : Link) : (s.setLink i v).cxlPort j = s.cxlPort j := rfl
@[simp] theorem State.setLink_sluice (s : State) (i j : Nat) (v : Link) : (s.setLink i v).sluice j = s.sluice j := rfl
@[simp] theorem State.setLink_port (s : State) (i j : Nat) (v : Link) : (s.setLink i v).port j = s.port j := rfl
@[simp] theorem State.setLink_flow (s : State) (i j : Nat) (v : Link) : (s.setLink i v).flow j = s.flow j := rfl
@[simp] theorem State.setLink_check (s : State) (i j : Nat) (v : Link) : (s.setLink i v).check j = s.check j := rfl
@[simp] theorem State.setLink_pending (s : State) (i : Nat) (v : Link) : (s.setLink i v).pending = s.pending := rfl
@[simp] theorem State.setLink_lockCycle (s : State) (i : Nat) (v : Link) : (s.setLink i v).lockCycle = s.lockCycle := rfl
@[simp] theorem State.setLink_cyc (s : State) (i : Nat) (v : Link) : (s.setLink i v).cyc = s.cyc := rfl
@[simp] theorem State.setLink_freeCount (s : State) (i : Nat) (v : Link) : (s.setLink i v).freeCount = s.freeCount := rfl
@[simp] theorem State.setLink_pkg (s : State) (i : Nat) (v : Link) : (s.setLink i v).pkg = s.pkg := rfl
@[simp] theorem State.setLink_mem (s : State) (i : Nat) (v : Link) : (s.setLink i v).mem = s.mem := rfl
@[simp] theorem State.setLink_flash (s : State) (i : Nat) (v : Link) : (s.setLink i v).flash = s.flash := rfl
@[simp] theorem State.setLink_poison (s : State) (i : Nat) (v : Link) : (s.setLink i v).poison = s.poison := rfl
@[simp] theorem State.setLink_out (s : State) (i : Nat) (v : Link) : (s.setLink i v).out = s.out := rfl
@[simp] theorem State.setLink_signals (s : State) (i : Nat) (v : Link) : (s.setLink i v).signals = s.signals := rfl
@[simp] theorem State.setLink_ringBarges (s : State) (i : Nat) (v : Link) : (s.setLink i v).ringBarges = s.ringBarges := rfl
@[simp] theorem State.setLink_steps (s : State) (i : Nat) (v : Link) : (s.setLink i v).steps = s.steps := rfl
@[simp] theorem State.setLink_buckets (s : State) (i : Nat) (v : Link) : (s.setLink i v).buckets = s.buckets := rfl
@[simp] theorem State.setLink_slices (s : State) (i : Nat) (v : Link) : (s.setLink i v).slices = s.slices := rfl
@[simp] theorem State.setLink_wards (s : State) (i : Nat) (v : Link) : (s.setLink i v).wards = s.wards := rfl
@[simp] theorem State.setLink_requests (s : State) (i : Nat) (v : Link) : (s.setLink i v).requests = s.requests := rfl
@[simp] theorem State.setLink_alternates (s : State) (i : Nat) (v : Link) : (s.setLink i v).alternates = s.alternates := rfl
@[simp] theorem State.setLink_draining (s : State) (i : Nat) (v : Link) : (s.setLink i v).draining = s.draining := rfl
@[simp] theorem State.setLink_norms (s : State) (i : Nat) (v : Link) : (s.setLink i v).norms = s.norms := rfl
@[simp] theorem State.setLink_retired (s : State) (i : Nat) (v : Link) : (s.setLink i v).retired = s.retired := rfl
@[simp] theorem State.setLink_pieces (s : State) (i : Nat) (v : Link) : (s.setLink i v).pieces = s.pieces := rfl
@[simp] theorem State.setLink_drainWait (s : State) (i : Nat) (v : Link) : (s.setLink i v).drainWait = s.drainWait := rfl
@[simp] theorem State.setLink_kettleGen (s : State) (i : Nat) (v : Link) : (s.setLink i v).kettleGen = s.kettleGen := rfl
@[simp] theorem State.setLink_kettleShort (s : State) (i : Nat) (v : Link) : (s.setLink i v).kettleShort = s.kettleShort := rfl
@[simp] theorem State.setLink_kettleDepartures (s : State) (i : Nat) (v : Link) : (s.setLink i v).kettleDepartures = s.kettleDepartures := rfl
@[simp] theorem State.setLink_kettleGhosts (s : State) (i : Nat) (v : Link) : (s.setLink i v).kettleGhosts = s.kettleGhosts := rfl
@[simp] theorem State.setLink_latches (s : State) (i : Nat) (v : Link) : (s.setLink i v).latches = s.latches := rfl
@[simp] theorem State.setLink_tlb (s : State) (i : Nat) (v : Link) : (s.setLink i v).tlb = s.tlb := rfl
@[simp] theorem State.setLink_snoopLines (s : State) (i : Nat) (v : Link) : (s.setLink i v).snoopLines = s.snoopLines := rfl
@[simp] theorem State.setLink_caches (s : State) (i : Nat) (v : Link) : (s.setLink i v).caches = s.caches := rfl
@[simp] theorem State.setLink_ddrMarks (s : State) (i : Nat) (v : Link) : (s.setLink i v).ddrMarks = s.ddrMarks := rfl
@[simp] theorem State.setLink_cxlFilling (s : State) (i : Nat) (v : Link) : (s.setLink i v).cxlFilling = s.cxlFilling := rfl
@[simp] theorem State.setLink_cxlFresh (s : State) (i : Nat) (v : Link) : (s.setLink i v).cxlFresh = s.cxlFresh := rfl
@[simp] theorem State.setLink_dimms (s : State) (i : Nat) (v : Link) : (s.setLink i v).dimms = s.dimms := rfl
@[simp] theorem State.setLink_ddrFailed (s : State) (i : Nat) (v : Link) : (s.setLink i v).ddrFailed = s.ddrFailed := rfl
@[simp] theorem State.setLink_hbmAbsent (s : State) (i : Nat) (v : Link) : (s.setLink i v).hbmAbsent = s.hbmAbsent := rfl

@[simp] theorem State.setCheck_get (s : State) (i j : Nat) (v : CheckUnit) : (s.setCheck i v).check j = if j = i then v else s.check j := nget_nset _ _ _ _ _
@[simp] theorem State.setCheck_self (s : State) (i : Nat) (v : CheckUnit) : (s.setCheck i v).check i = v := nget_nset_self _ _ _ _
@[simp] theorem State.setCheck_die (s : State) (i j : Nat) (v : CheckUnit) : (s.setCheck i v).die j = s.die j := rfl
@[simp] theorem State.setCheck_core (s : State) (i j : Nat) (v : CheckUnit) : (s.setCheck i v).core j = s.core j := rfl
@[simp] theorem State.setCheck_cluster (s : State) (i j : Nat) (v : CheckUnit) : (s.setCheck i v).cluster j = s.cluster j := rfl
@[simp] theorem State.setCheck_complex (s : State) (i j : Nat) (v : CheckUnit) : (s.setCheck i v).complex j = s.complex j := rfl
@[simp] theorem State.setCheck_hart (s : State) (i j : Nat) (v : CheckUnit) : (s.setCheck i v).hart j = s.hart j := rfl
@[simp] theorem State.setCheck_basin (s : State) (i j : Nat) (v : CheckUnit) : (s.setCheck i v).basin j = s.basin j := rfl
@[simp] theorem State.setCheck_segment (s : State) (i j : Nat) (v : CheckUnit) : (s.setCheck i v).segment j = s.segment j := rfl
@[simp] theorem State.setCheck_cxlPort (s : State) (i j : Nat) (v : CheckUnit) : (s.setCheck i v).cxlPort j = s.cxlPort j := rfl
@[simp] theorem State.setCheck_sluice (s : State) (i j : Nat) (v : CheckUnit) : (s.setCheck i v).sluice j = s.sluice j := rfl
@[simp] theorem State.setCheck_port (s : State) (i j : Nat) (v : CheckUnit) : (s.setCheck i v).port j = s.port j := rfl
@[simp] theorem State.setCheck_flow (s : State) (i j : Nat) (v : CheckUnit) : (s.setCheck i v).flow j = s.flow j := rfl
@[simp] theorem State.setCheck_link (s : State) (i j : Nat) (v : CheckUnit) : (s.setCheck i v).link j = s.link j := rfl
@[simp] theorem State.setCheck_pending (s : State) (i : Nat) (v : CheckUnit) : (s.setCheck i v).pending = s.pending := rfl
@[simp] theorem State.setCheck_lockCycle (s : State) (i : Nat) (v : CheckUnit) : (s.setCheck i v).lockCycle = s.lockCycle := rfl
@[simp] theorem State.setCheck_cyc (s : State) (i : Nat) (v : CheckUnit) : (s.setCheck i v).cyc = s.cyc := rfl
@[simp] theorem State.setCheck_freeCount (s : State) (i : Nat) (v : CheckUnit) : (s.setCheck i v).freeCount = s.freeCount := rfl
@[simp] theorem State.setCheck_pkg (s : State) (i : Nat) (v : CheckUnit) : (s.setCheck i v).pkg = s.pkg := rfl
@[simp] theorem State.setCheck_mem (s : State) (i : Nat) (v : CheckUnit) : (s.setCheck i v).mem = s.mem := rfl
@[simp] theorem State.setCheck_flash (s : State) (i : Nat) (v : CheckUnit) : (s.setCheck i v).flash = s.flash := rfl
@[simp] theorem State.setCheck_poison (s : State) (i : Nat) (v : CheckUnit) : (s.setCheck i v).poison = s.poison := rfl
@[simp] theorem State.setCheck_out (s : State) (i : Nat) (v : CheckUnit) : (s.setCheck i v).out = s.out := rfl
@[simp] theorem State.setCheck_signals (s : State) (i : Nat) (v : CheckUnit) : (s.setCheck i v).signals = s.signals := rfl
@[simp] theorem State.setCheck_ringBarges (s : State) (i : Nat) (v : CheckUnit) : (s.setCheck i v).ringBarges = s.ringBarges := rfl
@[simp] theorem State.setCheck_steps (s : State) (i : Nat) (v : CheckUnit) : (s.setCheck i v).steps = s.steps := rfl
@[simp] theorem State.setCheck_buckets (s : State) (i : Nat) (v : CheckUnit) : (s.setCheck i v).buckets = s.buckets := rfl
@[simp] theorem State.setCheck_slices (s : State) (i : Nat) (v : CheckUnit) : (s.setCheck i v).slices = s.slices := rfl
@[simp] theorem State.setCheck_wards (s : State) (i : Nat) (v : CheckUnit) : (s.setCheck i v).wards = s.wards := rfl
@[simp] theorem State.setCheck_requests (s : State) (i : Nat) (v : CheckUnit) : (s.setCheck i v).requests = s.requests := rfl
@[simp] theorem State.setCheck_alternates (s : State) (i : Nat) (v : CheckUnit) : (s.setCheck i v).alternates = s.alternates := rfl
@[simp] theorem State.setCheck_draining (s : State) (i : Nat) (v : CheckUnit) : (s.setCheck i v).draining = s.draining := rfl
@[simp] theorem State.setCheck_norms (s : State) (i : Nat) (v : CheckUnit) : (s.setCheck i v).norms = s.norms := rfl
@[simp] theorem State.setCheck_retired (s : State) (i : Nat) (v : CheckUnit) : (s.setCheck i v).retired = s.retired := rfl
@[simp] theorem State.setCheck_pieces (s : State) (i : Nat) (v : CheckUnit) : (s.setCheck i v).pieces = s.pieces := rfl
@[simp] theorem State.setCheck_drainWait (s : State) (i : Nat) (v : CheckUnit) : (s.setCheck i v).drainWait = s.drainWait := rfl
@[simp] theorem State.setCheck_kettleGen (s : State) (i : Nat) (v : CheckUnit) : (s.setCheck i v).kettleGen = s.kettleGen := rfl
@[simp] theorem State.setCheck_kettleShort (s : State) (i : Nat) (v : CheckUnit) : (s.setCheck i v).kettleShort = s.kettleShort := rfl
@[simp] theorem State.setCheck_kettleDepartures (s : State) (i : Nat) (v : CheckUnit) : (s.setCheck i v).kettleDepartures = s.kettleDepartures := rfl
@[simp] theorem State.setCheck_kettleGhosts (s : State) (i : Nat) (v : CheckUnit) : (s.setCheck i v).kettleGhosts = s.kettleGhosts := rfl
@[simp] theorem State.setCheck_latches (s : State) (i : Nat) (v : CheckUnit) : (s.setCheck i v).latches = s.latches := rfl
@[simp] theorem State.setCheck_tlb (s : State) (i : Nat) (v : CheckUnit) : (s.setCheck i v).tlb = s.tlb := rfl
@[simp] theorem State.setCheck_snoopLines (s : State) (i : Nat) (v : CheckUnit) : (s.setCheck i v).snoopLines = s.snoopLines := rfl
@[simp] theorem State.setCheck_caches (s : State) (i : Nat) (v : CheckUnit) : (s.setCheck i v).caches = s.caches := rfl
@[simp] theorem State.setCheck_ddrMarks (s : State) (i : Nat) (v : CheckUnit) : (s.setCheck i v).ddrMarks = s.ddrMarks := rfl
@[simp] theorem State.setCheck_cxlFilling (s : State) (i : Nat) (v : CheckUnit) : (s.setCheck i v).cxlFilling = s.cxlFilling := rfl
@[simp] theorem State.setCheck_cxlFresh (s : State) (i : Nat) (v : CheckUnit) : (s.setCheck i v).cxlFresh = s.cxlFresh := rfl
@[simp] theorem State.setCheck_dimms (s : State) (i : Nat) (v : CheckUnit) : (s.setCheck i v).dimms = s.dimms := rfl
@[simp] theorem State.setCheck_ddrFailed (s : State) (i : Nat) (v : CheckUnit) : (s.setCheck i v).ddrFailed = s.ddrFailed := rfl
@[simp] theorem State.setCheck_hbmAbsent (s : State) (i : Nat) (v : CheckUnit) : (s.setCheck i v).hbmAbsent = s.hbmAbsent := rfl

@[simp] theorem State.setPkg_die (s : State) (v : Pkg) (j : Nat) : (s.setPkg v).die j = s.die j := rfl
@[simp] theorem State.setPkg_core (s : State) (v : Pkg) (j : Nat) : (s.setPkg v).core j = s.core j := rfl
@[simp] theorem State.setPkg_cluster (s : State) (v : Pkg) (j : Nat) : (s.setPkg v).cluster j = s.cluster j := rfl
@[simp] theorem State.setPkg_complex (s : State) (v : Pkg) (j : Nat) : (s.setPkg v).complex j = s.complex j := rfl
@[simp] theorem State.setPkg_hart (s : State) (v : Pkg) (j : Nat) : (s.setPkg v).hart j = s.hart j := rfl
@[simp] theorem State.setPkg_basin (s : State) (v : Pkg) (j : Nat) : (s.setPkg v).basin j = s.basin j := rfl
@[simp] theorem State.setPkg_segment (s : State) (v : Pkg) (j : Nat) : (s.setPkg v).segment j = s.segment j := rfl
@[simp] theorem State.setPkg_cxlPort (s : State) (v : Pkg) (j : Nat) : (s.setPkg v).cxlPort j = s.cxlPort j := rfl
@[simp] theorem State.setPkg_sluice (s : State) (v : Pkg) (j : Nat) : (s.setPkg v).sluice j = s.sluice j := rfl
@[simp] theorem State.setPkg_port (s : State) (v : Pkg) (j : Nat) : (s.setPkg v).port j = s.port j := rfl
@[simp] theorem State.setPkg_flow (s : State) (v : Pkg) (j : Nat) : (s.setPkg v).flow j = s.flow j := rfl
@[simp] theorem State.setPkg_link (s : State) (v : Pkg) (j : Nat) : (s.setPkg v).link j = s.link j := rfl
@[simp] theorem State.setPkg_check (s : State) (v : Pkg) (j : Nat) : (s.setPkg v).check j = s.check j := rfl
@[simp] theorem State.setPkg_pending (s : State) (v : Pkg) : (s.setPkg v).pending = s.pending := rfl
@[simp] theorem State.setPkg_lockCycle (s : State) (v : Pkg) : (s.setPkg v).lockCycle = s.lockCycle := rfl
@[simp] theorem State.setPkg_cyc (s : State) (v : Pkg) : (s.setPkg v).cyc = s.cyc := rfl
@[simp] theorem State.setPkg_freeCount (s : State) (v : Pkg) : (s.setPkg v).freeCount = s.freeCount := rfl
@[simp] theorem State.setPkg_mem (s : State) (v : Pkg) : (s.setPkg v).mem = s.mem := rfl
@[simp] theorem State.setPkg_flash (s : State) (v : Pkg) : (s.setPkg v).flash = s.flash := rfl
@[simp] theorem State.setPkg_poison (s : State) (v : Pkg) : (s.setPkg v).poison = s.poison := rfl
@[simp] theorem State.setPkg_out (s : State) (v : Pkg) : (s.setPkg v).out = s.out := rfl
@[simp] theorem State.setPkg_signals (s : State) (v : Pkg) : (s.setPkg v).signals = s.signals := rfl
@[simp] theorem State.setPkg_ringBarges (s : State) (v : Pkg) : (s.setPkg v).ringBarges = s.ringBarges := rfl
@[simp] theorem State.setPkg_steps (s : State) (v : Pkg) : (s.setPkg v).steps = s.steps := rfl
@[simp] theorem State.setPkg_buckets (s : State) (v : Pkg) : (s.setPkg v).buckets = s.buckets := rfl
@[simp] theorem State.setPkg_slices (s : State) (v : Pkg) : (s.setPkg v).slices = s.slices := rfl
@[simp] theorem State.setPkg_wards (s : State) (v : Pkg) : (s.setPkg v).wards = s.wards := rfl
@[simp] theorem State.setPkg_requests (s : State) (v : Pkg) : (s.setPkg v).requests = s.requests := rfl
@[simp] theorem State.setPkg_alternates (s : State) (v : Pkg) : (s.setPkg v).alternates = s.alternates := rfl
@[simp] theorem State.setPkg_draining (s : State) (v : Pkg) : (s.setPkg v).draining = s.draining := rfl
@[simp] theorem State.setPkg_norms (s : State) (v : Pkg) : (s.setPkg v).norms = s.norms := rfl
@[simp] theorem State.setPkg_retired (s : State) (v : Pkg) : (s.setPkg v).retired = s.retired := rfl
@[simp] theorem State.setPkg_pieces (s : State) (v : Pkg) : (s.setPkg v).pieces = s.pieces := rfl
@[simp] theorem State.setPkg_drainWait (s : State) (v : Pkg) : (s.setPkg v).drainWait = s.drainWait := rfl
@[simp] theorem State.setPkg_kettleGen (s : State) (v : Pkg) : (s.setPkg v).kettleGen = s.kettleGen := rfl
@[simp] theorem State.setPkg_kettleShort (s : State) (v : Pkg) : (s.setPkg v).kettleShort = s.kettleShort := rfl
@[simp] theorem State.setPkg_kettleDepartures (s : State) (v : Pkg) : (s.setPkg v).kettleDepartures = s.kettleDepartures := rfl
@[simp] theorem State.setPkg_kettleGhosts (s : State) (v : Pkg) : (s.setPkg v).kettleGhosts = s.kettleGhosts := rfl
@[simp] theorem State.setPkg_latches (s : State) (v : Pkg) : (s.setPkg v).latches = s.latches := rfl
@[simp] theorem State.setPkg_tlb (s : State) (v : Pkg) : (s.setPkg v).tlb = s.tlb := rfl
@[simp] theorem State.setPkg_snoopLines (s : State) (v : Pkg) : (s.setPkg v).snoopLines = s.snoopLines := rfl
@[simp] theorem State.setPkg_caches (s : State) (v : Pkg) : (s.setPkg v).caches = s.caches := rfl
@[simp] theorem State.setPkg_ddrMarks (s : State) (v : Pkg) : (s.setPkg v).ddrMarks = s.ddrMarks := rfl
@[simp] theorem State.setPkg_cxlFilling (s : State) (v : Pkg) : (s.setPkg v).cxlFilling = s.cxlFilling := rfl
@[simp] theorem State.setPkg_cxlFresh (s : State) (v : Pkg) : (s.setPkg v).cxlFresh = s.cxlFresh := rfl
@[simp] theorem State.setPkg_dimms (s : State) (v : Pkg) : (s.setPkg v).dimms = s.dimms := rfl
@[simp] theorem State.setPkg_ddrFailed (s : State) (v : Pkg) : (s.setPkg v).ddrFailed = s.ddrFailed := rfl
@[simp] theorem State.setPkg_hbmAbsent (s : State) (v : Pkg) : (s.setPkg v).hbmAbsent = s.hbmAbsent := rfl

@[simp] theorem State.emit_die (s : State) (v : Out) (j : Nat) : (s.emit v).die j = s.die j := rfl
@[simp] theorem State.emit_core (s : State) (v : Out) (j : Nat) : (s.emit v).core j = s.core j := rfl
@[simp] theorem State.emit_cluster (s : State) (v : Out) (j : Nat) : (s.emit v).cluster j = s.cluster j := rfl
@[simp] theorem State.emit_complex (s : State) (v : Out) (j : Nat) : (s.emit v).complex j = s.complex j := rfl
@[simp] theorem State.emit_hart (s : State) (v : Out) (j : Nat) : (s.emit v).hart j = s.hart j := rfl
@[simp] theorem State.emit_basin (s : State) (v : Out) (j : Nat) : (s.emit v).basin j = s.basin j := rfl
@[simp] theorem State.emit_segment (s : State) (v : Out) (j : Nat) : (s.emit v).segment j = s.segment j := rfl
@[simp] theorem State.emit_cxlPort (s : State) (v : Out) (j : Nat) : (s.emit v).cxlPort j = s.cxlPort j := rfl
@[simp] theorem State.emit_sluice (s : State) (v : Out) (j : Nat) : (s.emit v).sluice j = s.sluice j := rfl
@[simp] theorem State.emit_port (s : State) (v : Out) (j : Nat) : (s.emit v).port j = s.port j := rfl
@[simp] theorem State.emit_flow (s : State) (v : Out) (j : Nat) : (s.emit v).flow j = s.flow j := rfl
@[simp] theorem State.emit_link (s : State) (v : Out) (j : Nat) : (s.emit v).link j = s.link j := rfl
@[simp] theorem State.emit_check (s : State) (v : Out) (j : Nat) : (s.emit v).check j = s.check j := rfl
@[simp] theorem State.emit_pending (s : State) (v : Out) : (s.emit v).pending = s.pending := rfl
@[simp] theorem State.emit_lockCycle (s : State) (v : Out) : (s.emit v).lockCycle = s.lockCycle := rfl
@[simp] theorem State.emit_cyc (s : State) (v : Out) : (s.emit v).cyc = s.cyc := rfl
@[simp] theorem State.emit_freeCount (s : State) (v : Out) : (s.emit v).freeCount = s.freeCount := rfl
@[simp] theorem State.emit_pkg (s : State) (v : Out) : (s.emit v).pkg = s.pkg := rfl
@[simp] theorem State.emit_mem (s : State) (v : Out) : (s.emit v).mem = s.mem := rfl
@[simp] theorem State.emit_flash (s : State) (v : Out) : (s.emit v).flash = s.flash := rfl
@[simp] theorem State.emit_poison (s : State) (v : Out) : (s.emit v).poison = s.poison := rfl
@[simp] theorem State.emit_signals (s : State) (v : Out) : (s.emit v).signals = s.signals := rfl
@[simp] theorem State.emit_ringBarges (s : State) (v : Out) : (s.emit v).ringBarges = s.ringBarges := rfl
@[simp] theorem State.emit_steps (s : State) (v : Out) : (s.emit v).steps = s.steps := rfl
@[simp] theorem State.emit_buckets (s : State) (v : Out) : (s.emit v).buckets = s.buckets := rfl
@[simp] theorem State.emit_slices (s : State) (v : Out) : (s.emit v).slices = s.slices := rfl
@[simp] theorem State.emit_wards (s : State) (v : Out) : (s.emit v).wards = s.wards := rfl
@[simp] theorem State.emit_requests (s : State) (v : Out) : (s.emit v).requests = s.requests := rfl
@[simp] theorem State.emit_alternates (s : State) (v : Out) : (s.emit v).alternates = s.alternates := rfl
@[simp] theorem State.emit_draining (s : State) (v : Out) : (s.emit v).draining = s.draining := rfl
@[simp] theorem State.emit_norms (s : State) (v : Out) : (s.emit v).norms = s.norms := rfl
@[simp] theorem State.emit_retired (s : State) (v : Out) : (s.emit v).retired = s.retired := rfl
@[simp] theorem State.emit_pieces (s : State) (v : Out) : (s.emit v).pieces = s.pieces := rfl
@[simp] theorem State.emit_drainWait (s : State) (v : Out) : (s.emit v).drainWait = s.drainWait := rfl
@[simp] theorem State.emit_kettleGen (s : State) (v : Out) : (s.emit v).kettleGen = s.kettleGen := rfl
@[simp] theorem State.emit_kettleShort (s : State) (v : Out) : (s.emit v).kettleShort = s.kettleShort := rfl
@[simp] theorem State.emit_kettleDepartures (s : State) (v : Out) : (s.emit v).kettleDepartures = s.kettleDepartures := rfl
@[simp] theorem State.emit_kettleGhosts (s : State) (v : Out) : (s.emit v).kettleGhosts = s.kettleGhosts := rfl
@[simp] theorem State.emit_latches (s : State) (v : Out) : (s.emit v).latches = s.latches := rfl
@[simp] theorem State.emit_tlb (s : State) (v : Out) : (s.emit v).tlb = s.tlb := rfl
@[simp] theorem State.emit_snoopLines (s : State) (v : Out) : (s.emit v).snoopLines = s.snoopLines := rfl
@[simp] theorem State.emit_caches (s : State) (v : Out) : (s.emit v).caches = s.caches := rfl
@[simp] theorem State.emit_ddrMarks (s : State) (v : Out) : (s.emit v).ddrMarks = s.ddrMarks := rfl
@[simp] theorem State.emit_cxlFilling (s : State) (v : Out) : (s.emit v).cxlFilling = s.cxlFilling := rfl
@[simp] theorem State.emit_cxlFresh (s : State) (v : Out) : (s.emit v).cxlFresh = s.cxlFresh := rfl
@[simp] theorem State.emit_dimms (s : State) (v : Out) : (s.emit v).dimms = s.dimms := rfl
@[simp] theorem State.emit_ddrFailed (s : State) (v : Out) : (s.emit v).ddrFailed = s.ddrFailed := rfl
@[simp] theorem State.emit_hbmAbsent (s : State) (v : Out) : (s.emit v).hbmAbsent = s.hbmAbsent := rfl

@[simp] theorem State.setByte_die (s : State) (a : Nat) (v : Byte) (j : Nat) : (s.setByte a v).die j = s.die j := rfl
@[simp] theorem State.setByte_core (s : State) (a : Nat) (v : Byte) (j : Nat) : (s.setByte a v).core j = s.core j := rfl
@[simp] theorem State.setByte_cluster (s : State) (a : Nat) (v : Byte) (j : Nat) : (s.setByte a v).cluster j = s.cluster j := rfl
@[simp] theorem State.setByte_complex (s : State) (a : Nat) (v : Byte) (j : Nat) : (s.setByte a v).complex j = s.complex j := rfl
@[simp] theorem State.setByte_hart (s : State) (a : Nat) (v : Byte) (j : Nat) : (s.setByte a v).hart j = s.hart j := rfl
@[simp] theorem State.setByte_basin (s : State) (a : Nat) (v : Byte) (j : Nat) : (s.setByte a v).basin j = s.basin j := rfl
@[simp] theorem State.setByte_segment (s : State) (a : Nat) (v : Byte) (j : Nat) : (s.setByte a v).segment j = s.segment j := rfl
@[simp] theorem State.setByte_cxlPort (s : State) (a : Nat) (v : Byte) (j : Nat) : (s.setByte a v).cxlPort j = s.cxlPort j := rfl
@[simp] theorem State.setByte_sluice (s : State) (a : Nat) (v : Byte) (j : Nat) : (s.setByte a v).sluice j = s.sluice j := rfl
@[simp] theorem State.setByte_port (s : State) (a : Nat) (v : Byte) (j : Nat) : (s.setByte a v).port j = s.port j := rfl
@[simp] theorem State.setByte_flow (s : State) (a : Nat) (v : Byte) (j : Nat) : (s.setByte a v).flow j = s.flow j := rfl
@[simp] theorem State.setByte_link (s : State) (a : Nat) (v : Byte) (j : Nat) : (s.setByte a v).link j = s.link j := rfl
@[simp] theorem State.setByte_check (s : State) (a : Nat) (v : Byte) (j : Nat) : (s.setByte a v).check j = s.check j := rfl
@[simp] theorem State.setByte_pending (s : State) (a : Nat) (v : Byte) : (s.setByte a v).pending = s.pending := rfl
@[simp] theorem State.setByte_lockCycle (s : State) (a : Nat) (v : Byte) : (s.setByte a v).lockCycle = s.lockCycle := rfl
@[simp] theorem State.setByte_cyc (s : State) (a : Nat) (v : Byte) : (s.setByte a v).cyc = s.cyc := rfl
@[simp] theorem State.setByte_freeCount (s : State) (a : Nat) (v : Byte) : (s.setByte a v).freeCount = s.freeCount := rfl
@[simp] theorem State.setByte_pkg (s : State) (a : Nat) (v : Byte) : (s.setByte a v).pkg = s.pkg := rfl
@[simp] theorem State.setByte_flash (s : State) (a : Nat) (v : Byte) : (s.setByte a v).flash = s.flash := rfl
@[simp] theorem State.setByte_poison (s : State) (a : Nat) (v : Byte) : (s.setByte a v).poison = s.poison := rfl
@[simp] theorem State.setByte_out (s : State) (a : Nat) (v : Byte) : (s.setByte a v).out = s.out := rfl
@[simp] theorem State.setByte_signals (s : State) (a : Nat) (v : Byte) : (s.setByte a v).signals = s.signals := rfl
@[simp] theorem State.setByte_ringBarges (s : State) (a : Nat) (v : Byte) : (s.setByte a v).ringBarges = s.ringBarges := rfl
@[simp] theorem State.setByte_steps (s : State) (a : Nat) (v : Byte) : (s.setByte a v).steps = s.steps := rfl
@[simp] theorem State.setByte_buckets (s : State) (a : Nat) (v : Byte) : (s.setByte a v).buckets = s.buckets := rfl
@[simp] theorem State.setByte_slices (s : State) (a : Nat) (v : Byte) : (s.setByte a v).slices = s.slices := rfl
@[simp] theorem State.setByte_wards (s : State) (a : Nat) (v : Byte) : (s.setByte a v).wards = s.wards := rfl
@[simp] theorem State.setByte_requests (s : State) (a : Nat) (v : Byte) : (s.setByte a v).requests = s.requests := rfl
@[simp] theorem State.setByte_alternates (s : State) (a : Nat) (v : Byte) : (s.setByte a v).alternates = s.alternates := rfl
@[simp] theorem State.setByte_draining (s : State) (a : Nat) (v : Byte) : (s.setByte a v).draining = s.draining := rfl
@[simp] theorem State.setByte_norms (s : State) (a : Nat) (v : Byte) : (s.setByte a v).norms = s.norms := rfl
@[simp] theorem State.setByte_retired (s : State) (a : Nat) (v : Byte) : (s.setByte a v).retired = s.retired := rfl
@[simp] theorem State.setByte_pieces (s : State) (a : Nat) (v : Byte) : (s.setByte a v).pieces = s.pieces := rfl
@[simp] theorem State.setByte_drainWait (s : State) (a : Nat) (v : Byte) : (s.setByte a v).drainWait = s.drainWait := rfl
@[simp] theorem State.setByte_kettleGen (s : State) (a : Nat) (v : Byte) : (s.setByte a v).kettleGen = s.kettleGen := rfl
@[simp] theorem State.setByte_kettleShort (s : State) (a : Nat) (v : Byte) : (s.setByte a v).kettleShort = s.kettleShort := rfl
@[simp] theorem State.setByte_kettleDepartures (s : State) (a : Nat) (v : Byte) : (s.setByte a v).kettleDepartures = s.kettleDepartures := rfl
@[simp] theorem State.setByte_kettleGhosts (s : State) (a : Nat) (v : Byte) : (s.setByte a v).kettleGhosts = s.kettleGhosts := rfl
@[simp] theorem State.setByte_latches (s : State) (a : Nat) (v : Byte) : (s.setByte a v).latches = s.latches := rfl
@[simp] theorem State.setByte_tlb (s : State) (a : Nat) (v : Byte) : (s.setByte a v).tlb = s.tlb := rfl
@[simp] theorem State.setByte_snoopLines (s : State) (a : Nat) (v : Byte) : (s.setByte a v).snoopLines = s.snoopLines := rfl
@[simp] theorem State.setByte_caches (s : State) (a : Nat) (v : Byte) : (s.setByte a v).caches = s.caches := rfl
@[simp] theorem State.setByte_ddrMarks (s : State) (a : Nat) (v : Byte) : (s.setByte a v).ddrMarks = s.ddrMarks := rfl
@[simp] theorem State.setByte_cxlFilling (s : State) (a : Nat) (v : Byte) : (s.setByte a v).cxlFilling = s.cxlFilling := rfl
@[simp] theorem State.setByte_cxlFresh (s : State) (a : Nat) (v : Byte) : (s.setByte a v).cxlFresh = s.cxlFresh := rfl
@[simp] theorem State.setByte_dimms (s : State) (a : Nat) (v : Byte) : (s.setByte a v).dimms = s.dimms := rfl
@[simp] theorem State.setByte_ddrFailed (s : State) (a : Nat) (v : Byte) : (s.setByte a v).ddrFailed = s.ddrFailed := rfl
@[simp] theorem State.setByte_hbmAbsent (s : State) (a : Nat) (v : Byte) : (s.setByte a v).hbmAbsent = s.hbmAbsent := rfl

@[simp] theorem State.setPkg_pkg (s : State) (v : Pkg) : (s.setPkg v).pkg = v := rfl
@[simp] theorem State.emit_out (s : State) (v : Out) : (s.emit v).out = s.out ++ [v] := rfl

end Sys2Proof.Machine
end

