-- ==== Sys2Proof/Laws/Memory.lean ====
section
/-!
SUPPORT. Memory: a read after a write, and the canonical form kept by every memory operation.
-/
namespace Sys2Proof.Machine

/-- A byte read after a byte written. -/
theorem State.byte_setByte (s : State) (a j : Nat) (v : Byte) : (s.setByte a v).byte j = if j = a then v else s.byte j :=
  nget_nset _ _ _ _ _

theorem State.byte_congr {s t : State} (h : t.mem = s.mem) (j : Nat) : t.byte j = s.byte j := by
  unfold State.byte; rw [h]

/-- A byte outside the bytes written reads as before. -/
theorem State.byte_writeBytes_out (s : State) (a : Nat) (bs : Bytes) (j : Nat) (h : j < a ∨ a + bs.length ≤ j) :
    (s.writeBytes a bs).byte j = s.byte j := by
  induction bs generalizing s a with
  | nil => rfl
  | cons b bs ih =>
    rw [State.writeBytes, ih _ _ (by simp only [List.length_cons] at h; omega), State.byte_setByte]
    have : j ≠ a := by simp only [List.length_cons] at h; omega
    simp [this]

/-- A byte inside the bytes written reads as the byte written there. -/
theorem State.byte_writeBytes_in (s : State) (a : Nat) (bs : Bytes) (i : Nat) (h : i < bs.length) :
    (s.writeBytes a bs).byte (a + i) = bs[i] := by
  induction bs generalizing s a i with
  | nil => simp at h
  | cons b bs ih =>
    rw [State.writeBytes]
    cases i with
    | zero =>
      rw [State.byte_writeBytes_out _ _ _ _ (by omega), State.byte_setByte]
      simp
    | succ i =>
      have := ih (s.setByte a b) (a + 1) i (by simpa using h)
      rw [show a + (i + 1) = a + 1 + i by omega, this]
      simp

/-- What has been written reads back. -/
theorem State.readBytes_writeBytes (s : State) (a : Nat) (bs : Bytes) : (s.writeBytes a bs).readBytes a bs.length = bs := by
  suffices h : ∀ (n i : Nat), i + n = bs.length → (s.writeBytes a bs).readBytes (a + i) n = bs.drop i by
    simpa using h bs.length 0 (by omega)
  intro n
  induction n with
  | zero => intro i hi; simp [State.readBytes, show bs.length ≤ i by omega]
  | succ n ih =>
    intro i hi
    rw [State.readBytes, State.byte_writeBytes_in s a bs i (by omega), show a + i + 1 = a + (i + 1) by omega,
      ih (i + 1) (by omega)]
    exact (List.drop_eq_getElem_cons (by omega)).symm

@[simp] theorem State.writeBytes_pending (s : State) (a : Nat) (bs : Bytes) : (s.writeBytes a bs).pending = s.pending := by
  induction bs generalizing s a with
  | nil => rfl
  | cons b bs ih => exact ih _ _

/-- Every memory operation keeps the canonical form. -/
theorem State.setByte_wf {s : State} (h : Memory.wf s.mem) (a : Nat) (v : Byte) : Memory.wf (s.setByte a v).mem :=
  nset_wf _ h a v

theorem State.writeBytes_wf {s : State} (h : Memory.wf s.mem) (a : Nat) (bs : Bytes) : Memory.wf (s.writeBytes a bs).mem := by
  induction bs generalizing s a with
  | nil => exact h
  | cons b bs ih => exact ih (State.setByte_wf h a b) (a + 1)

theorem State.wipe_wf {s : State} (h : Memory.wf s.mem) (lo n : Nat) : Memory.wf (s.wipe lo n).mem :=
  NMap.wf_filter _ h _

theorem State.setFlashByte_wf {s : State} (h : Flash.wf s.flash) (a : Nat) (v : Byte) : Flash.wf (s.setFlashByte a v).flash :=
  nset_wf _ h a v

theorem State.flashWrite_wf {s : State} (h : Flash.wf s.flash) (a : Nat) (bs : Bytes) : Flash.wf (s.flashWrite a bs).flash := by
  induction bs generalizing s a with
  | nil => exact h
  | cons b bs ih => exact ih (State.setFlashByte_wf h a b) (a + 1)

theorem State.flashErase_wf {s : State} (h : Flash.wf s.flash) (lo n : Nat) : Flash.wf (s.flashErase lo n).flash :=
  NMap.wf_filter _ h _

/-- A wiped byte reads as at reset (R96). -/
theorem State.byte_wipe (s : State) (lo n j : Nat) (h : lo ≤ j ∧ j < lo + n) : (s.wipe lo n).byte j = unlistedByte j := by
  unfold State.byte State.wipe
  generalize s.mem = m
  induction m with
  | nil => rfl
  | cons e m ih =>
    obtain ⟨k, v⟩ := e
    by_cases hk : lo ≤ k ∧ k < lo + n
    · simpa [List.filter_cons, hk] using ih
    · have hne : k ≠ j := fun e => hk (e ▸ h)
      have hb : (!(decide (lo ≤ k) && decide (k < lo + n))) = true := by
        simp only [Bool.not_eq_true', Bool.and_eq_false_iff, decide_eq_false_iff_not]; omega
      rw [List.filter_cons_of_pos (by simpa using hb)]
      simpa [nget, hne] using ih

/-- A byte outside a wiped range reads as before. -/
theorem State.byte_wipe_out (s : State) (lo n j : Nat) (h : j < lo ∨ lo + n ≤ j) : (s.wipe lo n).byte j = s.byte j := by
  unfold State.byte State.wipe
  generalize s.mem = m
  induction m with
  | nil => rfl
  | cons e m ih =>
    obtain ⟨k, v⟩ := e
    by_cases hk : lo ≤ k ∧ k < lo + n
    · have hne : k ≠ j := by omega
      simpa [List.filter_cons, hk, nget, hne] using ih
    · have hb : (!(decide (lo ≤ k) && decide (k < lo + n))) = true := by
        simp only [Bool.not_eq_true', Bool.and_eq_false_iff, decide_eq_false_iff_not]; omega
      rw [List.filter_cons_of_pos (by simpa using hb)]
      by_cases hkj : k = j
      · simp [nget, hkj]
      · simpa [nget, hkj] using ih

end Sys2Proof.Machine
end

