-- ==== Sys2Proof/Laws/Seq.lean ====
section
/-!
SUPPORT. The sequencer's shared operations: what taking an instruction, going on after it and a context's fault can do.
-/
namespace Sys2Proof.Machine

/-- Going on changes nothing of a core but its index, its loop levels and its region. -/
theorem Core.after_shape (k : Core) (i : Nat) :
    ∃ p l r x, k.after i = { k with pc := p, loops := l, region := r, rungLast := x } := by
  unfold Core.after Core.closeRegion
  dsimp only
  repeat' split
  all_goals exact ⟨_, _, _, _, rfl⟩

/-- What an issued instruction leaves of its core. -/
theorem Core.issued_shape (k : Core) :
    ∃ p l r x, k.issued =
      { k with pc := p, loops := l, region := r, rungLast := x, retiredSeq := satCount (k.retiredSeq + 1) } := by
  obtain ⟨p, l, r, x, h⟩ := k.retire.after_shape k.pc
  exact ⟨p, l, r, x, h⟩

@[simp] theorem Core.issued_areg (k : Core) (n : Nat) : k.issued.areg n = k.areg n := by
  obtain ⟨p, l, r, x, h⟩ := k.issued_shape
  rw [h]; rfl

@[simp] theorem Core.issued_aregs (k : Core) : k.issued.aregs = k.aregs := by
  obtain ⟨p, l, r, x, h⟩ := k.issued_shape
  rw [h]

@[simp] theorem Core.issued_retiredSeq (k : Core) : k.issued.retiredSeq = satCount (k.retiredSeq + 1) := by
  obtain ⟨p, l, r, x, h⟩ := k.issued_shape
  rw [h]

/-- No level ends at an index: the sequencer goes on to the next. -/
theorem goOn_none (l : List LoopLevel) (i : Nat) (h : ∀ x ∈ l, x.stop ≠ i) : goOn 0 l i = (l, none) := by
  cases l with
  | nil => rfl
  | cons a l => simp [goOn, h a (by simp)]

/-- Outside regions and at no loop's end, an issued instruction goes on to the next index. -/
theorem Core.after_plain {k : Core} (i : Nat) (hr : k.region = none) (hl : ∀ l ∈ k.loops, l.stop ≠ i) :
    k.after i = { k with pc := i + 1 } := by
  unfold Core.after
  rw [hr]; dsimp only
  rw [goOn_none _ _ hl]; simp

theorem Core.issued_plain {k : Core} (hr : k.region = none) (hl : ∀ l ∈ k.loops, l.stop ≠ k.pc) :
    k.issued = { k.retire with pc := k.pc + 1 } := Core.after_plain _ hr hl

/-- A register read after a register write; a0 reads zero whatever is written (R106). -/
theorem Core.setAreg_areg (k : Core) (n m : Nat) (v : W64) :
    (k.setAreg n v).areg m = if m = n then (if n = 0 then 0 else v) else k.areg m := by
  unfold Core.setAreg Core.areg
  by_cases h : n = 0
  · subst h; by_cases hm : m = 0 <;> simp [hm]
  · by_cases hm : m = 0
    · subst hm; simp [Ne.symm h]
    · simp [h, hm, nget_nset]

/-- A register write changes the registers only. -/
theorem Core.setAreg_shape (k : Core) (n : Nat) (v : W64) : ∃ a, k.setAreg n v = { k with aregs := a } := by
  unfold Core.setAreg
  split
  · exact ⟨_, rfl⟩
  · exact ⟨_, rfl⟩

/-- A sequencer that has a next word runs. -/
theorem State.fetch_running {s : State} {c : Nat} {w : W64} (h : s.fetch c = .word w) : (s.core c).ctx = .running := by
  unfold State.fetch at h
  dsimp only at h
  split at h
  · cases h
  · simp_all

/-- The instruction runs when it is next and no reserved bit is set. -/
theorem State.seqRun_run {s : State} {c : Nat} {w : W64} {op used : Nat} {bad : W64 → Bool} {body : Core → W64 → State}
    (hf : s.fetch c = .word w) (hq : wQueue w = 0) (ho : wOp w = op) (hu : strayBits w used = false) (hb : bad w = false) :
    s.seqRun c op used bad body = body (s.core c) w := by
  simp [State.seqRun, hf, hq, ho, hu, hb]

/-- A reserved bit that is set faults with detail 0x03 (R118). -/
theorem State.seqRun_bad {s : State} {c : Nat} {w : W64} {op used : Nat} {bad : W64 → Bool} {body : Core → W64 → State}
    (hf : s.fetch c = .word w) (hq : wQueue w = 0) (ho : wOp w = op) (hb : (strayBits w used || bad w) = true) :
    s.seqRun c op used bad body = s.precise c 0x03 := by
  simp only [State.seqRun, hf, hq, ho, hb]
  simp

/-- What a fault does to a running context (R149): its waits end, it departs from its lines, its core is FAULTED with the time
noted, its reservation is back with the cluster and the error is raised; nothing else changes. -/
theorem State.enterFault_running (s t : State) (c code index : Nat) (h : (s.core c).ctx = .running)
    (ht : t = (s.endWaits c).depart c true) :
    s.enterFault c code index =
      ((t.setCore c { t.core c with ctx := .faulted, fault := some (BitVec.ofNat 16 code), faultIndex := index,
                                    faultedAt := t.now, faultTime := t.time (c / 256), reservation := 0 }).setCluster (c / 8)
        { t.cluster (c / 8) with unreserved := (t.cluster (c / 8)).unreserved + (t.core c).reservation }).raise
          code (c / 256) (t.core c).basin c 0 0 := by
  subst ht
  unfold State.enterFault
  simp only [h]

@[simp] theorem State.raise_core (s : State) (a b c d e f j : Nat) : (s.raise a b c d e f).core j = s.core j := rfl
@[simp] theorem State.raise_cluster (s : State) (a b c d e f j : Nat) : (s.raise a b c d e f).cluster j = s.cluster j := rfl
@[simp] theorem State.raise_die (s : State) (a b c d e f j : Nat) : (s.raise a b c d e f).die j = s.die j := rfl
@[simp] theorem State.raise_basin (s : State) (a b c d e f j : Nat) : (s.raise a b c d e f).basin j = s.basin j := rfl
@[simp] theorem State.raise_mem (s : State) (a b c d e f : Nat) : (s.raise a b c d e f).mem = s.mem := rfl
@[simp] theorem State.raise_flash (s : State) (a b c d e f : Nat) : (s.raise a b c d e f).flash = s.flash := rfl
@[simp] theorem State.raise_out (s : State) (a b c d e f : Nat) : (s.raise a b c d e f).out = s.out := rfl
@[simp] theorem State.raise_pending (s : State) (a b c d e f : Nat) : (s.raise a b c d e f).pending = s.pending := rfl

end Sys2Proof.Machine
end

