-- ==== Sys2Proof/Laws/Shapes.lean ====
section
/-!
SUPPORT. What the shared operations can change: for each, the fields of the state it may write, all others as they were; and
how a property or a part of the state passes through a walk over a list.
-/
namespace Sys2Proof.Machine

/-! ### Walks -/

@[simp] theorem State.forEach_nil {α : Type} (s : State) (f : State → α → State) : s.forEach [] f = s := rfl
@[simp] theorem State.forEach_cons {α : Type} (s : State) (x : α) (l : List α) (f : State → α → State) :
    s.forEach (x :: l) f = (f s x).forEach l f := rfl

/-- A property that every change of a walk keeps holds after the walk. -/
theorem State.forEach_keeps {α : Type} {P : State → Prop} {f : State → α → State} (l : List α) {s : State} (h : P s)
    (hf : ∀ s x, x ∈ l → P s → P (f s x)) : P (s.forEach l f) := by
  induction l generalizing s with
  | nil => exact h
  | cons a l ih =>
    exact ih (hf s a List.mem_cons_self h) (fun s x hx hs => hf s x (List.mem_cons_of_mem _ hx) hs)

/-- What no change of a walk touches is as it was. -/
theorem State.forEach_same {α β : Type} (g : State → β) {f : State → α → State} (l : List α) (s : State)
    (hf : ∀ s x, x ∈ l → g (f s x) = g s) : g (s.forEach l f) = g s :=
  State.forEach_keeps (P := fun t => g t = g s) l rfl (fun t x hx ht => (hf t x hx).trans ht)

/-! ### Memory and flash -/

theorem State.writeBytes_shape (s : State) (a : Nat) (bs : Bytes) : ∃ m, s.writeBytes a bs = { s with mem := m } := by
  induction bs generalizing s a with
  | nil => exact ⟨s.mem, rfl⟩
  | cons b bs ih =>
    obtain ⟨m, h⟩ := ih (s.setByte a b) (a + 1)
    exact ⟨m, h⟩

theorem State.flashWrite_shape (s : State) (a : Nat) (bs : Bytes) : ∃ m, s.flashWrite a bs = { s with flash := m } := by
  induction bs generalizing s a with
  | nil => exact ⟨s.flash, rfl⟩
  | cons b bs ih =>
    obtain ⟨m, h⟩ := ih (s.setFlashByte a b) (a + 1)
    exact ⟨m, h⟩

theorem State.addPoison_shape (s : State) (piece : Nat) : ∃ p, s.addPoison piece = { s with poison := p } := by
  unfold State.addPoison
  split
  · exact ⟨s.poison, rfl⟩
  · exact ⟨_, rfl⟩

/-! ### Messages on stitch links -/

/-- Between s and t only what sending messages can change has changed. -/
def State.linkFrame (s t : State) : Prop := t = { s with links := t.links, checks := t.checks, drainWait := t.drainWait, out := t.out }

theorem State.linkFrame_refl (s : State) : s.linkFrame s := rfl

theorem State.linkFrame_trans {s t u : State} (h : s.linkFrame t) (h' : t.linkFrame u) : s.linkFrame u := by
  unfold State.linkFrame at *
  rw [h'] ; rw [h]

theorem State.watchLink_frame (s : State) (mode d l : Nat) (m : StitchMsg) : s.linkFrame (s.watchLink mode d l m) := by
  unfold State.watchLink
  split
  · exact s.linkFrame_refl
  · refine State.forEach_keeps _ s.linkFrame_refl (fun t u _ ht => State.linkFrame_trans ht ?_)
    dsimp only
    split
    · split
      · rfl
      · rfl
    · split
      · rfl
      · rfl

theorem State.sendUnits_frame (s : State) (l : Nat) (b : Bool) (m : StitchMsg) : s.linkFrame (s.sendUnits l b m) := by
  unfold State.sendUnits
  exact State.linkFrame_trans (s.watchLink_frame 3 _ l m) rfl

theorem State.linkFuel_frame (l : Nat) (b : Bool) (n : Nat) (s : State) : s.linkFrame (State.linkFuel l b n s) := by
  induction n generalizing s with
  | zero => exact s.linkFrame_refl
  | succ n ih =>
    unfold State.linkFuel
    split
    · exact s.linkFrame_refl
    · exact State.linkFrame_trans (s.sendUnits_frame l b _) (ih _)

theorem State.pumpLink_frame (s : State) (l : Nat) : s.linkFrame (s.pumpLink l) :=
  State.linkFrame_trans (State.linkFuel_frame l false _ s) (State.linkFuel_frame l true _ _)

/-- A message that sets out changes links, what their watching units count, waits for drains, and outputs. -/
theorem State.sendToward_frame (s : State) (d : Nat) (m : StitchMsg) : s.linkFrame (s.sendToward d m) := by
  unfold State.sendToward State.sendOver
  dsimp only
  split
  · rfl
  · split
    · exact s.linkFrame_refl
    · split
      · exact s.linkFrame_refl
      · split
        · exact s.linkFrame_refl
        · exact State.linkFrame_trans (t := s.setLink _ _) rfl (State.pumpLink_frame _ _)

/-! ### Coherent stores -/

/-- Between s and t only what coherent accesses can change has changed: memory with its poison and marks, the Dalpa copies of
lines, the free values taken, and what the snoops send. -/
def State.storeFrame (s t : State) : Prop :=
  t = { s with
    mem := t.mem, poison := t.poison, ddrMarks := t.ddrMarks, snoopLines := t.snoopLines, caches := t.caches
    freeCount := t.freeCount, links := t.links, checks := t.checks, drainWait := t.drainWait, out := t.out }

theorem State.storeFrame_refl (s : State) : s.storeFrame s := rfl

theorem State.storeFrame_trans {s t u : State} (h : s.storeFrame t) (h' : t.storeFrame u) : s.storeFrame u := by
  unfold State.storeFrame at *
  rw [h'] ; rw [h]

theorem State.linkFrame_store {s t : State} (h : s.linkFrame t) : s.storeFrame t := by
  unfold State.linkFrame at h
  unfold State.storeFrame
  rw [h]

theorem State.writeBytes_frame (s : State) (a : Nat) (bs : Bytes) : s.storeFrame (s.writeBytes a bs) := by
  obtain ⟨m, h⟩ := s.writeBytes_shape a bs
  rw [h]; rfl

/-- Open bytes take free values and change nothing else. -/
theorem State.freeBytes_shape (n : Nat) (s : State) : ∃ k, (s.freeBytes n).1 = { s with freeCount := k } := by
  induction n generalizing s with
  | zero => exact ⟨s.freeCount, rfl⟩
  | succ n ih =>
    obtain ⟨k, h⟩ := ih s.free.2
    exact ⟨k, h⟩

theorem State.surrender_frame (s : State) (line die : Nat) (kind : SnoopKind) : s.storeFrame (s.surrender line die kind).1 := by
  unfold State.surrender
  split
  · exact s.storeFrame_refl
  · rename_i e _
    have hs : ∃ k, (s.hartStores e).1 = { s with freeCount := k } := by
      unfold State.hartStores
      dsimp only
      split
      · exact ⟨_, rfl⟩
      · exact State.freeBytes_shape 64 s.free.2
    obtain ⟨k, h⟩ := hs
    dsimp only
    rw [h]
    cases kind <;> rfl

theorem State.writeBack_frame (s : State) (e : CacheLine) : s.storeFrame (s.writeBack e) := by
  unfold State.writeBack
  split
  · exact State.storeFrame_trans (s.writeBytes_frame _ _) rfl
  · exact s.storeFrame_refl

theorem State.sendSnoop_frame (s : State) (line die : Nat) (kind : SnoopKind) : s.linkFrame (s.sendSnoop line die kind) := by
  unfold State.sendSnoop
  dsimp only
  split
  · exact s.linkFrame_refl
  · exact s.sendToward_frame _ _

theorem State.snoopHolder_frame (s : State) (kind : SnoopKind) (h : Nat × Nat) : s.storeFrame (s.snoopHolder kind h) := by
  unfold State.snoopHolder
  dsimp only
  have ht := State.linkFrame_store (s.sendSnoop_frame h.1 h.2 kind)
  generalize s.sendSnoop h.1 h.2 kind = t at ht ⊢
  have hu := State.storeFrame_trans ht (t.surrender_frame h.1 h.2 kind)
  generalize t.surrender h.1 h.2 kind = r at hu ⊢
  obtain ⟨u, o⟩ := r
  cases o with
  | none => cases kind <;> exact State.storeFrame_trans hu rfl
  | some e => cases kind <;> exact State.storeFrame_trans (State.storeFrame_trans hu (u.writeBack_frame e)) rfl

theorem State.invalidateLine_frame (s : State) (line : Nat) : s.storeFrame (s.invalidateLine line) :=
  State.storeFrame_trans (State.forEach_keeps _ s.storeFrame_refl
    (fun t h _ ht => State.storeFrame_trans ht (t.snoopHolder_frame _ h))) rfl

theorem State.storePiece_frame (s : State) (pa : Nat) (bs : Bytes) : s.storeFrame (s.storePiece pa bs) := by
  have h : s.storeFrame ((s.touch pa).writeBytes pa bs) := State.storeFrame_trans (t := s.touch pa) rfl (State.writeBytes_frame _ _ _)
  unfold State.storePiece
  dsimp only
  split
  · exact State.storeFrame_trans h rfl
  · exact h

/-- A coherent store changes what `storeFrame` lists. -/
theorem State.storeCoherent_frame (s : State) (pa : Nat) (bs : Bytes) : s.storeFrame (s.storeCoherent pa bs) :=
  State.storeFrame_trans (s.invalidateLine_frame _) (State.storePiece_frame _ _ _)

theorem State.storeRange_frame (n : Nat) (s : State) (pa : Nat) (bs : Bytes) : s.storeFrame (State.storeRange n s pa bs) := by
  induction n generalizing s pa bs with
  | zero => exact s.storeFrame_refl
  | succ n ih =>
    unfold State.storeRange
    split
    · exact s.storeFrame_refl
    · exact State.storeFrame_trans (s.storeCoherent_frame _ _) (ih _ _ _)

theorem State.writeFuel_frame (b n : Nat) (s : State) (va : Nat) (bs : Bytes) : s.storeFrame (State.writeFuel b n s va bs).1 := by
  induction n generalizing s va bs with
  | zero => exact s.storeFrame_refl
  | succ n ih =>
    unfold State.writeFuel
    split
    · exact s.storeFrame_refl
    · split
      · exact s.storeFrame_refl
      · exact State.storeFrame_trans (s.storeCoherent_frame _ _) (ih _ _ _)

/-- A write to a basin's memory is a coherent store. -/
theorem State.basinWrite_frame (s : State) (b va : Nat) (bs : Bytes) : s.storeFrame (s.basinWrite b va bs).1 :=
  State.writeFuel_frame b _ s va bs

theorem State.put_frame (s : State) (b va : Nat) (bs : Bytes) : s.storeFrame (s.put b va bs) := s.basinWrite_frame b va bs

/-- A read that may find memory out of reach takes free values and changes nothing else. -/
theorem State.openRead_shape (s : State) (b va n : Nat) : ∃ k, (s.openRead b va n).2 = { s with freeCount := k } := by
  unfold State.openRead
  split
  · exact ⟨s.freeCount, rfl⟩
  · exact ⟨_, rfl⟩

/-! ### Translation caches -/

/-- A unit that learns a translation changes the caches and at most takes a free value. -/
theorem State.learn_shape (s : State) (u : Option Nat) (b va : Nat) :
    ∃ l k, s.learn u b va = { s with tlb := l, freeCount := k } := by
  unfold State.learn
  split
  · exact ⟨s.tlb, s.freeCount, rfl⟩
  · split
    · exact ⟨s.tlb, s.freeCount, rfl⟩
    · split
      · exact ⟨s.tlb, s.freeCount, rfl⟩
      · exact ⟨s.tlb, _, rfl⟩
      · exact ⟨_, s.freeCount, rfl⟩
      · split
        · exact ⟨s.tlb, s.freeCount, rfl⟩
        · split
          · exact ⟨s.tlb, _, rfl⟩
          · exact ⟨_, _, rfl⟩

theorem State.learnRange_shape (s : State) (u : Option Nat) (b va n : Nat) :
    ∃ l k, s.learnRange u b va n = { s with tlb := l, freeCount := k } :=
  State.forEach_keeps (P := fun t => ∃ l k, t = { s with tlb := l, freeCount := k }) _ ⟨s.tlb, s.freeCount, rfl⟩
    (fun t i _ h => by
      obtain ⟨l, k, rfl⟩ := h
      obtain ⟨l', k', h'⟩ := State.learn_shape ({ s with tlb := l, freeCount := k } : State) u b (va + 0x10000 * i)
      exact ⟨l', k', h'⟩)

/-- With nothing cached, an access of a unit is its plain access. -/
theorem State.accessVia_uncached (s : State) (u b : Nat) (w : Bool) (va : Nat) (h : s.tlb = []) :
    s.accessVia (some u) b w va = s.accessFrom (some u) b w va := by
  simp [State.accessVia, State.cacheHit, State.cached, h]

/-! ### Time -/

theorem State.advanceTimebases_shape (s : State) (n : Nat) : ∃ m, s.advanceTimebases n = { s with dies := m } :=
  State.forEach_keeps (P := fun t => ∃ m, t = { s with dies := m }) _ ⟨s.dies, rfl⟩ (fun t d _ h => by
    obtain ⟨m, rfl⟩ := h
    exact ⟨_, rfl⟩)

theorem State.tick_shape (s : State) : ∃ n m, s.tick = { s with cyc := n, dies := m } := by
  unfold State.tick
  split
  · dsimp only
    split
    · obtain ⟨m, h⟩ := ({ s with cyc := s.cyc + 1 } : State).advanceTimebases_shape 1
      exact ⟨_, m, h⟩
    · exact ⟨_, s.dies, rfl⟩
  · exact ⟨s.cyc, s.dies, rfl⟩

/-! ### Interrupts, errors, replies, records -/

/-- Between s and t only basins, harts, outputs and what coherent stores change have changed. -/
def State.basinFrame (s t : State) : Prop :=
  t = { s with
    basins := t.basins, harts := t.harts, mem := t.mem, poison := t.poison, ddrMarks := t.ddrMarks, snoopLines := t.snoopLines
    caches := t.caches, freeCount := t.freeCount, links := t.links, checks := t.checks, drainWait := t.drainWait, out := t.out }

theorem State.basinFrame_refl (s : State) : s.basinFrame s := rfl

theorem State.basinFrame_trans {s t u : State} (h : s.basinFrame t) (h' : t.basinFrame u) : s.basinFrame u := by
  unfold State.basinFrame at *
  rw [h'] ; rw [h]

theorem State.storeFrame_basin {s t : State} (h : s.storeFrame t) : s.basinFrame t := by
  unfold State.storeFrame at h
  unfold State.basinFrame
  rw [h]

/-- An interrupt vector goes to the host, or as a message to a hart. -/
theorem State.vector_shape (s : State) (b v : Nat) : ∃ h o, s.vector b v = { s with harts := h, out := o } := by
  unfold State.vector
  dsimp only
  split
  · exact ⟨_, _, rfl⟩
  · exact ⟨s.harts, _, rfl⟩

theorem State.setErr_shape (s : State) (b : Nat) (mask : W32) :
    ∃ k h o, s.setErr b mask = { s with basins := k, harts := h, out := o } := by
  unfold State.setErr
  dsimp only
  split
  · exact ⟨_, s.harts, s.out, rfl⟩
  · obtain ⟨h, o, e⟩ := (s.setBasin b { s.basin b with err := (s.basin b).err ||| mask }).vector_shape b 1
    exact ⟨_, h, o, e⟩

theorem State.setBasinState_shape (s : State) (b : Nat) (st : BasinState) :
    ∃ k h o, s.setBasinState b st = { s with basins := k, harts := h, out := o } := by
  unfold State.setBasinState
  dsimp only
  split
  · exact ⟨_, s.harts, s.out, rfl⟩
  · obtain ⟨h, o, e⟩ := (s.setBasin b { s.basin b with st := st }).vector_shape b 1
    exact ⟨_, h, o, e⟩

/-- Register misuse sets the basin's bit and raises 0x0E02. -/
theorem State.misuse_shape (s : State) (b : Nat) :
    ∃ k h o p, s.misuse b = { s with basins := k, harts := h, out := o, pkg := p } := by
  obtain ⟨k, h, o, e⟩ := s.setErr_shape b errMisuse
  unfold State.misuse
  rw [e]
  exact ⟨k, h, o, _, rfl⟩

theorem State.reply_shape (s : State) (b status code : Nat) (result : Bytes) :
    ∃ k h o, s.reply b status code result = { s with basins := k, harts := h, out := o } := by
  unfold State.reply
  dsimp only
  split
  · exact ⟨s.basins, s.harts, s.out, rfl⟩
  · obtain ⟨h, o, e⟩ := (s.setBasin b _).vector_shape b 0
    exact ⟨_, h, o, e⟩

/-- A completion record is a coherent store, the end of its ring's entry and at most one interrupt. -/
theorem State.complete_frame (s : State) (r : RingRef) (c : Completion) : s.basinFrame (s.complete r c) := by
  unfold State.complete
  dsimp only
  split
  · exact s.basinFrame_refl
  · have h0 := State.storeFrame_basin (s.basinWrite_frame r.basin
      ((s.ring r.basin r.ring).completion.toNat + 32 * ((s.ring r.basin r.ring).cplProd.toNat % (s.ring r.basin r.ring).count))
      (completionBytes r c (s.time s.pkg.head)))
    refine State.basinFrame_trans h0 ?_
    split
    · obtain ⟨h, o, e⟩ := State.vector_shape (State.setRing _ _ _ _) r.basin (2 + r.ring)
      rw [e]; rfl
    · rfl

/-- A run log's entry is a coherent store and changes the basin. -/
theorem State.logWrite_frame (s : State) (b : Nat) (k : LogKind) (entry : Bytes) : s.basinFrame (s.logWrite b k entry).1 := by
  unfold State.logWrite
  dsimp only
  split
  · exact s.basinFrame_refl
  · split
    · rfl
    · exact State.basinFrame_trans (State.storeFrame_basin (State.storeRange_frame _ s _ entry)) rfl

theorem State.numEvent_frame (s : State) (b : Nat) (e : NumEvent) : s.basinFrame (s.numEvent b e) :=
  State.basinFrame_trans (t := s.setBasin b _) rfl (State.logWrite_frame _ _ _ _)

theorem State.slcEvent_frame (s : State) (a : SlcAt) (kind member : Nat) (slow : Bool) (count : Nat) :
    s.basinFrame (s.slcEvent a kind member slow count) := s.numEvent_frame _ _

/-! ### Check units and context faults -/

/-- A check unit's record changes the unit, its basin, and what tells of it. -/
theorem State.checkRecord_frame (s : State) (u : Nat) (r : CheckRec) : s.basinFrame (s.checkRecord u r) := by
  have tell : ∀ t : State, s.basinFrame t → s.basinFrame (if r.basin < 8 then t.setErr r.basin errCheck else t) := by
    intro t ht
    split
    · obtain ⟨k, h, o, e⟩ := t.setErr_shape r.basin errCheck
      rw [e]; exact State.basinFrame_trans ht rfl
    · exact ht
  unfold State.checkRecord
  refine tell _ ?_
  split
  · rfl
  · rfl

theorem State.endWaits_shape (s : State) (c : Nat) : ∃ k l, s.endWaits c = { s with cores := k, clusters := l } := by
  unfold State.endWaits
  dsimp only
  have hw : ∀ (t : State) (i : Nat) (w : Option Nat), ∃ l, t.endWait i w = { t with clusters := l } := by
    intro t i w
    unfold State.endWait
    split
    · exact ⟨_, rfl⟩
    · exact ⟨t.clusters, rfl⟩
  have hn : ∀ t : State, ∃ k, t.noteStall c = { t with cores := k } := by
    intro t
    unfold State.noteStall
    dsimp only
    split
    · split
      · exact ⟨_, rfl⟩
      · exact ⟨t.cores, rfl⟩
    · split
      · exact ⟨t.cores, rfl⟩
      · exact ⟨_, rfl⟩
  have hf : ∃ l, s.forEach (engines.flatMap (s.core c).flight.get) (fun s f => s.endWait (c / 8) f.waitSince) =
      { s with clusters := l } :=
    State.forEach_keeps (P := fun t => ∃ l, t = { s with clusters := l }) _ ⟨s.clusters, rfl⟩ (fun t x _ h => by
      obtain ⟨l, rfl⟩ := h
      exact hw _ _ _)
  obtain ⟨l, h1⟩ := hf
  rw [h1]
  obtain ⟨l', h2⟩ := hw { s with clusters := l } (c / 8) (s.core c).loadSince
  rw [h2]
  obtain ⟨k, h3⟩ := hn (State.setCore { s with clusters := l' } c _)
  exact ⟨k, l', h3⟩

theorem State.depart_shape (s : State) (c : Nat) (short : Bool) :
    ∃ k g, s.depart c short = { s with cores := k, kettleGhosts := g } := by
  unfold State.depart
  dsimp only
  have hf : ∃ g, s.forEach (s.core c).kettle (fun s e =>
      if e.2.member then
        let g := s.ghosts e.1
        s.setGhosts e.1 (if short then (g.1, g.2 + 1) else (g.1 + 1, g.2))
      else s) = { s with kettleGhosts := g } :=
    State.forEach_keeps (P := fun t => ∃ g, t = { s with kettleGhosts := g }) _ ⟨s.kettleGhosts, rfl⟩ (fun t x _ h => by
      obtain ⟨g, rfl⟩ := h
      dsimp only
      split
      · exact ⟨_, rfl⟩
      · exact ⟨g, rfl⟩)
  obtain ⟨g, h⟩ := hf
  exact ⟨_, g, by rw [h]; rfl⟩

/-- Entering FAULTED changes the core, its cluster, the departures of its lines, and the error the package notes. -/
theorem State.enterFault_shape (s : State) (c code index : Nat) :
    ∃ k l g p, s.enterFault c code index = { s with cores := k, clusters := l, kettleGhosts := g, pkg := p } := by
  obtain ⟨k, l, h1⟩ := s.endWaits_shape c
  obtain ⟨k', g, h2⟩ := (s.endWaits c).depart_shape c true
  unfold State.enterFault
  dsimp only
  split
  · rw [h2, h1]; exact ⟨_, _, _, _, rfl⟩
  · rw [h2, h1]; exact ⟨_, _, _, _, rfl⟩
  · rw [h2, h1]; exact ⟨_, _, _, _, rfl⟩
  · exact ⟨s.cores, s.clusters, s.kettleGhosts, _, rfl⟩
  · exact ⟨s.cores, s.clusters, s.kettleGhosts, s.pkg, rfl⟩

end Sys2Proof.Machine
end

