-- ==== Sys2Proof/Laws/Turn.lean ====
section
/-!
SUPPORT. What the exchange of sheets leaves alone: the turn itself, the slot, the shadow state and the keepers, when neither
the topology nor the basins change.
-/
namespace Sys2Proof.Machine

/-- What a turn has decided, every keeper, and the states of the basins. -/
def State.turnView (s : State) : Option Turn × Nat × W64 × ShadowState × NMap Die × (Nat → BasinState) :=
  (s.pkg.turn, s.pkg.activeSlot, s.pkg.quireSeq, s.pkg.shadow, s.dies, fun b => (s.basin b).st)

theorem State.forEach_view {α : Type} {f : State → α → State} (l : List α) (s : State)
    (hf : ∀ s x, (f s x).turnView = s.turnView) : (s.forEach l f).turnView = s.turnView :=
  State.forEach_same State.turnView l s (fun t x _ => hf t x)

theorem State.storeFrame_view {s t : State} (h : s.storeFrame t) : t.turnView = s.turnView := by
  unfold State.storeFrame at h
  rw [h] ; rfl

@[simp] theorem State.setPort_view (s : State) (p : Nat) (k : Port) : (s.setPort p k).turnView = s.turnView := rfl
@[simp] theorem State.setFlow_view (s : State) (f : Nat) (k : Flow) : (s.setFlow f k).turnView = s.turnView := rfl
@[simp] theorem State.setComplex_view (s : State) (x : Nat) (k : Complex) : (s.setComplex x k).turnView = s.turnView := rfl
@[simp] theorem State.setCheck_view (s : State) (u : Nat) (k : CheckUnit) : (s.setCheck u k).turnView = s.turnView := rfl
@[simp] theorem State.emit_view (s : State) (o : Out) : (s.emit o).turnView = s.turnView := rfl
@[simp] theorem State.raise_view (s : State) (c d b u x a : Nat) : (s.raise c d b u x a).turnView = s.turnView := rfl
@[simp] theorem State.sendControl_view (s : State) (p k : Nat) (f : TowFrame) : (s.sendControl p k f).turnView = s.turnView := rfl
@[simp] theorem State.takeBack_view (s : State) (p k : Nat) : (s.takeBack p k).turnView = s.turnView := rfl
@[simp] theorem State.wipe_view (s : State) (a n : Nat) : (s.wipe a n).turnView = s.turnView := rfl
@[simp] theorem State.flushBasin_view (s : State) (b : Nat) : (s.flushBasin b).turnView = s.turnView := rfl
@[simp] theorem State.initPort_view (s : State) (p : Nat) : (s.initPort p).turnView = s.turnView := rfl
@[simp] theorem State.keepCopy_view (s : State) (e : CacheLine) : (s.keepCopy e).turnView = s.turnView := rfl

/-! ### Ports -/

@[simp] theorem State.sendFrame_view (s : State) (p : Nat) (x : Sent) : (s.sendFrame p x).turnView = s.turnView := by
  unfold State.sendFrame
  dsimp only
  split <;> rfl

@[simp] theorem State.pumpFuel_view (p n : Nat) (s : State) : (State.pumpFuel p n s).turnView = s.turnView := by
  induction n generalizing s with
  | zero => rfl
  | succ n ih =>
    unfold State.pumpFuel
    split
    · rfl
    · rw [ih]; simp

@[simp] theorem State.sendTests_view (p n : Nat) (s : State) : (State.sendTests p n s).turnView = s.turnView := by
  induction n generalizing s with
  | zero => rfl
  | succ n ih =>
    unfold State.sendTests
    dsimp only
    split
    · rfl
    · split
      · rw [ih]; simp
      · simp

@[simp] theorem State.kick_view (s : State) (key : Nat) : (s.kick key).turnView = s.turnView := by
  unfold State.kick
  dsimp only
  split
  · rfl
  · split
    · rfl
    · simp [State.pump]

@[simp] theorem State.reroute_view (s : State) (key : Nat) : (s.reroute key).turnView = s.turnView := by
  unfold State.reroute
  dsimp only
  split
  · simp
  · split <;> split <;> simp

@[simp] theorem State.portDown_view (s : State) (p : Nat) : (s.portDown p).turnView = s.turnView := by
  unfold State.portDown State.rerouteAll
  rw [State.forEach_view _ _ (fun _ _ => State.reroute_view _ _)]
  rfl

@[simp] theorem State.settlePorts_view (s : State) (d : Nat) : (s.settlePorts d).turnView = s.turnView := by
  unfold State.settlePorts
  split
  · rfl
  · refine State.forEach_view _ _ (fun t p => ?_)
    split <;> simp

/-! ### Domains -/

@[simp] theorem State.hartStores_view (s : State) (e : CacheLine) : (s.hartStores e).1.turnView = s.turnView := by
  unfold State.hartStores
  dsimp only
  split
  · rfl
  · obtain ⟨k, h⟩ := State.freeBytes_shape 64 s.free.2
    rw [h]; rfl

@[simp] theorem State.writeBack_view (s : State) (e : CacheLine) : (s.writeBack e).turnView = s.turnView :=
  State.storeFrame_view (s.writeBack_frame e)

@[simp] theorem State.flushCaches_view (s : State) (d : Nat) : (s.flushCaches d).turnView = s.turnView := by
  unfold State.flushCaches
  have h : ∀ l : List CacheLine, (s.forEach l (fun s e =>
      let r := s.hartStores e
      (r.1.writeBack r.2).keepCopy { r.2 with dirty := false })).turnView = s.turnView :=
    fun l => State.forEach_view _ _ (fun t e => by simp)
  dsimp only
  split
  · exact h _
  · exact h _

@[simp] theorem State.setDomain_view (s : State) (n : Nat) (on : Bool) : (s.setDomain n on).turnView = s.turnView := by
  unfold State.setDomain
  dsimp only
  split
  · rw [State.flushCaches_view]; rfl
  · rfl

@[simp] theorem State.settleDomains_view (s : State) : s.settleDomains.turnView = s.turnView := by
  unfold State.settleDomains
  dsimp only
  rw [State.forEach_view _ _ (fun t pd => by simp), State.forEach_view _ _ (fun t x => by simp)]
  refine State.forEach_view _ _ (fun t d => ?_)
  rw [State.setDomain_view]
  exact State.forEach_view _ _ (fun t q => by simp)

/-! ### Blocks -/

@[simp] theorem State.retarget_view (s : State) (x : Nat) : (s.retarget x).turnView = s.turnView := by
  unfold State.retarget
  dsimp only
  split <;> rfl

theorem State.turnClocks_view (s : State) (d : Nat) : (s.turnClocks d).turnView = s.turnView :=
  State.forEach_view _ _ (fun t x => by dsimp only; split <;> simp)

@[simp] theorem State.wipeGib_view (s : State) (i k g : Nat) : (s.wipeGib i k g).turnView = s.turnView := by
  unfold State.wipeGib
  dsimp only
  split <;> rfl

theorem State.turnMemory_view (s : State) (t : Sheets) (d : Nat) : (s.turnMemory t d).turnView = s.turnView := by
  unfold State.turnMemory
  dsimp only
  rw [State.forEach_view _ _ (fun u i => State.forEach_view _ _ (fun u n => by simp))]
  exact State.forEach_view _ _ (fun u b => by simp)

theorem State.turnPorts_view (s : State) (t : Sheets) (d : Nat) : (s.turnPorts t d).turnView = s.turnView :=
  State.forEach_view _ _ (fun u p => by split <;> simp)

theorem State.turnQuiesced_view (s : State) (d : Nat) : (s.turnQuiesced d).turnView = s.turnView :=
  State.forEach_view _ _ (fun u p => by split <;> simp)

theorem State.turnChecks_view (s : State) (t : Sheets) (d : Nat) : (s.turnChecks t d).turnView = s.turnView :=
  State.forEach_view _ _ (fun u i => by simp)

theorem State.turnFlows_view (s : State) (t : Sheets) : (s.turnFlows t).turnView = s.turnView :=
  State.forEach_view _ _ (fun u f => by split <;> simp)

theorem State.setBasin_view (s : State) (b : Nat) (k : Basin) (h : k.st = (s.basin b).st) :
    (s.setBasin b k).turnView = s.turnView := by
  have hb : (fun j => ((s.setBasin b k).basin j).st) = fun j => (s.basin j).st := by
    funext j
    by_cases hj : j = b
    · simp [hj, h]
    · simp [hj]
  unfold State.turnView
  rw [hb] ; rfl

theorem State.turnTelemetry_view (s : State) (t : Sheets) : (s.turnTelemetry t).turnView = s.turnView :=
  State.forEach_view _ _ (fun u b => u.setBasin_view b _ rfl)

/-- With no UNAVAILABLE basin nothing reopens. -/
theorem State.reopen_none (s : State) (h : ∀ b, (s.basin b).st ≠ .unavailable) : s.reopen = s :=
  State.forEach_keeps (P := fun t => t = s) _ rfl (fun t b _ ht => by subst ht; simp [h b])

/-! ### The exchange -/

/-- Neither the topology nor the basins sheet is exchanged. -/
def plainTurn (changed : List Nat) : Prop := changed.contains 4 = false ∧ changed.contains 5 = false

theorem State.turnUnits_view (s : State) (t : Sheets) (d : Nat) (changed : List Nat) (h : plainTurn changed) :
    (s.turnUnits t d changed).turnView = s.turnView := by
  unfold State.turnUnits
  simp only [h.1, h.2, Bool.false_eq_true, if_false]
  have on : ∀ (ty : Nat) (f : State → State) (u : State), (∀ u, (f u).turnView = u.turnView) →
      (if changed.contains ty then f u else u).turnView = u.turnView := by
    intro ty f u hf
    split
    · exact hf u
    · rfl
  rw [on 14 _ _ (fun u => u.turnChecks_view t d), State.turnQuiesced_view, on 7 _ _ (fun u => u.turnPorts_view t d),
    on 6 _ _ (fun u => u.turnMemory_view t d), on 2 _ _ (fun u => u.turnClocks_view d)]

/-- A keeper that swaps exchanges the changed bodies of its two copies; no other keeper, and nothing of the turn, changes. -/
theorem State.swapDie_view (s : State) (d : Nat) (changed : List Nat) (h : plainTurn changed) :
    (s.swapDie d changed).turnView = (s.setDie d ((s.die d).exchange changed)).turnView :=
  State.turnUnits_view _ _ _ _ h

theorem State.turnPackage_view (s : State) (changed : List Nat) (h : plainTurn changed)
    (hb : ∀ b, (s.basin b).st ≠ .unavailable) : (s.turnPackage changed).turnView = s.turnView := by
  have on : ∀ (c : Bool) (f : State → State) (u : State), (∀ u, (f u).turnView = u.turnView) →
      (if c then f u else u).turnView = u.turnView := by
    intro c f u hf
    cases c
    · rfl
    · exact hf u
  have hv : ∀ u : State, u.turnView = s.turnView → u.reopen.turnView = s.turnView := by
    intro u hu
    have hst : ∀ b, (u.basin b).st = (s.basin b).st :=
      congrFun (congrArg (fun v => v.2.2.2.2.2) hu)
    rw [u.reopen_none (fun b => by rw [hst b]; exact hb b)]
    exact hu
  unfold State.turnPackage
  refine hv _ ?_
  simp only [h.2, Bool.false_eq_true, if_false]
  rw [on _ _ _ (fun u => u.turnTelemetry_view _), on _ _ _ (fun u => u.turnFlows_view _),
    State.forEach_view _ _ (fun u p => State.initPort_view u p), State.forEach_view _ _ (fun u d => State.settlePorts_view u d)]
  exact on _ _ _ (fun u => u.settleDomains_view)

/-- Settling a turn marks it at most, and leaves every keeper as it is. -/
theorem State.settleTurn_view (s : State) (x : Turn) (hx : s.pkg.turn = some x) (h : plainTurn x.changed)
    (hb : ∀ b, (s.basin b).st ≠ .unavailable) :
    ∃ on, s.settleTurn.turnView = (s.setTurn (some { x with settled := on })).turnView := by
  unfold State.settleTurn
  rw [hx]
  dsimp only
  split
  · refine ⟨x.settled, ?_⟩
    unfold State.turnView
    simp [State.setTurn, hx]
    rfl
  · exact ⟨true, State.turnPackage_view _ _ h hb⟩

end Sys2Proof.Machine
end

