-- ==== Sys2Proof/WellFormed.lean ====
section
/-!
DEFINITION. Which commands are well formed: the lists an event carries have the lengths the spec gives the units they name,
and operands that are plain numbers lie in the ranges of the spec.
-/
namespace Sys2Proof

/-- The bytes of a native frame with its padding: whole 16-byte units of the stream, at most 4,112 bytes (R361). -/
def onGrid (raw : Bytes) : Bool := raw.length % 16 == 0 && decide (16 ≤ raw.length) && decide (raw.length ≤ 4112)

/-- A command whose operands have the shapes of the spec (R31, R256, R284, R318, R356, R361, R372, R380, R385, R386, R423,
R436, R442, R491). Log entry 11. -/
def Instr.wellFormed : Instr → Bool
  | .clusterSelfTest failed shorted => decide (failed.length = 4) && decide (shorted.length = 56)
  | .ddrTrainingComplete _ dimmGib => decide (dimmGib.length = 16) && dimmGib.all (fun g => decide (g ≤ 256))
  | .pkgReady cxlGib => decide (cxlGib.length = 8)
  | .timeRequest _ raw => onGrid raw
  | .timeResponse _ head crc payload => onGrid (head ++ crc ++ payload)
  | .ddrBlockZeroed block => decide (0x200000 ≤ block) && decide (block < 0x400000)
  | .patrolScrub piece _ => 
      (decide (piece * 64 < 0x10000000000) && decide (piece * 64 % 0x4000000000 < 0x3000000000)) ||
      (decide (0x40000000000 ≤ piece * 64) && decide (piece * 64 < 0x80000000000))
  | .bucketReady _ _ _ entry => decide (entry < 65536)
  | .broadcastWaitExpiry _ _ _ entry => decide (entry < 65536)
  | .dataFrame _ raw => onGrid raw
  | .ackCreditFrame _ header payload => onGrid (header ++ payload)
  | .nakFrame _ raw => onGrid raw
  | .resumeQuery _ head crc payload => onGrid (head ++ crc ++ payload)
  | .resumeAnswer _ head crc payload => onGrid (head ++ crc ++ payload)
  | .ethernetDatagram _ raw => decide (64 ≤ raw.length) && decide (raw.length ≤ 4182)
  | .arpRequest _ target => decide (target.length = 4)
  | .neighborSolicitation _ target => decide (target.length = 16)
  | .capabilityRecord _ _ record => decide (record.length = 64)
  | .stitchWrite _ h _ data => decide (data.length = 64 * (h.pieces.val + 1))
  | .stitchCompletion _ h data => decide (data.length = 0) || decide (data.length = 64 * (h.pieces.val + 1))
  | .snoopRequest d home _ _ => decide (4 ≤ d.val) && decide (home.val < 4)
  | .snoopResponse _ _ dirty data => decide (data.length = if dirty then 64 else 0)
  | .isolationNotice d lost _ => d != lost
  | .registerWrite _ _ width _ => decide (width = 4) || decide (width = 8)
  | .hostRead _ _ len => decide (0 < len)
  | .hostWrite _ _ data => decide (0 < data.length)
  | .deviceMemoryRequest _ write _ len data => decide (data.length = if write then len else 0)
  | .lockCycleBoundary m => decide (m.slack.length = 4)
  | .governorEvaluation temps => decide (temps.length = 6)
  | .stitchReservedType _ type => decide (type.toNat = 0) || decide (9 ≤ type.toNat)
  | .reservedFrameKind _ raw => onGrid raw
  | .powerOnStart _ | .pwrGoodFall _ | .keeperFirmwareLoaded _ | .stitchStartTrained _ _ | .hbmTrainingComplete _
  | .pcieConfigBeforeReady _ | .referenceQualified _ _ | .referenceDisqualified _ _ | .pllRelock _
  | .revertToPrimary _ | .referenceRetry _ _ | .rootPllLossOfLock _ | .mgmtStartCondition _ | .vfreqWrite _ _ _
  | .stepChangeComplete _ | .loReadLatch _ _ | .timeRequestTimer _ | .stageBegin _ | .stageData _ | .stageEnd _
  | .validate _ | .turn _ | .turnAtReset _ | .quireQuery _ | .turnPrepare _ | .turnVote _ | .turnDecision _
  | .turnAck _ | .turnDecisionQueryTimeout _ | .pldmFirmwareData _ _ _ | .pldmActivateFirmware _
  | .keeperLockstepMismatch _ | .keeperWatchdogExpiry _ | .processorKeeperSilence _ | .lifeCycle _
  | .jtagInstruction _ | .cxlZeroFillComplete _ | .contextStart _ _ | .contextLoaded _ | .nop _ | .add _ | .sub _
  | .and _ | .or _ | .xor _ | .sll _ | .srl _ | .sra _ | .mul _ | .mulhu _ | .slt _ | .sltu _ | .minu _ | .maxu _
  | .addi _ | .andi _ | .ori _ | .xori _ | .slli _ | .srli _ | .srai _ | .li _ | .lih _ | .ld _ | .st _ | .rdsr _
  | .jmp _ | .beq _ | .bne _ | .blt _ | .bge _ | .bltu _ | .bgeu _ | .jmpr _ | .loop _ | .loopi _ | .brk _
  | .qbar _ | .phase _ | .rtry _ | .draw _ | .halt _ | .engineIssue _ _ | .instructionComplete _ _
  | .phaseMarkTaken _ | .regionOverflow _ | .retryRestart _ | .contextDrained _ | .contextFault _ | .mma _
  | .tout _ | .tin _ | .tzero _ | .pwin _ | .vop _ | .vld _ | .vst _ | .vget _ | .vput _ | .tcvt _ | .tred _
  | .rmrg _ | .scvt _ | .radd _ | .smax _ | .fly _ | .brg _ | .blin _ | .bargeComplete _ | .bargeFail _
  | .poisonLoadTrap _ _ _ | .swait _ | .swaitSatisfied _ | .ssig _ | .sset _ | .srsig _ | .remoteSignalArrival _
  | .srsigAck _ | .kbar _ | .kwait _ | .kjoin _ | .kleave _ | .kettleRelease _ | .kettleUpdate _ _ _ _
  | .kettleUpdateResend _ | .deadlockWindowExpiry _ | .sluiceStep _ _ | .contributionReceived _ _ _
  | .quarantineMarker _ _ _ | .admissionComplete _ | .gateDeadline _ | .collationRoom _ _ | .normPartial _ _ _ _
  | .normTotal _ _ _ | .normWaitExpiry _ | .updateComplete _ | .parametersReceived _ _ _ | .momentMirror _ _ _
  | .mirrorAck _ | .refetchRequest _ _ _ | .refetchData _ _ _ | .trainingAttempt _ _ | .portTrained _ _
  | .portLoss _ _ | .fastRetrainComplete _ _ _ | .probationPassed _ | .probationTimeout _ | .uncorrectableFrame _
  | .nakResendTimer _ | .creditReturnTimer _ | .towpathSend _ _ | .pauseFrame _ _ | .flowAckTimer _ _
  | .flowNakRepeat _ _ | .flowGapTimeout _ _ | .slowWaterHoldEnd _ | .portQuiesce _ | .widthEcho _ _ _
  | .stitchRead _ _ | .flitLossTimeout _ _ | .laneFault _ _ _ | .stitchRetrainDone _ _ _ _
  | .routeDrainComplete _ _ | .topologyQuery _ | .setStep _ | .translationRoot _ | .translationFlush _
  | .semaphoreSignal _ | .abort _ | .ringSetup _ | .flowRing _ | .resetContext _ | .resetEngine _ | .resetBasin _
  | .unknownCommand _ | .mboxOverrun _ | .ringDoorbell _ _ _ | .ringNoop _ _ | .ringBarge _ _
  | .ringEntryMalformed _ _ | .bsnIrqFwd _ _ | .deviceIrqFwd _ _ | .chkPop _ _ | .bsnChkPop _ _
  | .mctpControlAccess _ _ _ | .endpointLinkDown _ | .perstNAssert _ | .thermalTrip _ | .powerMonitorFail _
  | .pldmSetCap _ | .pldmSensorRead _ | .hangSample _ | .recoveryDecision _ | .endpaperStored _ | .resetComplete _
  | .resetTimeout _ | .readmission _ | .endpaperFlashCopyDone _ | .stepSummaryClose _ | .checkIntervalEnd _
  | .checkIntervalReport _ _ _ | .checkPartnerMissing _ | .undefinedOpcode _ | .basinOpenComplete _
  | .perstNRelease _ | .segmentLinkUp _ | .errHwaddrWrite _ _ _ | .pcieConfigRequest _ _ | .resetNLow
  | .mgmtLinesShorted | .turnVoteDeadline | .turnSwap | .selectorWriteComplete | .turnRetry | .pldmRequestUpdate
  | .heartbeatSend | .heartbeatLoss | .hourlyTrim | .packageResetRequest | .endpaperSetErase | .powerCycleRequest
  | .mgmtLinesCleared => true

end Sys2Proof
end

