-- ==== Sys2Proof/Tests/Slice0.lean ====
section
/-!
SUPPORT. Tests: ill-formed commands that the checks refuse, and for every statement with hypotheses concrete states and operands
that meet all of them together.
-/
namespace Sys2Proof.Tests
open Sys2Proof Sys2Proof.Machine Sys2Proof.Claims
set_option Elab.async false

/-! ### Well-formedness: a term that each check refuses -/

def aHdr : StitchHdr := ⟨1, false, false, false, 5, 0, 1, 0, 0, 0, 0, 0⟩

theorem test_ill_self_test : (Instr.clusterSelfTest [] (List.replicate 56 0)).wellFormed = false := by decide
theorem test_ill_self_test_lanes : (Instr.clusterSelfTest [0, 0, 0, 0] []).wellFormed = false := by decide
theorem test_ill_ddr : (Instr.ddrTrainingComplete 0 []).wellFormed = false := by decide
theorem test_ill_ddr_size : (Instr.ddrTrainingComplete 0 (List.replicate 16 257)).wellFormed = false := by decide
theorem test_ill_cxl : (Instr.pkgReady []).wellFormed = false := by decide
theorem test_ill_ddr_block : (Instr.ddrBlockZeroed 0x400000).wellFormed = false := by decide
theorem test_ill_ddr_block_low : (Instr.ddrBlockZeroed 0x1FFFFF).wellFormed = false := by decide
theorem test_ill_scrub : (Instr.patrolScrub (0xC0000000 / 64 * 64) .clean).wellFormed = false := by decide
theorem test_ill_bucket : (Instr.bucketReady 0 0 0 65536).wellFormed = false := by decide
theorem test_ill_broadcast : (Instr.broadcastWaitExpiry 0 0 0 65536).wellFormed = false := by decide
theorem test_ill_frame : (Instr.dataFrame 0 (List.replicate 4128 0)).wellFormed = false := by
  simp only [Instr.wellFormed, onGrid, List.length_replicate]; decide
theorem test_ill_frame_odd : (Instr.dataFrame 0 (List.replicate 24 0)).wellFormed = false := by decide
theorem test_ill_frame_empty : (Instr.nakFrame 0 []).wellFormed = false := by decide
theorem test_ill_time : (Instr.timeRequest 0 [0]).wellFormed = false := by decide
theorem test_ill_time_response : (Instr.timeResponse 0 [0] [] []).wellFormed = false := by decide
theorem test_ill_ack : (Instr.ackCreditFrame 0 [0] []).wellFormed = false := by decide
theorem test_ill_resume : (Instr.resumeQuery 0 [0] [] []).wellFormed = false ∧
    (Instr.resumeAnswer 0 [0] [] []).wellFormed = false := by decide
theorem test_ill_kind : (Instr.reservedFrameKind 0 []).wellFormed = false := by decide
theorem test_ill_datagram : (Instr.ethernetDatagram 0 (List.replicate 63 0)).wellFormed = false := by decide
theorem test_ill_datagram_long : (Instr.ethernetDatagram 0 (List.replicate 4183 0)).wellFormed = false := by
  simp only [Instr.wellFormed, List.length_replicate]; decide
theorem test_ill_arp : (Instr.arpRequest 0 []).wellFormed = false := by decide
theorem test_ill_neighbor : (Instr.neighborSolicitation 0 []).wellFormed = false := by decide
theorem test_ill_record : (Instr.capabilityRecord 0 false []).wellFormed = false := by decide
theorem test_ill_stitch_write : (Instr.stitchWrite 0 aHdr 0 []).wellFormed = false := by decide
theorem test_ill_stitch_completion : (Instr.stitchCompletion 0 aHdr [0]).wellFormed = false := by decide
theorem test_ill_snoop : (Instr.snoopRequest 0 0 0 .recall).wellFormed = false := by decide
theorem test_ill_snoop_home : (Instr.snoopRequest 4 5 0 .recall).wellFormed = false := by decide
theorem test_ill_snoop_data : (Instr.snoopResponse 0 0 false [0]).wellFormed = false := by decide
theorem test_ill_isolation : (Instr.isolationNotice 2 2 0).wellFormed = false := by decide
theorem test_ill_register_width : (Instr.registerWrite .mgmt 0 3 0).wellFormed = false := by decide
theorem test_ill_host_read : (Instr.hostRead 0 0 0).wellFormed = false := by decide
theorem test_ill_host_write : (Instr.hostWrite 0 0 []).wellFormed = false := by decide
theorem test_ill_device : (Instr.deviceMemoryRequest 0 true 0 4 []).wellFormed = false := by decide
theorem test_ill_lock_cycle : (Instr.lockCycleBoundary ⟨0, []⟩).wellFormed = false := by decide
theorem test_ill_evaluation : (Instr.governorEvaluation []).wellFormed = false := by decide
theorem test_ill_reserved_type : (Instr.stitchReservedType 0 8).wellFormed = false := by decide
theorem test_well_formed : (Instr.add 3).wellFormed = true := by decide

/-- No word spells a command: the table gives no row bits. -/
theorem test_no_word : decodeTableWord 64 0x0123 = none := by decide

/-! ### Small states -/

/-- The package before power with one thing in place. -/
def withCore (k : Core) : State := { State.reset with cores := [(0, k)] }

/-- Core 0 runs with a word next. -/
def runs (w : W64) : Core := { Core.reset with ctx := .running, store := [(0, w)], len := 8, bankCount := 4 }

/-- A word: queue, opcode and the lower 54 bits. -/
def word (q op low : Nat) : W64 := BitVec.ofNat 64 (q * 2 ^ 61 + op * 2 ^ 54 + low)

/-- A sequencer instruction next. -/
def seq (op low : Nat) : State := withCore (runs (word 0 op low))

/-- Bytes with parts at rising offsets. -/
def bodyOf (l : List (Nat × Bytes)) : Bytes := l.foldl (fun a e => a ++ List.replicate (e.1 - a.length) 0 ++ e.2) []

end Sys2Proof.Tests

namespace Sys2Proof.Tests
open Sys2Proof Sys2Proof.Machine Sys2Proof.Claims
set_option Elab.async false

/-! ### The sequencer -/

/-- RegisterInstructions, ZeroRegister: every row that writes a register can be next, with a0 and with a31 as destination. -/
theorem test_writers_next : ∀ e ∈ writers 0, strayBits (word 0 e.2.1 0) e.2.2 = false ∧
    (seq e.2.1 0).fetch 0 = .word (word 0 e.2.1 0) ∧ wQueue (word 0 e.2.1 0) = 0 ∧ wOp (word 0 e.2.1 0) = e.2.1 ∧
    wA (word 0 e.2.1 0) = 0 := by
  decide
theorem test_zero_register : Next (seq 0x01 0) 0 (word 0 0x01 0) 0 0x01 maskA ∧ Sound (seq 0x01 0) 0 (word 0 0x01 0) 0x01 :=
  ⟨⟨rfl, rfl, rfl, rfl⟩, by decide, by decide, by decide⟩
theorem test_add_next : Next (seq 0x01 (31 * 2 ^ 49)) 0 (word 0 0x01 (31 * 2 ^ 49)) 0 0x01 maskA := ⟨rfl, rfl, rfl, rfl⟩
theorem test_shift_63 : Next (seq 0x14 (63 * 2 ^ 12)) 0 (word 0 0x14 (63 * 2 ^ 12)) 0 0x14 maskB ∧
    bitsOf (word 0 0x14 (63 * 2 ^ 12)).toNat 43 12 ≤ 63 := ⟨⟨rfl, rfl, rfl, rfl⟩, by decide⟩
theorem test_shift_64 : Next (seq 0x14 (64 * 2 ^ 12)) 0 (word 0 0x14 (64 * 2 ^ 12)) 0 0x14 maskB ∧
    63 < bitsOf (word 0 0x14 (64 * 2 ^ 12)).toNat 43 12 := ⟨⟨rfl, rfl, rfl, rfl⟩, by decide⟩
/-- ADD with wrap (R118): the result of the spec's sum. -/
theorem test_add_wraps : (match exec (.add 0) (withCore { runs (word 0 0x01 (3 * 2 ^ 49 + 1 * 2 ^ 44 + 2 * 2 ^ 39)) with
      aregs := [(1, 0xFFFFFFFFFFFFFFFF), (2, 2)] }) with
    | .next t => ((t.core 0).areg 3, (t.core 0).pc) | _ => (0, 0)) = (1, 1) := by decide

/-- ScratchpadAndSpecialRegisters: the last word of the allocation, one beyond, and a misaligned offset. -/
theorem test_ld_last : Next (seq 0x1A (0x1FFF8 * 2 ^ 12)) 0 (word 0 0x1A (0x1FFF8 * 2 ^ 12)) 0 0x1A maskB ∧
    (let off := (((seq 0x1A (0x1FFF8 * 2 ^ 12)).core 0).areg 0 + sext64 32 (bitsOf (word 0 0x1A (0x1FFF8 * 2 ^ 12)).toNat 43 12)).toNat
     off % 8 = 0 ∧ off + 8 = 4 * 0x8000) := ⟨⟨rfl, rfl, rfl, rfl⟩, by decide⟩
theorem test_ld_outside : Next (seq 0x1A (0x20000 * 2 ^ 12)) 0 (word 0 0x1A (0x20000 * 2 ^ 12)) 0 0x1A maskB ∧
    4 * 0x8000 < (((seq 0x1A (0x20000 * 2 ^ 12)).core 0).areg 0 + sext64 32 (bitsOf (word 0 0x1A (0x20000 * 2 ^ 12)).toNat 43 12)).toNat + 8 :=
  ⟨⟨rfl, rfl, rfl, rfl⟩, by decide⟩
theorem test_st_next : Next (seq 0x1B (8 * 2 ^ 12)) 0 (word 0 0x1B (8 * 2 ^ 12)) 0 0x1B maskB := ⟨rfl, rfl, rfl, rfl⟩
theorem test_st_misaligned : Next (seq 0x1B (4 * 2 ^ 12)) 0 (word 0 0x1B (4 * 2 ^ 12)) 0 0x1B maskB ∧
    (((seq 0x1B (4 * 2 ^ 12)).core 0).areg 0 + sext64 32 (bitsOf (word 0 0x1B (4 * 2 ^ 12)).toNat 43 12)).toNat % 8 ≠ 0 :=
  ⟨⟨rfl, rfl, rfl, rfl⟩, by decide⟩
theorem test_rdsr_11 : Next (seq 0x1C (11 * 2 ^ 12)) 0 (word 0 0x1C (11 * 2 ^ 12)) 0 0x1C (fieldMask 63 49 ||| fieldMask 43 12) ∧
    bitsOf (word 0 0x1C (11 * 2 ^ 12)).toNat 43 12 = 11 := ⟨⟨rfl, rfl, rfl, rfl⟩, by decide⟩
theorem test_rdsr_12 : Next (seq 0x1C (12 * 2 ^ 12)) 0 (word 0 0x1C (12 * 2 ^ 12)) 0 0x1C (fieldMask 63 49 ||| fieldMask 43 12) ∧
    11 < bitsOf (word 0 0x1C (12 * 2 ^ 12)).toNat 43 12 := ⟨⟨rfl, rfl, rfl, rfl⟩, by decide⟩
theorem test_rdsr_level : (({ runs 0 with loops := [⟨0, 3, 2, 5⟩] } : Core).loops.reverse)[6 - 6]? = some ⟨0, 3, 2, 5⟩ ∧
    ({ runs 0 with loops := [⟨0, 3, 2, 5⟩] } : Core).loops.length ≤ 7 - 6 := by decide

/-- BranchesAndJumps: targets 7 and 8 of an image of 8 words, equal registers and unequal ones. -/
theorem test_branch_7 : Next (seq 0x21 (7 * 2 ^ 31)) 0 (word 0 0x21 (7 * 2 ^ 31)) 0 0x21 (fieldMask 63 31) ∧
    bitsOf (word 0 0x21 (7 * 2 ^ 31)).toNat 43 31 < ((seq 0x21 (7 * 2 ^ 31)).core 0).len := ⟨⟨rfl, rfl, rfl, rfl⟩, by decide⟩
theorem test_branch_not_taken : Next (seq 0x22 (7 * 2 ^ 31)) 0 (word 0 0x22 (7 * 2 ^ 31)) 0 0x22 (fieldMask 63 31) ∧
    ¬ ((seq 0x22 (7 * 2 ^ 31)).core 0).areg 0 ≠ ((seq 0x22 (7 * 2 ^ 31)).core 0).areg 0 := ⟨⟨rfl, rfl, rfl, rfl⟩, by decide⟩
theorem test_jmp_8 : Next (seq 0x20 (8 * 2 ^ 31)) 0 (word 0 0x20 (8 * 2 ^ 31)) 0 0x20 (maskHead ||| fieldMask 43 31) ∧
    ((seq 0x20 (8 * 2 ^ 31)).core 0).len ≤ bitsOf (word 0 0x20 (8 * 2 ^ 31)).toNat 43 31 := ⟨⟨rfl, rfl, rfl, rfl⟩, by decide⟩
theorem test_jmpr_next : Next (seq 0x27 0) 0 (word 0 0x27 0) 0 0x27 (maskHead ||| fieldMask 53 49) ∧
    (((seq 0x27 0).core 0).areg 0).toNat < ((seq 0x27 0).core 0).len := ⟨⟨rfl, rfl, rfl, rfl⟩, by decide⟩

/-- LoopInstructions: a count of 1, of 0, of 2^32, a fourth and a fifth level, BREAK at its boundaries, and both back edges. -/
theorem test_loopi_1 : Next (seq 0x31 (3 * 2 ^ 31 + 1)) 0 (word 0 0x31 (3 * 2 ^ 31 + 1)) 0 0x31 (maskHead ||| fieldMask 43 0) ∧
    bitsOf (word 0 0x31 (3 * 2 ^ 31 + 1)).toNat 30 0 = 1 := ⟨⟨rfl, rfl, rfl, rfl⟩, by decide⟩
theorem test_loop_0 : Next (seq 0x30 (3 * 2 ^ 31)) 0 (word 0 0x30 (3 * 2 ^ 31)) 0 0x30
    (maskHead ||| fieldMask 53 49 ||| fieldMask 43 31) := ⟨rfl, rfl, rfl, rfl⟩
def looping : Core := { runs (word 0 0x30 (1 * 2 ^ 49 + 3 * 2 ^ 31)) with
  loops := [⟨0, 5, 2, 0⟩, ⟨0, 5, 2, 0⟩, ⟨0, 6, 2, 0⟩, ⟨0, 7, 2, 0⟩], aregs := [(1, 0x100000000)] }
theorem test_loop_fifth : (withCore looping).fetch 0 = .word (word 0 0x30 (1 * 2 ^ 49 + 3 * 2 ^ 31)) ∧
    4 ≤ ((withCore looping).core 0).loops.length ∧ 2 ^ 32 ≤ (((withCore looping).core 0).areg 1).toNat := by decide
theorem test_brk : Next (withCore { looping with store := [(0, word 0 0x32 3)] }) 0 (word 0 0x32 3) 0 0x32 (maskHead ||| fieldMask 1 0) ∧
    looping.loops[3]? = some ⟨0, 7, 2, 0⟩ ∧ looping.loops.drop 4 = [] := ⟨⟨rfl, rfl, rfl, rfl⟩, by decide⟩
theorem test_brk_none : Next (seq 0x32 0) 0 (word 0 0x32 0) 0 0x32 (maskHead ||| fieldMask 1 0) ∧
    ((seq 0x32 0).core 0).loops.length ≤ 0 := ⟨⟨rfl, rfl, rfl, rfl⟩, by decide⟩
theorem test_back_edge : ({ looping with pc := 5 } : Core).loops = ⟨0, 5, 2, 0⟩ :: looping.loops.drop 1 ∧
    (⟨0, 5, 2, 0⟩ : LoopLevel).stop = 5 ∧ 1 < (⟨0, 5, 2, 0⟩ : LoopLevel).remaining := by decide
theorem test_last_iteration : ({ runs 0 with pc := 5, loops := [⟨0, 5, 1, 4⟩] } : Core).loops = [⟨0, 5, 1, 4⟩] ∧
    (⟨0, 5, 1, 4⟩ : LoopLevel).remaining ≤ 1 := by decide

end Sys2Proof.Tests

namespace Sys2Proof.Tests
open Sys2Proof Sys2Proof.Machine Sys2Proof.Claims
set_option Elab.async false

/-! ### Start, clocks, life cycle -/

/-- The package before power with its package-wide state changed. -/
def withPkg (p : Pkg) : State := { State.reset with pkg := p }
/-- The package before power with one die changed. -/
def withDie (d : Nat) (k : Die) : State := { State.reset with dies := [(d, k)] }

/-- StopAndStart: each kind of start. -/
theorem test_power_on : State.reset.pkg.phase = .off ∧ State.reset.pkg.thermTrip = false := by decide
theorem test_power_on_held : (withPkg { Pkg.reset with phase := .held, life := .scrapped }).pkg.phase = .held ∧
    (withPkg { Pkg.reset with phase := .held, life := .scrapped }).pkg.life = .scrapped ∧
    (⟨false, 0, true, false, true, true⟩ : StartEnv).testEn = false := by decide
theorem test_power_on_no_reference : (⟨false, 0, false, false, true, true⟩ : StartEnv).ref0 = false ∧
    (⟨false, 0, false, false, true, true⟩ : StartEnv).ref1 = false ∧ State.reset.pkg.life ≠ .scrapped := by decide
theorem test_power_on_reference : ((⟨false, 0, false, true, true, true⟩ : StartEnv).ref0 ||
    (⟨false, 0, false, true, true, true⟩ : StartEnv).ref1) = true := by decide

/-- StartRows: the phases that each row waits for. -/
theorem test_start_row : (withPkg { Pkg.reset with phase := .quire }).pkg.phase = .quire := by decide
theorem test_start_row_stitch : (withPkg { Pkg.reset with phase := .firmware }).pkg.phase = .firmware := by decide
theorem test_start_row_hbm : (withPkg { Pkg.reset with phase := .stitched }).pkg.phase = .stitched := by decide
theorem test_start_row_self_test : (withPkg { Pkg.reset with phase := .hbm }).pkg.phase = .hbm := by decide
theorem test_start_row_ddr : (withPkg { Pkg.reset with phase := .selfTested }).pkg.phase = .selfTested := by decide
theorem test_start_row_ready : (withPkg { Pkg.reset with phase := .ddr }).pkg.phase = .ddr ∧
    ((withPkg { Pkg.reset with phase := .ddr }).die 4).isolated = false := by decide
theorem test_before_ready : State.reset.pkg.pkgReady = false := by decide
theorem test_reference_retry : (withPkg { Pkg.reset with phase := .noReference }).pkg.phase = .noReference := by decide

/-- ClocksAndTime: references and the root PLL. -/
theorem test_reference_lost : ((withDie 0 { Die.reset with refQual0 := true }).die 0).refQual 0 = true ∧
    ((withDie 0 { Die.reset with refQual0 := true }).die 0).refInUse = 0 ∧
    ((withDie 0 { Die.reset with refQual0 := true }).die 0).refQual 1 = false := by decide
theorem test_relock : ((withDie 0 { Die.reset with holdover := true, refQual1 := true }).die 0).holdover = true ∧
    ((withDie 0 { Die.reset with holdover := true, refQual1 := true }).die 0).refInUse < 2 := by decide
def revertive : Die := { Die.reset with active := [(2, bodyOf [(2, [1, 1])])], refQual1 := true }
theorem test_revert : clkRevertive revertive.active = true ∧ revertive.holdover = false ∧
    revertive.refQual (clkPrimary revertive.active) = true ∧ revertive.refInUse ≠ clkPrimary revertive.active := by decide
theorem test_pll_loss : ((withDie 3 { Die.reset with pllLock := true }).die 3).pllLock = true ∧
    ((withDie 3 { Die.reset with pllLock := true }).die 3).holdover = false := by decide
/-- ClocksAndTime: complexes and harts. -/
def complexState (x : Machine.Complex) : State := { State.reset with complexes := [(0, x)] }
theorem test_vfreq : ((complexState { Complex.reset with running := true }).complex ((35 : HartId).val / 36)).running = true ∧
    ((complexState { Complex.reset with running := true, ceiling := 1 }).complex 0).changing = none ∧
    max (clampStep (complexState { Complex.reset with running := true, ceiling := 1 }).sheets 0 0) 1 ≠
      ((complexState { Complex.reset with running := true, ceiling := 1 }).complex 0).step := by decide
theorem test_vfreq_changing : ((complexState { Complex.reset with running := true, changing := some 2 }).complex 0).changing =
    some 2 := by decide
theorem test_vfreq_vs : (Priv.vs ≠ .m ∧ Priv.vs ≠ .s) ∧ (Priv.u ≠ .m ∧ Priv.u ≠ .s) ∧ (Priv.vu ≠ .m ∧ Priv.vu ≠ .s) := by
  decide
theorem test_step_change : ((complexState { Complex.reset with changing := some 2, queued := some 2 }).complex 0).changing = some 2 ∧
    ((complexState { Complex.reset with changing := some 2, queued := some 2 }).complex 0).queued = some 2 := by decide
/-- ClocksAndTime: a die that keeps time with a peer, and one without a port. -/
def timeDie : Die := { Die.reset with keeperUp := true, inService := true, running := true, timePort := some 0 }
theorem test_time_request : (withDie 0 timeDie).keeperLive 0 = true ∧ ((withDie 0 timeDie).die 0).running = true ∧
    (withDie 0 timeDie).timePort 0 = none := by decide
def timeSheets : Sheets := [(5, bodyOf [(0x50, [1]), (0x68, [1])]), (7, bodyOf [(0x50, [1, 8, 1])])]
def nativePort : State :=
  { State.reset with
    pkg := { Pkg.reset with pkgReady := true, phase := .ready }
    dies := [(0, { timeDie with active := timeSheets }),
      (1, { timeDie with timePort := none, timebase := 40 }),
      (4, { Die.reset with keeperUp := true, inService := true, active := timeSheets })]
    ports := [(0, { Port.reset with st := .up, good := 0xFF, width := 8, peerStratum := 3 })] }
theorem test_time_port : nativePort.timePort 0 = some 0 ∧ nativePort.keeperLive 0 = true := by decide
theorem test_time_answer : nativePort.portNative 0 = true ∧ (nativePort.port 0).st.carries = true := by decide
/-- A peer's request, and its answer at stratum 14 and at stratum 15, each a frame of R369. -/
def timeRaw (kind stratum : Nat) : Bytes := frameStream (controlFrame kind 0 0 0 (timePayload 7 9 stratum))
theorem test_time_request_frame : (parseFrame (timeRaw 4 0)).map (fun f => f.kind) = some 4 := by decide +kernel
theorem test_time_response : (parseFrame (timeRaw 5 14)).map (fun f => (f.kind, field f.payload 16 1)) = some (5, 14) ∧
    (parseFrame (timeRaw 5 15)).map (fun f => field f.payload 16 1) = some 15 ∧
    (nativePort.die 0).timePort = some 0 ∧ clkSource (nativePort.sheetsOn 0) = false ∧ (nativePort.die 0).holdover = false := by
  decide +kernel
/-- A die without a native port that follows the same answer, and the die that has it, which does not. -/
theorem test_time_follows : nativePort.timePort 1 = none ∧ (nativePort.die 1).running = true ∧ (nativePort.die 1).holdover = false ∧
    (nativePort.timePort 0).isSome = true := by decide
theorem test_time_no_port : ∀ e < 4, (withDie 0 timeDie).timePort e = none := by decide

/-- LifeCycleAndTestPins. -/
theorem test_mgmt_start : State.reset.pkg.mgStartSeen = false ∧ State.reset.pkg.alertBits.length = 6 := by decide
theorem test_jtag_open : State.reset.pkg.life ≠ .deployed ∧ State.reset.pkg.life ≠ .scrapped := by decide
theorem test_jtag_deployed : (withPkg { Pkg.reset with life := .deployed }).pkg.life = .deployed ∧
    (withPkg { Pkg.reset with life := .scrapped }).pkg.life = .scrapped := by decide

end Sys2Proof.Tests

namespace Sys2Proof.Tests
open Sys2Proof Sys2Proof.Machine Sys2Proof.Claims
set_option Elab.async false

/-! ### The mailbox, the quire, turns -/

/-- A request in a mailbox buffer. -/
def asks (code : Nat) (args : Bytes) : NMap Byte :=
  bytesTable (leBytes 2 code ++ leBytes 2 1 ++ leBytes 4 args.length ++ List.replicate 8 0 ++ args)
/-- Basin 0 with a request in its mailbox. -/
def asking (st : BasinState) (code : Nat) (args : Bytes) : Basin := { Basin.reset with st := st, mboxReq := asks code args }
/-- Sheets in which basin 0 is enabled, owns cluster 0 and is an administrator with the management bus. -/
def sheets : Sheets :=
  [(5, bodyOf [(0x50, [1, 0, 0, 0]), (0x58, [1])]), (6, bodyOf [(0x10, [0, 1]), (0x14, [0, 0, 0, 0, 4])]), (16, bodyOf [(4, [1, 1])])]
def head : Die := { Die.reset with keeperUp := true, inService := true, active := sheets, shadow := sheets }
def dieState : Die := { Die.reset with keeperUp := true, inService := true, active := sheets, shadow := sheets }
/-- A package with those sheets, dies 0, 4 and 5 in service, and basin 0 as given. -/
def package (k : Basin) : State :=
  { State.reset with dies := [(0, dieState), (4, head), (5, dieState)], basins := [(0, k)] }
def rings (code : Nat) (args : Bytes) : State := package (asking .open code args)

/-- MailboxAcceptance: each check, at its boundary. -/
theorem test_mailbox_long : zeroAt ((package { asking .open 1 [] with mboxReq := bytesTable (leBytes 2 1 ++ [0, 0] ++ leBytes 4 4145) }).request 0 8 8) 0 8 = true ∧
    (package { asking .open 1 [] with mboxReq := bytesTable (leBytes 2 1 ++ [0, 0] ++ leBytes 4 4145) }).requestLength 0 = 4145 ∧
    (package { asking .open 1 [] with mboxReq := bytesTable (leBytes 2 1 ++ [0, 0] ++ leBytes 4 4145) }).requestCode 0 = 1 := by
  decide
theorem test_mailbox_admin : Rings (withPkg Pkg.reset) 0 0 [] ∧ (withPkg Pkg.reset).adminBasin 0 = false :=
  ⟨⟨rfl, rfl, rfl, by decide, rfl⟩, by decide⟩
theorem test_mailbox_not_open : Rings (package (asking .closed 0x10 [])) 0 0x10 [] ∧
    (package (asking .closed 0x10 [])).adminBasin 0 = true ∧ ((package (asking .closed 0x10 [])).basin 0).st ≠ .open :=
  ⟨⟨rfl, by decide, by decide, by decide, by decide⟩, by decide, by decide⟩
theorem test_mailbox_not_admin : Rings { package (asking .open 0x12 []) with dies := [] } 0 0x12 [] ∧
    ({ package (asking .open 0x12 []) with dies := [] } : State).adminBasin 0 = false :=
  ⟨⟨rfl, by decide, by decide, by decide, by decide⟩, by decide⟩
theorem test_mailbox_unknown : knownCommand ((rings 0x19 []).requestCode 0) = false ∧ knownCommand ((rings 0 []).requestCode 0) = false := by
  decide
theorem test_mailbox_overrun : ((package { asking .open 1 [] with mboxCmd := some ⟨1, 1, 0⟩ }).basin 0).mboxCmd = some ⟨1, 1, 0⟩ ∧
    ((package { asking .open 1 [] with mboxCmd := some ⟨1, 1, 0⟩ }).basin 0).mboxOverrun = false := by decide

/-- MailboxCommands. -/
theorem test_query : Rings (rings 1 []) 0 1 [] ∧ ((rings 1 []).basin 0).st = .open :=
  ⟨⟨rfl, by decide, by decide, by decide, by decide⟩, rfl⟩
theorem test_query_unavailable : Rings (package (asking .unavailable 1 [])) 0 1 [] ∧
    ((package (asking .unavailable 1 [])).basin 0).st = .unavailable := ⟨⟨rfl, by decide, by decide, by decide, by decide⟩, rfl⟩
theorem test_set_step : Rings (rings 2 (List.replicate 16 1)) 0 2 (List.replicate 16 1) :=
  ⟨rfl, by decide, by decide, by decide, by decide⟩
theorem test_root : Rings (rings 3 (leBytes 8 0x100000)) 0 3 (leBytes 8 0x100000) ∧
    field (leBytes 8 0x100000) 0 8 % 0x100000 = 0 ∧ inBasinRanges (rings 3 (leBytes 8 0x100000)).sheets 0 0x100000 = true :=
  ⟨⟨rfl, by decide, by decide, by decide, by decide⟩, by decide, by decide⟩
theorem test_root_outside : Rings (rings 3 (leBytes 8 0x100000000)) 0 3 (leBytes 8 0x100000000) ∧
    inBasinRanges (rings 3 (leBytes 8 0x100000000)).sheets 0 0x100000000 = false :=
  ⟨⟨rfl, by decide, by decide, by decide, by decide⟩, by decide⟩
theorem test_root_misaligned : Rings (rings 3 (leBytes 8 0x1000)) 0 3 (leBytes 8 0x1000) ∧
    field (leBytes 8 0x1000) 0 8 % 0x100000 ≠ 0 := ⟨⟨rfl, by decide, by decide, by decide, by decide⟩, by decide⟩
theorem test_flush : Rings (rings 4 []) 0 4 [] ∧ (rings 4 []).bargesInFlight 0 = false :=
  ⟨⟨rfl, by decide, by decide, by decide, by decide⟩, by decide⟩
/-- A running context with two semaphores on core 0. -/
def withTwo (s : State) : State := { s with cores := [(0, { runs 0 with semCount := 2, semMap := [0, 1], bankCount := 4 })] }
def signalArgs : Bytes := [0, 0, 1, 0, 0xFF, 0xFF]
theorem test_signal : Rings (withTwo (rings 5 signalArgs)) 0 5 signalArgs ∧
    bsnHasCluster (withTwo (rings 5 signalArgs)).sheets 0 0 = true ∧ (withTwo (rings 5 signalArgs)).clusterPresent 0 = true ∧
    ((withTwo (rings 5 signalArgs)).core 0).live = true ∧ ((withTwo (rings 5 signalArgs)).sem 0 1).toNat + 65535 = 65535 :=
  ⟨⟨rfl, by decide, by decide, by decide, by decide⟩, by decide, by decide, by decide, by decide⟩
theorem test_abort : Rings (withTwo (rings 6 [0, 0])) 0 6 [0, 0] ∧ ((withTwo (rings 6 [0, 0])).core 0).live = true :=
  ⟨⟨rfl, by decide, by decide, by decide, by decide⟩, by decide⟩
def ringArgs (r n : Nat) : Bytes := leBytes 4 r ++ leBytes 4 n ++ leBytes 8 0x1000 ++ leBytes 8 0x2000
theorem test_ring_setup : Rings (rings 7 (ringArgs 15 65536)) 0 7 (ringArgs 15 65536) ∧ ringCountOk 65536 = true ∧
    ((rings 7 (ringArgs 15 65536)).ring 0 15).taken = [] := ⟨⟨rfl, by decide, by decide, by decide, by decide⟩, by decide, by decide⟩
theorem test_ring_number : Rings (rings 7 (ringArgs 16 16)) 0 7 (ringArgs 16 16) ∧ 15 < field (ringArgs 16 16) 0 1 ∧
    ringCountOk 17 = false := ⟨⟨rfl, by decide, by decide, by decide, by decide⟩, by decide, by decide⟩
def aRef : RingRef := ⟨0, 0, 0, 0, 1, 0⟩
theorem test_ring_busy : ((package { asking .open 7 (ringArgs 0 16) with rings := [(0, { Ring.reset with taken := [aRef] })] }).ring 0 0).taken ≠ [] ∧
    Rings (package { asking .open 7 (ringArgs 0 16) with rings := [(0, { Ring.reset with taken := [aRef] })] }) 0 7 (ringArgs 0 16) :=
  ⟨by decide, rfl, by decide, by decide, by decide, by decide⟩
def flowSheet : Bytes := bodyOf [(0x750, [1, 0])]
def flowRings (a : Bytes) : State :=
  { rings 8 a with dies := [(4, { head with active := [(5, bodyOf [(0x50, [1])]), (7, flowSheet)] })] }
theorem test_flow_ring : Rings (flowRings (ringArgs 0 4096)) 0 8 (ringArgs 0 4096) ∧
    flowEnabled (flowRings (ringArgs 0 4096)).sheets 0 = true ∧ flowBasin (flowRings (ringArgs 0 4096)).sheets 0 = 0 :=
  ⟨⟨rfl, by decide, by decide, by decide, by decide⟩, by decide +kernel, by decide +kernel⟩

/-- ResetCommands: each scope. -/
theorem test_reset_context : Rings (withTwo (rings 9 [0, 0, 0, 0])) 0 9 [0, 0, 0, 0] ∧
    (withTwo (rings 9 [0, 0, 0, 0])).resetScope 0 = 0 ∧ ((withTwo (rings 9 [0, 0, 0, 0])).core 0).live = true :=
  ⟨⟨rfl, by decide, by decide, by decide, by decide⟩, by decide, by decide⟩
theorem test_reset_engine : Rings (rings 9 [1, 0, 0, 0]) 0 9 [1, 0, 0, 0] ∧ (rings 9 [1, 0, 0, 0]).resetScope 0 = 1 ∧
    bsnHasCluster (rings 9 [1, 0, 0, 0]).sheets 0 0 = true := ⟨⟨rfl, by decide, by decide, by decide, by decide⟩, by decide, by decide⟩
theorem test_reset_basin : Rings (rings 9 [2, 0, 0, 0]) 0 9 [2, 0, 0, 0] ∧ (rings 9 [2, 0, 0, 0]).resetScope 0 = 2 :=
  ⟨⟨rfl, by decide, by decide, by decide, by decide⟩, by decide⟩

/-- QuireCommands: staging in each shadow state. -/
def shadowed (sh : ShadowState) (s : State) : State := { s with pkg := { s.pkg with shadow := sh } }
theorem test_stage_begin : Rings (rings 0x10 []) 0 0x10 [] ∧ (rings 0x10 []).adminBasin 0 = true ∧
    (rings 0x10 []).pkg.turn = none ∧ (rings 0x10 []).pkg.life ≠ .returned ∧ (rings 0x10 []).pkg.activeSlot < 2 :=
  ⟨⟨rfl, by decide, by decide, by decide, by decide⟩, by decide, by decide, by decide, by decide⟩
theorem test_stage_returned : ({ Pkg.reset with life := .returned } : Pkg).life = .returned := rfl
theorem test_stage_busy : (shadowed .staging (rings 0x10 [])).pkg.shadow = .staging ∧
    (shadowed .staging (rings 0x10 [])).pkg.stager ≠ some (.basin 0) := by decide
def stageArgs : Bytes := leBytes 4 0x3FFFFFF ++ leBytes 4 1 ++ [0x5A]
theorem test_stage_data : Rings (shadowed .staging (rings 0x11 stageArgs)) 0 0x11 stageArgs ∧
    field stageArgs 0 4 + field stageArgs 4 4 = 0x4000000 ∧ stageArgs.length = 8 + field stageArgs 4 4 ∧
    (shadowed .staging (rings 0x11 stageArgs)).pkg.shadow = .staging :=
  ⟨⟨rfl, by decide, by decide, by decide, by decide⟩, by decide, by decide, by decide⟩
theorem test_stage_data_refused : Rings (rings 0x11 stageArgs) 0 0x11 stageArgs ∧ (rings 0x11 stageArgs).pkg.shadow ≠ .staging :=
  ⟨⟨rfl, by decide, by decide, by decide, by decide⟩, by decide⟩
theorem test_stage_end : Rings (shadowed .staging (rings 0x12 [])) 0 0x12 [] ∧ (rings 0x12 []).pkg.shadow ≠ .staging :=
  ⟨⟨rfl, by decide, by decide, by decide, by decide⟩, by decide⟩
theorem test_validate : Rings (shadowed .staged (rings 0x13 [])) 0 0x13 [] ∧ (shadowed .staged (rings 0x13 [])).pkg.shadow = .staged :=
  ⟨⟨rfl, by decide, by decide, by decide, by decide⟩, by decide⟩
theorem test_turn_at_reset : Rings (shadowed .valid (rings 0x15 [])) 0 0x15 [] ∧ (shadowed .valid (rings 0x15 [])).pkg.shadow = .valid ∧
    (shadowed .valid (rings 0x15 [])).pkg.selectorCopy < 2 ∧ (rings 0x15 []).pkg.shadow ≠ .valid :=
  ⟨⟨rfl, by decide, by decide, by decide, by decide⟩, by decide, by decide, by decide⟩
theorem test_quire_query : Rings (rings 0x16 []) 0 0x16 [] := ⟨rfl, by decide, by decide, by decide, by decide⟩

/-- TurnRequest: a turn that is accepted, and one refused. -/
def firmwareEntries (base : Nat) : List Host.Cell :=
  [(base + 0x138, 16), (base + 0x139, 0), (base + 0x13A, 0), (base + 0x13B, 0),
   (base + 0x148, 16), (base + 0x149, 0), (base + 0x14A, 0), (base + 0x14B, 0)]
def turnState (args : Bytes) : State :=
  { shadowed .valid (rings 0x14 args) with flash := firmwareEntries 0 ++ firmwareEntries 0x4000000 }
theorem test_turn : Rings (turnState [5, 0]) 0 0x14 [5, 0] ∧ (turnState [5, 0]).turnRefusal = none :=
  ⟨⟨rfl, by decide, by decide, by decide, by decide⟩, by decide +kernel⟩
theorem test_turn_refused : Rings (rings 0x14 [5, 0]) 0 0x14 [5, 0] ∧ (shadowed .staging (turnState [5, 0])).turnRefusal = some 7 ∧
    (shadowed .staging (turnState [5, 0])).pkg.life ≠ .returned := ⟨⟨rfl, by decide, by decide, by decide, by decide⟩, by decide, by decide⟩

/-- TurnDecision: votes, the boundary, acknowledgements. -/
def aTurn : Turn :=
  { caller := .mgmt, requested := 0, waitMs := 0, started := 0, boundary := 200, seq := 0, changed := [16], votes := [], received := [],
    decision := none, standby := none, told := [], holds := [], swapped := false, acks := [], settled := false, writing := false, code := 0, die := 0,
    sheet := 0 }
def turning (l : Nat) (x : Turn) : State := { package Basin.reset with lockCycle := l, pkg := { Pkg.reset with shadow := .turning, turn := some x } }
theorem test_vote : (turning 0 aTurn).keeperLive 0 = true ∧ nget (fun _ => none) aTurn.votes 0 = none ∧
    ((turning 0 aTurn).die 0).shadowSeq = aTurn.seq ∧ (turning 0 aTurn).atGate 0 16 = true ∧
    (turning 0 aTurn).recoveryUses [16] = false := by decide
theorem test_vote_sequence : ((turning 0 { aTurn with seq := 1 }).die 0).shadowSeq ≠ ({ aTurn with seq := 1 } : Turn).seq := by decide
/-- Recovery cannot change while one runs: the gate of sheet 11 is closed. -/
def aRecovery : Recovery := ⟨0, 0, 1, 0, ⟨0x0601, 0, 0xFF, 0, 0, 0⟩, .fenced, 1, 0, 0, false⟩
theorem test_gate_closed : ({ turning 0 aTurn with pkg := { Pkg.reset with recoveries := [aRecovery] } } : State).atGate 0 11 = false := by
  decide
theorem test_vote_no : nget (fun _ => none) ([(0, some ⟨false, 6, 0⟩)] : NMap (Option Vote)) 0 = some (⟨false, 6, 0⟩ : Vote) ∧
    (⟨false, 6, 0⟩ : Vote).code ≠ 3 := by decide
def fiveYes : NMap (Option Vote) := [0, 1, 2, 3, 4].map (fun n => (n, some ⟨true, 0, 0⟩))
theorem test_vote_sixth : (ninsert fiveYes 5 (some ⟨true, 0, 0⟩)).length = 6 ∧ nget (fun _ => none) fiveYes 5 = none ∧
    (ninsert ([] : NMap (Option Vote)) 5 (some ⟨true, 0, 0⟩)).length ≠ 6 := by decide
theorem test_vote_deadline : (turning 100 aTurn).pkg.turn = some aTurn ∧ aTurn.started + 100 ≤ (turning 100 aTurn).lockCycle := by decide
/-- A keeper told after the boundary, of a turn that changes the trust sheet alone. -/
theorem test_decision_late : ({ aTurn with decision := some true, swapped := true } : Turn).swapped = true ∧
    PlainTurn { turning 200 aTurn with basins := [] } { aTurn with swapped := true } :=
  ⟨rfl, by decide, by decide, fun _ => by show Basin.reset.st ≠ .unavailable; decide⟩
theorem test_decision_commit : (turning 0 { aTurn with decision := some true }).pkg.turn = some { aTurn with decision := some true } ∧
    aTurn.told.contains 0 = false ∧ aTurn.swapped = false := by decide
theorem test_decision_abort : (0 : DieId).val ∈ ({ aTurn with decision := some false, holds := [0] } : Turn).holds := by decide
theorem test_swap : aTurn.boundary ≤ (turning 200 aTurn).lockCycle ∧ aTurn.changed = [16] ∧ aTurn.told.Nodup ∧
    Swaps (turning 200 aTurn) { aTurn with told := [0] } 0 ∧ ¬ Swaps (turning 200 aTurn) aTurn 0 := by
  unfold Swaps; decide
theorem test_ack : ({ aTurn with swapped := true, told := [0, 1] } : Turn).told.contains 1 = true ∧ aTurn.acks.contains 1 = false := by decide
theorem test_selector_written : ({ aTurn with writing := true } : Turn).writing = true ∧ aTurn.caller = .mgmt := by decide
theorem test_turn_retry : ({ aTurn with decision := some false, waitMs := 5 } : Turn).started + 1000 ≤ (turning 1000 aTurn).lockCycle ∧
    (turning 1000 aTurn).lockCycle < ({ aTurn with waitMs := 5 } : Turn).requested + 1000 * 5 := by decide
theorem test_query_timeout : (0 : DieId).val ∈ ({ aTurn with holds := [0] } : Turn).holds ∧
    aTurn.boundary + 1000 ≤ (turning 1200 aTurn).lockCycle ∧ aTurn.told.contains 0 = false := by decide

/-- ManagementUpdate: each phase and each shadow state. -/
def managed (p : StartPhase) (sh : ShadowState) : State :=
  { package Basin.reset with pkg := { Pkg.reset with phase := p, shadow := sh, pldmUpdate := true, stager := some .mgmt } }
theorem test_update_allowed : (managed .ready .empty).adminMgmt = true ∧ (managed .ready .empty).stageRefusal .mgmt = none ∧
    (withPkg { Pkg.reset with phase := .ready }).adminMgmt = false := by decide
theorem test_update_no_slot : (managed .noSlot .valid).pkg.phase = .noSlot ∧ (managed .noSlot .valid).pkg.shadow = .valid := by decide
theorem test_update_data : (managed .ready .staging).pkg.shadow = .staging ∧ (0x3FFFFFF : W32).toNat + [(0 : Byte)].length ≤ 0x4000000 := by
  decide
theorem test_update_activate : (shadowed .valid (turnState [])).turnRefusal = none ∧ (managed .ready .valid).pkg.shadow = .valid := by
  decide +kernel

/-- Keepers. -/
theorem test_keeper_live : (package Basin.reset).keeperLive 0 = true := by decide
theorem test_heartbeat : (package Basin.reset).pkg.standby = some 5 ∧ (package Basin.reset).keeperLive (package Basin.reset).pkg.head = true ∧
    (package Basin.reset).keeperLive 5 = true := by decide

/-- LifeCycleAndTestPins: to SCRAPPED, and a step that is refused. -/
theorem test_life_scrap : Rings (rings 0x17 [4, 0, 0, 0]) 0 0x17 [4, 0, 0, 0] ∧ lifeArgs [4, 0, 0, 0] = true ∧
    (rings 0x17 [4, 0, 0, 0]).pkg.life ≠ .scrapped := ⟨⟨rfl, by decide, by decide, by decide, by decide⟩, by decide, by decide⟩
theorem test_life_refused : Rings (rings 0x17 [2, 0, 0, 0]) 0 0x17 [2, 0, 0, 0] ∧ lifeArgs [2, 0, 0, 0] = true ∧
    field [2, 0, 0, 0] 0 1 ≠ (rings 0x17 [2, 0, 0, 0]).pkg.life.index + 1 :=
  ⟨⟨rfl, by decide, by decide, by decide, by decide⟩, by decide, by decide⟩

/-- WipesAndOpening: a marked block, an opening with every resource and one with an absent die. -/
theorem test_ddr_marked : ∃ r ∈ [((0x200000, 2) : Nat × Nat)], r.1 ≤ 0x200001 ∧ 0x200001 < r.1 + r.2 := by decide
theorem test_opening : ((package { Basin.reset with st := .opening }).basin 0).st = .opening ∧
    (package { Basin.reset with st := .opening }).resourceAbsent 0 = false := by decide
theorem test_opening_absent :
    ({ package { Basin.reset with st := .opening } with dies := [(4, head)] } : State).resourceAbsent 0 = true := by decide

end Sys2Proof.Tests

namespace Sys2Proof.Tests
open Sys2Proof Sys2Proof.Machine Sys2Proof.Claims
set_option Elab.async false

/-! ### Contexts, dispatch, engines -/

/-- SequencerDecode: a sequencer that stands still, one past its image, a stray bit, and undefined opcodes. -/
theorem test_held : (withCore { runs 0 with seqWait := .barrier }).fetch 0 = .held := by decide
theorem test_past : (withCore { runs 0 with pc := 8 }).fetch 0 = .past := by decide
theorem test_stray : (seq 0x00 1).fetch 0 = .word (word 0 0x00 1) ∧ strayBits (word 0 0x00 1) maskHead = true := by decide
theorem test_queue_5 : (withCore (runs (word 5 0 0))).fetch 0 = .word (word 5 0 0) ∧ 5 ≤ wQueue (word 5 0 0) := by decide
theorem test_opcode_0f : (∀ e ∈ seqTable 0, e.2.1 ≠ wOp (word 0 0x0F 0)) ∧ wQueue (word 0 0x0F 0) = 0 := by decide
theorem test_opcode_press : ¬ (1 ≤ wOp (word 1 6 0) ∧ wOp (word 1 6 0) ≤ 5) ∧ ¬ (1 ≤ wOp (word 1 0 0) ∧ wOp (word 1 0 0) ≤ 5) := by decide
theorem test_opcode_barge : wQueue (word 3 3 0) = 3 ∧ wOp (word 3 3 0) ≠ 1 ∧ wOp (word 3 3 0) ≠ 2 := by decide
theorem test_opcode_fly : (runs (word 2 0x20 0)).flightMode = false ∧ wOp (word 2 0x20 0) = 0x20 := by decide

/-- BarriersAndMarks: hold masks of zero and not, queues behind and not, marks with and without a wait set, in a region. -/
theorem test_nop : Next (seq 0x00 0) 0 (word 0 0x00 0) 0 0x00 maskHead := ⟨rfl, rfl, rfl, rfl⟩
theorem test_qbar : Next (seq 0x38 (1 * 2 ^ 50 + 1 * 2 ^ 45)) 0 (word 0 0x38 (1 * 2 ^ 50 + 1 * 2 ^ 45)) 0 0x38 (fieldMask 63 45) ∧
    bitsOf (word 0 0x38 (1 * 2 ^ 50 + 1 * 2 ^ 45)).toNat 49 45 ≠ 0 ∧
    ({ runs 0 with dispatched := ⟨1, 0, 0, 0⟩ } : Core).completed.get .press < ({ runs 0 with dispatched := ⟨1, 0, 0, 0⟩ } : Core).dispatched.get .press :=
  ⟨⟨rfl, rfl, rfl, rfl⟩, by decide, by decide⟩
theorem test_qbar_hold_zero : Next (seq 0x38 0) 0 (word 0 0x38 0) 0 0x38 (fieldMask 63 45) ∧ bitsOf (word 0 0x38 0).toNat 49 45 = 0 :=
  ⟨⟨rfl, rfl, rfl, rfl⟩, by decide⟩
theorem test_phase : Next (seq 0x39 (1 * 2 ^ 50 + 3)) 0 (word 0 0x39 (1 * 2 ^ 50 + 3)) 0 0x39 (maskHead ||| fieldMask 53 50 ||| fieldMask 15 0) ∧
    bitsOf (word 0 0x39 (1 * 2 ^ 50 + 3)).toNat 53 50 ≠ 0 := ⟨⟨rfl, rfl, rfl, rfl⟩, by decide⟩
theorem test_phase_at_once : Next (seq 0x39 3) 0 (word 0 0x39 3) 0 0x39 (maskHead ||| fieldMask 53 50 ||| fieldMask 15 0) ∧
    (runs 0).marks = [] ∧ (runs 0).region = none := ⟨⟨rfl, rfl, rfl, rfl⟩, by decide, by decide⟩
def aRegion : Region := ⟨0, 4, 0, 0, ⟨0, 0, 0, 0⟩, false, false, none, []⟩
/-- A core in a retry region with a word next. -/
def inRegion (w : W64) : State := withCore { runs w with region := some aRegion }
theorem test_phase_in_region : Next (inRegion (word 0 0x39 3)) 0 (word 0 0x39 3) 0 0x39 (maskHead ||| fieldMask 53 50 ||| fieldMask 15 0) ∧
    ((inRegion (word 0 0x39 3)).core 0).region ≠ none := ⟨⟨rfl, rfl, rfl, rfl⟩, by decide⟩
def aMark : Mark := ⟨3, 1, ⟨0, 0, 0, 0⟩, 0, none⟩
theorem test_mark_taken : (withCore { runs 0 with marks := [aMark] } |>.core 0).marks = [aMark] ∧
    (withCore { runs 0 with marks := [aMark] } |>.core 0).live = true ∧
    (withCore { runs 0 with marks := [aMark] } |>.core 0).waitMet aMark.wait aMark.counts = true := by decide

/-- Retries: a legal region, one that nests, one that ends at its own index. -/
theorem test_rtry : Next (seq 0x3A (1 * 2 ^ 31)) 0 (word 0 0x3A (1 * 2 ^ 31)) 0 0x3A (maskHead ||| fieldMask 43 31 ||| fieldMask 1 0) ∧
    (0 < bitsOf (word 0 0x3A (1 * 2 ^ 31)).toNat 43 31 ∧ bitsOf (word 0 0x3A (1 * 2 ^ 31)).toNat 43 31 < 8) :=
  ⟨⟨rfl, rfl, rfl, rfl⟩, by decide⟩
theorem test_rtry_here : Next (seq 0x3A 0) 0 (word 0 0x3A 0) 0 0x3A (maskHead ||| fieldMask 43 31 ||| fieldMask 1 0) ∧
    bitsOf (word 0 0x3A 0).toNat 43 31 ≤ ((seq 0x3A 0).core 0).pc := ⟨⟨rfl, rfl, rfl, rfl⟩, by decide⟩
theorem test_rtry_nested : Next (inRegion (word 0 0x3A (2 * 2 ^ 31))) 0 (word 0 0x3A (2 * 2 ^ 31)) 0 0x3A
    (maskHead ||| fieldMask 43 31 ||| fieldMask 1 0) := ⟨rfl, rfl, rfl, rfl⟩
def overflowed : Region := { aRegion with overflow := some ⟨2, 5, 1⟩ }
theorem test_overflow : (withCore { runs 0 with region := some overflowed } |>.core 0).region = some overflowed ∧
    overflowed.stopped = false ∧ overflowed.overflow = some ⟨2, 5, 1⟩ := by decide
theorem test_restart : ({ overflowed with stopped := true } : Region).stopped = true ∧
    engines.all (fun e => (runs 0).completed.get e == (runs 0).dispatched.get e) = true := by decide

/-- DrawsAndContextEnds: a covered draw, one that waits, one in a region; HALT; drained and faulted contexts. -/
def drawing (n un : Nat) : State :=
  { withCore (runs (word 0 0x3B (n * 2 ^ 12))) with
    dies := [(0, { Die.reset with active := [(3, bodyOf [(0x50, [0xA0, 0x0F])])] })], clusters := [(0, { Cluster.reset with unreserved := un, granted := true })] }
theorem test_draw : Next (drawing 1 16) 0 (word 0 0x3B (1 * 2 ^ 12)) 0 0x3B (maskHead ||| fieldMask 43 12) ∧
    min 1 ((drawing 1 16).refill 0 / 128) * 16 ≤ ((drawing 1 16).cluster 0).unreserved + ((drawing 1 16).core 0).reservation :=
  ⟨⟨rfl, rfl, rfl, rfl⟩, by decide⟩
theorem test_draw_waits : Next (drawing 1 0) 0 (word 0 0x3B (1 * 2 ^ 12)) 0 0x3B (maskHead ||| fieldMask 43 12) ∧
    ((drawing 1 0).cluster 0).unreserved + ((drawing 1 0).core 0).reservation < min 1 ((drawing 1 0).refill 0 / 128) * 16 :=
  ⟨⟨rfl, rfl, rfl, rfl⟩, by decide⟩
theorem test_draw_in_region : Next (inRegion (word 0 0x3B 0)) 0 (word 0 0x3B 0) 0 0x3B (maskHead ||| fieldMask 43 12) := ⟨rfl, rfl, rfl, rfl⟩
theorem test_halt : Next (seq 0x3F (65535 * 2 ^ 12)) 0 (word 0 0x3F (65535 * 2 ^ 12)) 0 0x3F (maskHead ||| fieldMask 43 12) ∧
    bitsOf (word 0 0x3F (65535 * 2 ^ 12)).toNat 43 12 ≤ 65535 := ⟨⟨rfl, rfl, rfl, rfl⟩, by decide⟩
theorem test_halt_65536 : Next (seq 0x3F (65536 * 2 ^ 12)) 0 (word 0 0x3F (65536 * 2 ^ 12)) 0 0x3F (maskHead ||| fieldMask 43 12) ∧
    65535 < bitsOf (word 0 0x3F (65536 * 2 ^ 12)).toNat 43 12 := ⟨⟨rfl, rfl, rfl, rfl⟩, by decide⟩
theorem test_halt_in_region : Next (inRegion (word 0 0x3F 0)) 0 (word 0 0x3F 0) 0 0x3F (maskHead ||| fieldMask 43 12) := ⟨rfl, rfl, rfl, rfl⟩
theorem test_drained : (withCore { runs 0 with ctx := .draining } |>.core 0).drained = true ∧
    (withCore { runs 0 with ctx := .draining } |>.core 0).marks = [] ∧ (runs 0).started = none := by decide
theorem test_faulted : (withCore { runs 0 with ctx := .faulted } |>.core 0).flight.barge = [] ∧
    (withCore { runs 0 with ctx := .faulted } |>.cluster 0).fenced = false ∧
    ((withCore { runs 0 with ctx := .faulted }).basin (runs 0).basin).mboxCmd = none := by decide

/-- EngineDispatch: each engine's instruction with room, a failed check, and a full queue. -/
theorem test_dispatch_mma : (withCore (runs (word 1 1 0))).fetch 0 = .word (word 1 1 0) ∧ wQueue (word 1 1 0) = engineQueue .press ∧
    checkMma (runs 0) (word 1 1 0) = none := by decide
theorem test_dispatch_vld : checkVld (runs 0) (word 2 3 0) = none ∧ checkVld (runs 0) (word 2 3 (64 * 2 ^ 12)) = some 0x05 ∧
    wQueue (word 2 3 0) = engineQueue .vector := by decide
theorem test_dispatch_brg : checkBrg (runs 0) (word 3 1 0) = none ∧ checkBrg (runs 0) (word 3 1 1) = some 0x03 ∧
    wQueue (word 3 1 0) = engineQueue .barge := by decide
theorem test_dispatch_ssig : bitsOf (word 4 2 (1 * 2 ^ 30)).toNat 45 30 ≠ 0 ∧ strayBits (word 4 2 (1 * 2 ^ 30)) (fieldMask 63 30) = false ∧
    wQueue (word 4 2 0) = engineQueue .sync := by decide
def qInstr (w : W64) (regs : List W64) : QInstr := ⟨w, regs, 0, none, 0, none⟩
theorem test_dispatch_full : 16 ≤ (({ runs (word 1 4 0) with queue := ⟨List.replicate 16 (qInstr (word 1 4 0) []), [], [], []⟩ } : Core).queue.get .press).length := by
  decide

/-- TallyZero: a mask with a reserved bit, one without, and the instruction oldest in its engine. -/
theorem test_tzero_reserved : (withCore (runs (word 1 4 (2 ^ 38 + 1)))).fetch 0 = .word (word 1 4 (2 ^ 38 + 1)) ∧ wQueue (word 1 4 (2 ^ 38 + 1)) = 1 ∧
    wOp (word 1 4 (2 ^ 38 + 1)) = 4 ∧ bitsOf (word 1 4 (2 ^ 38 + 1)).toNat 37 0 ≠ 0 := by decide
theorem test_tzero_mask : (withCore (runs (word 1 4 (2 ^ 53)))).fetch 0 = .word (word 1 4 (2 ^ 53)) ∧
    bitsOf (word 1 4 (2 ^ 53)).toNat 37 0 = 0 ∧ bitOf (word 1 4 (2 ^ 53)).toNat (38 + 15) = true := by decide
/-- An instruction in flight, its charges paid. -/
def flying (w : W64) (regs : List W64) : InFlight :=
  { q := qInstr w regs, step := 0, seed := 0, scale := 0, gaugeEmpty := true, charges := [], paid := 0, waitSince := none, desc := none,
    stage := 0, data := [] }
def pressing (w : W64) (regs : List W64) : State := withCore { runs 0 with flight := ⟨[flying w regs], [], [], []⟩ }
def vectoring (w : W64) (regs : List W64) : State := withCore { runs 0 with flight := ⟨[], [flying w regs], [], []⟩ }
theorem test_tzero_oldest : Oldest (pressing (word 1 4 0) []) (pressing (word 1 4 0) []) 0 .press (flying (word 1 4 0) []) [] ∧
    wOp (flying (word 1 4 0) []).q.word = 4 ∧ bitsOf (flying (word 1 4 0) []).q.word.toNat 53 38 = 0 :=
  ⟨⟨rfl, rfl, by decide, by decide, rfl⟩, by decide, by decide⟩
/-- TZERO zeroes t0 and leaves t1 (R202). -/
theorem test_tzero_effect : (match exec (.instructionComplete 0 .press) (withCore { runs 0 with
      flight := ⟨[flying (word 1 4 (2 ^ 38)) []], [], [], []⟩, tiles := [(5, 7), (1029, 9)] }) with
    | .next t => ((t.core 0).tile 0 5, (t.core 0).tile 1 5) | _ => (1, 1)) = (0, 9) := by decide +kernel

/-- PressEffects: an MMA of group F32 with K zero, and a TOUT of FP32. -/
theorem test_mma_oldest : Oldest (pressing (word 1 1 0) [0, 0, 0, 0]) (pressing (word 1 1 0) [0, 0, 0, 0]) 0 .press (flying (word 1 1 0) [0, 0, 0, 0]) [] ∧
    (pressGroup (resolveFormat (mmaFmtA (word 1 1 0)) none) (resolveFormat (mmaFmtB (word 1 1 0)) none)).isSome = true ∧
    ((flying (word 1 1 0) [0, 0, 0, 0]).q.reg 2).toNat = 0 := ⟨⟨rfl, rfl, by decide, by decide, rfl⟩, by decide, by decide⟩
/-- An MMA of one block that has still its 32 beats to pay, and the machine once they are charged. -/
def owing : State :=
  { withCore { runs 0 with flight := ⟨[{ flying (word 1 1 0) [0, 0, 32, 0] with charges := [⟨32, 9, 1, false⟩] }], [], [], []⟩ } with
    clusters := [(0, { Cluster.reset with unreserved := 288 })] }
theorem test_mma_charged : Oldest owing (owing.catchUp 0 .press) 0 .press { flying (word 1 1 0) [0, 0, 32, 0] with paid := 32 } [] ∧
    ((owing.catchUp 0 .press).cluster 0).unreserved = 0 := ⟨⟨rfl, by decide +kernel, by decide, by decide, rfl⟩, by decide +kernel⟩
theorem test_tout_oldest : toutFmt (word 1 2 0) = 0 ∧ toutInt (word 1 2 0) = false ∧ toutGauge (word 1 2 0) = none := by decide
/-- VectorEffects: one of each move and lane function. -/
theorem test_vector_oldest : Oldest (vectoring (word 2 2 0) [0]) (vectoring (word 2 2 0) [0]) 0 .vector (flying (word 2 2 0) [0]) [] ∧ wOp (word 2 2 0) = 2 ∧
    wOp (word 2 3 0) = 3 ∧ wOp (word 2 4 0) = 4 ∧ wOp (word 2 5 0) = 5 := ⟨⟨rfl, rfl, by decide, by decide, rfl⟩, by decide, by decide, by decide, by decide⟩
theorem test_lane_add : bitsOf (word 2 1 (3 * 2 ^ 30 + 0x20 * 2 ^ 24)).toNat 33 30 = 3 ∧ bitsOf (word 2 1 (3 * 2 ^ 30 + 0x20 * 2 ^ 24)).toNat 29 24 = 0x20 ∧
    bitOf (word 2 1 (3 * 2 ^ 30 + 0x20 * 2 ^ 24)).toNat 22 = false ∧ bitsOf (word 2 1 (8 * 2 ^ 30 + 0x30 * 2 ^ 24)).toNat 33 30 = 8 := by decide

/-- EngineIssue: a head that may issue, one behind two press instructions that have charges left, covered and not. -/
def issuing (fl : List InFlight) (un : Nat) : State :=
  { withCore { runs 0 with queue := ⟨[qInstr (word 1 1 0) [0, 0, 32, 0]], [], [], []⟩, flight := ⟨fl, [], [], []⟩ } with
    clusters := [(0, { Cluster.reset with unreserved := un })] }
def unpaidMma : InFlight := { flying (word 1 1 0) [0, 0, 32, 0] with charges := [⟨32, 9, 1, false⟩] }
theorem test_issue : (issuing [] 0).mayIssue 0 .press (qInstr (word 1 1 0) [0, 0, 32, 0]) = true ∧
    (((issuing [] 0).core 0).unpaid .press).length < runsAtOnce .press ∧ convOf .press (word 1 1 0) [] = none := by decide
theorem test_issue_waits : runsAtOnce .press ≤ (((issuing [unpaidMma, unpaidMma] 8).core 0).unpaid .press).length ∧
    ((issuing [unpaidMma, unpaidMma] 8).core 0).waitsAt .press = false ∧
    ((issuing [unpaidMma, unpaidMma] 8).core 0).reservation + ((issuing [unpaidMma, unpaidMma] 8).cluster 0).unreserved < 9 := by
  decide
theorem test_issue_waiting : ((issuing [{ unpaidMma with waitSince := some 0 }, unpaidMma] 8).core 0).waitsAt .press = true := by
  decide
theorem test_issue_vector : vectorWaits [] (qInstr (word 2 2 0) [0]) [] = false ∧
    vectorWaits [flying (word 2 2 0) [0]] (qInstr (word 2 3 0) [0]) [] = true := by decide +kernel

/-- EngineDispatch: for each row a word and a core whose registers are as its rules ask. -/
def ready : Core := { runs 0 with aregs := [(1, 32), (2, 0x20000001), (3, 0x100010001), (4, 1)] }
theorem test_legal_mma : MmaLegal ready (word 1 1 (1 * 2 ^ 35)) :=
  ⟨fun h => absurd h (by decide), fun h => absurd h (by decide), by unfold Clean; decide, by decide, by decide, by decide,
   by unfold CoordinateOk; decide, by unfold InAlloc; decide, fun _ => by unfold InAlloc; decide, fun h => absurd h (by decide)⟩
theorem test_legal_tout : ToutLegal ready (word 1 2 0) ∧ ToutLegal ready (word 1 2 (1 * 2 ^ 27 + 3 * 2 ^ 36)) := by
  unfold ToutLegal LadderOk Clean CoordinateOk InAlloc; decide
theorem test_legal_tin : TinLegal ready (word 1 3 0) ∧ TinLegal ready (word 1 3 (0xC * 2 ^ 36)) := by
  unfold TinLegal Clean InAlloc; decide
theorem test_legal_pwin : PwinLegal { ready with aregs := [(1, 0x2000010001), (2, 0x100000000)] } (word 1 5 (1 * 2 ^ 49 + 2 * 2 ^ 44)) := by
  unfold PwinLegal Clean; decide
theorem test_legal_vop : VopLegal ready (word 2 1 (3 * 2 ^ 30 + 0x20 * 2 ^ 24)) ∧
    VopLegal ready (word 2 1 (8 * 2 ^ 30 + 0x33 * 2 ^ 24)) ∧ VopLegal ready (word 2 1 (7 * 2 ^ 34 + 1 * 2 ^ 30 + 0x0C * 2 ^ 24)) := by
  unfold VopLegal LaneFunction Clean CoordinateOk; dsimp only; and_intros <;> decide
theorem test_legal_vld : VldLegal ready (word 2 2 (0x1FF80 * 2 ^ 12)) ∧ VgetLegal ready (word 2 4 0) := by
  unfold VldLegal VgetLegal Clean InAlloc; decide
theorem test_legal_tred : TredLegal ready (word 2 0x11 0) ∧ TredLegal ready (word 2 0x11 (5 * 2 ^ 37)) ∧ RmrgLegal ready (word 2 0x12 0) := by
  unfold TredLegal RmrgLegal Clean InAlloc; decide
theorem test_legal_scvt : ScvtLegal ready (word 2 0x13 (1 * 2 ^ 39)) := by
  unfold ScvtLegal LadderOk Clean CountOk CoordinateOk InAlloc; decide
theorem test_legal_radd : RaddLegal ready (word 2 0x14 (1 * 2 ^ 34)) := by
  unfold RaddLegal Clean CountOk InAlloc; decide
theorem test_legal_smax : SmaxLegal ready (word 2 0x15 (1 * 2 ^ 39 + 4 * 2 ^ 34)) := by
  unfold SmaxLegal Clean CoordinateOk InAlloc; decide
theorem test_legal_fly : FlyLegal { ready with flightMode := true } (word 2 0x20 (1 * 2 ^ 29)) := by
  unfold FlyLegal Clean CountOk CoordinateOk InAlloc; decide
theorem test_legal_barges : BrgLegal ready (word 3 1 0) ∧ BlinLegal ready (word 3 2 (1 * 2 ^ 37 + 1 * 2 ^ 35 + 1 * 2 ^ 39)) ∧
    SyncLegal (fieldMask 63 30) (fun _ w => bitsOf w.toNat 45 30 ≠ 0) ready (word 4 2 (1 * 2 ^ 30)) := by
  unfold BrgLegal BlinLegal SyncLegal Clean InAlloc; decide

/-! ### Rings and context starts -/

/-- Cells from an address on. -/
def cells (a : Nat) (bs : Bytes) : List Host.Cell := bs.zipIdx.map (fun e => (a + e.2, e.1))
/-- A work-ring entry (R418). -/
def entry (ty fl target addr : Nat) : Bytes :=
  [BitVec.ofNat 8 ty, BitVec.ofNat 8 fl] ++ leBytes 2 target ++ leBytes 4 7 ++ leBytes 8 addr ++ List.replicate 48 0
/-- Ring 0 of basin 0 with one entry, in the pool window of cluster 0. -/
def ringed (e : Bytes) (more : List Host.Cell) : State :=
  { package { Basin.reset with st := .open, rings := [(0, { Ring.reset with count := 16, work := 0x800000000000, completion := 0x800000001000, prod := 1 })] } with
    mem := cells windowBase e ++ more, clusters := [(0, { Cluster.reset with granted := true })] }
/-- A context descriptor (R109): version 1, loads, core, length 4, 1 bank. -/
def ctxDesc (core version : Nat) : Bytes :=
  leBytes 2 version ++ leBytes 2 1 ++ leBytes 2 core ++ leBytes 2 9 ++ leBytes 8 0x800000003000 ++ leBytes 2 4 ++ leBytes 2 0 ++ [0, 1] ++
    leBytes 2 2 ++ List.replicate 40 0
def startSheets (quota : Nat) : Sheets := [(5, bodyOf [(0x50, [1]), (0x58, [1]), (0x78, leBytes 4 quota)])]
def starting (core version quota : Nat) : State :=
  { ringed (entry 1 0 core 0x800000002000) (cells (windowBase + 0x2000) (ctxDesc core version)) with
    dies := [(0, { dieState with active := startSheets quota }), (4, { head with active := startSheets quota })] }
/-- What a start by a legal descriptor of core 0 asks. -/
theorem test_start_legal : StartLegal (starting 0 1 2) 0 0 (CtxDesc.ofBytes (ctxDesc 0 1)) := by
  unfold StartLegal; decide +kernel
/-- ContextStarts: an entry that starts, one with a bad version, one for a cluster the basin does not own, one that cannot be read. -/
theorem test_start : (match (starting 0 1 2).nextOf 0 0 1 with
    | some (_, e, t) => (match t.readVia (some 0) 0 (entryAddr e) 64 with
      | .ok bs => t.startRefusal 0 (entryTarget e) (CtxDesc.ofBytes bs) == none && !(starting 0 1 2).workHeld 0 0
      | .error _ => false)
    | none => false) = true := by decide +kernel
theorem test_start_version : (match (starting 0 2 2).nextOf 0 0 1 with
    | some (_, e, t) => (match t.readVia (some 0) 0 (entryAddr e) 64 with | .ok bs => (CtxDesc.ofBytes bs).badHead | .error _ => false)
    | none => false) = true := by decide +kernel
theorem test_start_foreign : (match (starting 8 1 2).nextOf 0 0 1 with
    | some (_, e, t) => (match t.readVia (some 0) 0 (entryAddr e) 64 with
      | .ok bs => !(CtxDesc.ofBytes bs).badHead && (CtxDesc.ofBytes bs).core == entryTarget e && !bsnHasCluster ((starting 8 1 2).sheetsOn 0) 0 1 &&
          !(starting 8 1 2).workHeld 0 1
      | .error _ => false)
    | none => false) = true := by decide +kernel
theorem test_start_busy : (({ starting 0 1 2 with cores := [(0, runs 0)] } : State).core 0).ctx ≠ .idle ∧
    ({ starting 0 1 2 with cores := [(0, runs 0)] } : State).physCluster 0 ≠ 0xFF := by decide
theorem test_start_unreadable : (match (ringed (entry 1 0 0 0) []).nextOf 0 0 1 with
    | some (_, e, t) => (match t.readVia (some 0) 0 (entryAddr e) 64 with | .ok _ => false | .error _ => true)
    | none => false) = true := by decide +kernel
def loading (image : W64) : State :=
  { package Basin.reset with cores := [(0, { Core.reset with ctx := .loading, loadImage := true, imageBase := image, len := 1 })] }
theorem test_loaded : ((loading 0x800000000000).core 0).loadCharges = [] ∧
    (match (loading 0x800000000000).readVia (some 0) 0 0x800000000000 8 with | .ok _ => true | .error _ => false) = true := by decide +kernel
theorem test_loaded_unreadable : ((loading 0).core 0).started = none ∧
    (match (loading 0).readVia (some 0) 0 0 8 with | .ok _ => false | .error _ => true) = true := by decide +kernel

end Sys2Proof.Tests

namespace Sys2Proof.Tests
open Sys2Proof Sys2Proof.Machine Sys2Proof.Claims
set_option Elab.async false

/-! ### Barges, memory errors -/

/-- A linear descriptor inside the allocation: source 0, destination as given, n bytes. -/
def lin (dst n : Nat) : Desc :=
  { Desc.ofBytes (List.replicate 128 0) with version := 1, spaces := 5, dest := BitVec.ofNat 64 dst, l0 := n }
def barging (st : Nat) (d : Desc) : State :=
  { package Basin.reset with cores := [(0, { runs 0 with flight := ⟨[], [], [{ flying (word 3 2 0) [] with desc := some d, stage := st }], []⟩ })],
                             mem := [(windowBase + 0x400000, 7)] }
/-- BargeEffects: adjacent ranges, a barge that failed a check, ring barges that move nothing or failed. -/
theorem test_barge : ((barging 0 (lin 64 64)).core 0).flight.barge = [{ flying (word 3 2 0) [] with desc := some (lin 64 64), stage := 0 }] ∧
    ((barging 0 (lin 64 64)).core 0).live = true ∧ (lin 64 64).shape = 0 ∧ (lin 64 64).srcSpace = 1 ∧ (lin 64 64).dstSpace = 1 ∧
    (lin 64 64).framed = false ∧ (lin 64 64).signals = false ∧ (lin 64 64).coherent = false ∧ (barging 0 (lin 64 64)).poison = [] ∧
    (lin 64 64).source.toNat + (lin 64 64).l0 ≤ (lin 64 64).dest.toNat := by decide
theorem test_barge_failed : ((barging 5 (lin 64 64)).core 0).ctx = .running ∧
    (({ flying (word 3 2 0) [] with desc := some (lin 64 64), stage := 5 } : InFlight)).stage ≠ 0 := by decide
/-- The byte at offset 0 moves to offset 64 (R270). -/
theorem test_barge_moves : (match exec (.bargeComplete (.core 0)) (barging 0 (lin 64 64)) with
    | .next t => (t.byte (windowBase + 0x400040), t.byte (windowBase + 0x400000)) | _ => (0, 0)) = (7, 7) := by decide +kernel
def ringBarge (detail n : Nat) : RingBarge :=
  { basin := 0, ring := 0, cluster := 0, ref := aRef, desc := lin 64 n, detail := detail, charges := [], paid := 0, waitSince := none,
    shaped := true }
theorem test_ring_barge : ({ package Basin.reset with ringBarges := [ringBarge 0 0] } : State).ringHead 0 0 0 = some (ringBarge 0 0) ∧
    (ringBarge 0 0).desc.total = 0 ∧ (ringBarge 0 0).detail = 0 ∧ (ringBarge 9 0).detail ≠ 0 ∧ (ringBarge 0 0).desc.framed = false := by
  decide

/-- Basin 0 with a root: its first GiB but one is mapped at address 0, readable and writable (R260). -/
def translated : State :=
  { package { Basin.reset with st := .open, root := some 0x100000 } with
    mem := cells 0x100000 (leBytes 8 0x4000000F), pkg := { Pkg.reset with phase := .ready, pkgReady := true, domains := List.replicate 38 true } }
theorem test_translated : (match translated.access 0 true 0x40 with | .ok pa => pa == 0x40000040 | .error _ => false) = true ∧
    (match translated.access 0 true 0x40000000 with | .ok _ => false | .error d => d == 6) = true := by decide +kernel
/-- TranslationCaches: nothing cached before an access, the leaf after it, an older leaf beside it. -/
theorem test_cache_empty : (match translated.leafOf 0 0x40 with | .ok l => l == (30, 0x4000000F) | .error _ => false) = true ∧
    translated.cached 5 0 0x40 = none ∧ (translated.learn (some 5) 0 0x40).tlb = [⟨5, 0, 0, 30, 0x4000000F⟩] ∧
    (translated.basin 0).st ≠ .resetting := by decide +kernel
theorem test_cache_hit : ({ translated with tlb := [⟨5, 0, 0, 30, 0x8000000F⟩] } : State).cached 5 0 0x40 = some ⟨5, 0, 0, 30, 0x8000000F⟩ ∧
    ({ translated with tlb := [⟨5, 0, 0, 30, 0x8000000F⟩] } : State).cached 6 0 0x40 = none ∧
    ({ translated with tlb := [⟨5, 0, 0, 30, 0x8000000F⟩, ⟨6, 1, 0, 30, 0⟩] } : State).flushBasin 0 =
      { translated with tlb := [⟨6, 1, 0, 30, 0⟩] } := by decide +kernel
/-- PoisonAndScrub: a third corrected error of a row within the day. -/
theorem test_row_repair : (({ Die.reset with rowErrors := [(7, 1), (7, 2)] } : Die).rowError 7 3).rowRepairs = [7] ∧
    (({ Die.reset with rowErrors := [(7, 1), (7, 2)] } : Die).rowError 7 (dayCycles + 2)).rowRepairs = [] := by decide
/-- PoisonAndScrub. -/
theorem test_poison_trap : (match ({ translated with poison := [0x1000001], dies := [(0, dieState), (4, { head with active :=
      [(5, bodyOf [(0x50, [1, 0, 0, 1])]), (6, bodyOf [(0x10, [0, 1]), (0x14, [0, 0, 0, 0, 4])])] }), (5, dieState)] } : State).translate
      ((complexOwner [(5, bodyOf [(0x50, [1, 0, 0, 1])])] 0).getD 8) false 0x40 with
    | .ok pa => pa == 0x40000040 | .error _ => false) = true ∧ (({ translated with poison := [0x1000001] } : State).poisoned 0x40000040) = true := by
  decide +kernel
theorem test_scrub : State.reset.memUnit (0 * 64) = some (0, 0) := by decide

/-! ### Synchronisation -/

def semCore (f : List InFlight) : Core := { runs 0 with semCount := 2, semMap := [0, 1], flight := ⟨[], [], [], f⟩ }
def semState (v : W16) (f : List InFlight) : State :=
  { package Basin.reset with cores := [(0, semCore f)], clusters := [(0, { Cluster.reset with sems := [(0, v)], semOwner := [(0, 0), (1, 0)] })] }
/-- SSIG, SSET and SWAIT on semaphore 0 with value and floor. -/
def syncWord (op value sub : Nat) : W64 := word 4 op (value * 2 ^ 30 + sub * 2 ^ 14)
/-- Synchronisation: sums at 65,535 and above; thresholds met with and without underflow. -/
theorem test_ssig : Oldest (semState 1 [flying (syncWord 2 65534 0) []]) (semState 1 [flying (syncWord 2 65534 0) []]) 0 .sync (flying (syncWord 2 65534 0) []) [] ∧
    ((semState 1 [flying (syncWord 2 65534 0) []]).sem 0 0).toNat + 65534 = 65535 ∧ wOp (syncWord 2 65534 0) = 2 :=
  ⟨⟨rfl, rfl, by decide, by decide, rfl⟩, by decide, by decide⟩
theorem test_ssig_over : 65535 < ((semState 2 []).sem 0 (bitsOf (syncWord 2 65534 0).toNat 53 46)).toNat + bitsOf (syncWord 2 65534 0).toNat 45 30 := by
  decide
theorem test_swait : bitsOf (syncWord 1 3 3).toNat 45 30 ≤ ((semState 3 []).sem 0 0).toNat ∧
    bitsOf (syncWord 1 3 3).toNat 29 14 ≤ ((semState 3 []).sem 0 0).toNat ∧ wOp (syncWord 1 3 3) = 1 ∧ wOp (syncWord 3 3 3) = 3 := by decide
theorem test_swait_under : bitsOf (syncWord 1 3 4).toNat 45 30 ≤ ((semState 3 []).sem 0 0).toNat ∧
    ((semState 3 []).sem 0 0).toNat < bitsOf (syncWord 1 3 4).toNat 29 14 := by decide
/-- SWAIT subtracts (R293). -/
theorem test_swait_effect : (match exec (.swaitSatisfied 0) (semState 3 [flying (syncWord 1 2 2) []]) with
    | .next t => t.sem 0 0 | _ => 0) = 1 := by decide +kernel
def signal : RemoteSignal := ⟨0, 0, some 0, 0, 1, 65535, false, false, false⟩
theorem test_remote : ({ semState 3 [] with signals := [signal] } : State).signals = [signal] ∧
    bsnHasCluster (semState 3 []).sheets signal.basin (signal.target / 8) = true ∧ (semState 3 []).clusterPresent 0 = true ∧
    ((semState 3 []).core 0).live = true ∧ ((semState 3 []).sem 0 1).toNat + signal.inc = 65535 := by decide
theorem test_remote_refused : ((package Basin.reset).core signal.target).live = false := by decide
theorem test_ack_none : ({ signal with number := none, answered := true } : RemoteSignal).number = none := by decide
theorem test_ack_oldest : Oldest (semState 3 [flying (word 4 4 0) [9]]) (semState 3 [flying (word 4 4 0) [9]]) 0 .sync (flying (word 4 4 0) [9]) [] ∧
    ((flying (word 4 4 0) [9]).q.reg 0).toNat ≠ 0 ∧ wOp (word 4 4 0) = 4 ∧ signal.number = some (flying (word 4 4 0) [9]).q.number :=
  ⟨⟨rfl, rfl, by decide, by decide, rfl⟩, by decide, by decide, by decide⟩

/-- Kettle: a line whose two members have arrived, one of them waiting; each instruction; a line with no part. -/
def onLine0 (m : KMember) (f : List InFlight) (q : List QInstr) : Core :=
  { runs 0 with kettle := [(0, m)], flight := ⟨[], [], [], f⟩, queue := ⟨[], [], [], q⟩ }
def arrived : KMember := ⟨true, false, false, true, false⟩
def kettled : State :=
  { package Basin.reset with cores := [(0, onLine0 arrived [{ flying (word 4 0x11 0) [] with stage := 1 }] []), (1, onLine0 arrived [] [])] }
theorem test_release : kettled.lineHigh 0 = true ∧ kettled.lineUsed 0 = true ∧ (kettled.ghosts 0).2 = 0 ∧
    (kettled.core 1).flight.sync = [] ∧ (kettled.core 0).flight.sync = [{ flying (word 4 0x11 0) [] with stage := 1 }] ∧
    wOp (word 4 0x11 0) = 0x11 ∧ kLine (word 4 0x11 0) = 0 ∧ ((kettled.core 0).onLine 0).arrived = true := by decide
theorem test_release_canonical : NMap.wf (fun _ => Core.reset) kettled.cores := by
  refine ⟨by decide, fun e he => ?_⟩
  simp only [kettled, List.mem_cons, List.not_mem_nil, or_false] at he
  rcases he with h | h <;> subst h <;> decide
def kQueue (op : Nat) (m : KMember) : State :=
  { package Basin.reset with
    dies := [(0, dieState), (4, { head with active := [(5, bodyOf [(0x50, [1]), (0x58, [1]), (0x74, [1])])] })]
    cores := [(0, onLine0 m [] [qInstr (word 4 op 0) []])] }
theorem test_kbar : (kQueue 0x10 { arrived with arrived := false }).mayIssue 0 .sync (qInstr (word 4 0x10 0) []) = true ∧
    ((kQueue 0x10 { arrived with arrived := false }).core 0).onLine 0 = { arrived with arrived := false } ∧
    ((kQueue 0x10 { arrived with arrived := false }).core 0).ctx = .running := by decide
theorem test_kjoin : bsnHasLine (kQueue 0x12 noMember).sheets 0 0 = true ∧ (kQueue 0x12 noMember).mayIssue 0 .sync (qInstr (word 4 0x12 0) []) = true ∧
    noMember.member = false ∧ noMember.joinPending = false := by decide
theorem test_kleave : arrived.member = true ∧ arrived.joinPending = false ∧ arrived.leavePending = false := by decide
theorem test_kettle_update : (package Basin.reset).dieIn 0 = true ∧ nget (fun _ => none) ((package Basin.reset).die 0).kettleSeqs 4 ≠ some 1 ∧
    nget (fun _ => none) ([(4, some 1)] : NMap (Option Byte)) 4 = some 1 := by decide
def deadlocked : State := withCore { semCore [flying (syncWord 1 5 0) []] with ctx := .draining }
theorem test_deadlock : deadlocked.deadlocked 0 = true ∧ (deadlocked.core 0).live = true := by decide +kernel

/-! ### Registers, hosts, rings -/

/-- RegisterAccess: the lost counter of a page, and a die's status over the management bus, with and without its bit of the mask. -/
theorem test_pair : Reaches translated (.page 0) 0x218 ⟨8, 0x218, none⟩ ∧ translated.pairAt ⟨8, 0x218, none⟩ = some 0 :=
  ⟨by unfold Reaches; decide +kernel, by decide +kernel⟩
theorem test_mgmt_read : bitOf (trustAdmin translated.sheets) 8 = true ∧ controlReg 0xF000000000040 = some ⟨0, 0x40, none⟩ ∧
    translated.pairAt ⟨0, 0x40, none⟩ = none ∧ (translated.singleAt ⟨0, 0x40, none⟩).isSome = true ∧
    translated.singleAt ⟨0, 0x44, none⟩ = none := by decide +kernel
theorem test_mgmt_denied : bitOf (trustAdmin State.reset.sheets) 8 = false := by decide
theorem test_mgmt_reaches : Reaches translated .mgmt 0xF000000000040 ⟨0, 0x40, none⟩ ∧ Reaches translated (.keeper 0) 0xF000000000040 ⟨0, 0x40, none⟩ :=
  ⟨by unfold Reaches; decide +kernel, by unfold Reaches; decide +kernel⟩
/-- ControlPage. -/
theorem test_page : translated.pageOpen 0 = true ∧ (translated.basin 0).st ≠ .resetting := by decide
theorem test_page_tail : ((2 : W32) - 0).toNat ≤ ({ RunLog.reset with head := 2 } : RunLog).head.toNat ∧
    ((0 : W32) - 0).toNat < ((3 : W32) - 0).toNat := by decide
theorem test_page_masks : (0x03FFFFFF : W32) &&& 0x04000000 = 0 ∧ (0xE00FFFFF : W32) &&& 0x07F00000 = 0 ∧ (0xC0 : W32) &&& 0xFF00FF18 = 0 := by decide
def ringOf (n : Nat) : State := { translated with basins := [(0, { Basin.reset with st := .open, rings := [(3, { Ring.reset with count := n })] })] }
theorem test_doorbell : ((ringOf 16).ring 0 3).count ≠ 0 ∧ ((16 : W32) - ((ringOf 16).ring 0 3).cons).toNat ≤ 16 ∧
    16 < ((17 : W32) - ((ringOf 16).ring 0 3).cons).toNat ∧ ((ringOf 0).ring 0 3).count = 0 := by decide
theorem test_check_pop : chkBasin [(14, bodyOf [(0x10, [5, 0])])] 0 = 0 ∧ chkMode [(14, bodyOf [(0x10, [5, 0])])] 0 ≠ 0 ∧
    chkBasin [(14, bodyOf [(0x10, [5, 1])])] 0 ≠ 0 ∧ (translated.die (checkDie 0)).isolated = false ∧ translated.adminBasin 0 = true ∧
    State.reset.adminBasin 0 = false := by decide
/-- HostsAndDevices: a live host with its BAR, a device below a root port; an address in reach and one beyond; poison. -/
def hosted (role mask : Nat) : State :=
  { translated with
    segments := [(0, { Segment.reset with linkUp := true, bar2Log2 := 48 })]
    dies := [(0, dieState), (4, { head with active :=
      [(5, bodyOf [(0x12, [BitVec.ofNat 8 role]), (0x50, [1, 0, if mask = 0 then 0 else 0xFF, 0]), (0x54, leBytes 4 mask), (0x58, [1])]), (6, sheets.body 6)] }), (5, dieState)] }
theorem test_host : (hosted 1 0).hostUnit 0 = some 128 ∧ (match (hosted 1 0).accessVia (some 128) 0 true 0x40 with | .ok _ => true | .error _ => false) = true ∧
    (hosted 1 0).hostLive 0 = true ∧ (hosted 1 0).barReaches 0 0x40 64 = true ∧ hostRegion 0x40 = .memory ∧
    (match (hosted 1 0).access 0 true 0x40 with | .ok _ => true | .error _ => false) = true ∧ (hosted 1 0).poisoned 0x40000040 = false := by
  decide +kernel
theorem test_host_poison : ({ hosted 1 0 with poison := [0x1000001] } : State).poisoned 0x40000040 = true := by decide +kernel
theorem test_host_fails : (match (hosted 1 0).access 0 false 0x40000000 with | .ok _ => false | .error _ => true) = true := by decide +kernel
theorem test_host_bar : ({ hosted 1 0 with segments := [(0, { Segment.reset with linkUp := true, bar2Log2 := 30 })] } : State).barReaches 0 0x3FFFFFC1 64 = false := by
  decide +kernel
theorem test_device : (hosted 2 1).deviceBasin 0 = some 0 ∧ 0x40 + 64 ≤ 2 ^ 47 ∧ 2 ^ 47 < (0x7FFFFFFFFFFF + 2) ∧
    (match (hosted 2 1).access 0 true 0x40 with | .ok _ => true | .error _ => false) = true := by decide +kernel
theorem test_device_reads : (match (hosted 2 1).accessVia (dieUnit 4) 0 false 0x40 with | .ok _ => true | .error _ => false) = true ∧
    (match (hosted 2 1).accessVia (dieUnit 4) 0 true 0x40 with | .ok _ => true | .error _ => false) = true ∧
    (match (hosted 2 1).accessVia (dieUnit 4) 0 true 0x40000000 with | .ok _ => false | .error _ => true) = true ∧
    (match (hosted 1 0).accessVia (some 128) 0 false 0x40 with | .ok _ => true | .error _ => false) = true := by decide +kernel
theorem test_no_copy (pa : Nat) : NoCopy (hosted 1 0) pa ∧ ¬ NoCopy { hosted 1 0 with snoopLines := [(1, 4)] } 0x40 :=
  ⟨nofun, fun h => h (1, 4) (List.mem_singleton.2 rfl) rfl⟩
theorem test_mgmt_path : translated.mgmtUp = true ∧ ({ translated with pkg := { Pkg.reset with phase := .scrapped } } : State).mgmtUp = false := by
  decide +kernel
theorem test_segment : ((hosted 1 0).segment 0).linkUp = true ∧ segmentOwner (hosted 1 0).sheets 0 = some 0 ∧ pcieRole (hosted 1 0).sheets 0 = 1 ∧
    ((hosted 1 0).segment 0).perst = false ∧ (hosted 1 0).dieIn 4 = true ∧ (hosted 1 0).pkg.pkgReady = true ∧
    pcieRole (hosted 2 1).sheets 0 = 2 := by decide +kernel
/-- RingEntries: a no-op, a malformed entry, barges, and an entry that cannot be read. -/
theorem test_entry (e : Bytes) (h : e = entry 0 0 0 0) : (ringed e []).ringReady 0 0 = true ∧ entryMalformed (ringed e []).sheets 0 e = false ∧
    (match (ringed e []).ringEntry 0 0 with | .ok x => x == e | .error _ => false) = true ∧ ((ringed e []).ring 0 0).taken = [] := by
  subst h; decide +kernel
theorem test_entry_malformed : entryMalformed (ringed (entry 5 0 0 0) []).sheets 0 (entry 5 0 0 0) = true ∧ entryType (entry 0 0 0 0) = 0 := by decide +kernel
theorem test_entry_barge : entryType (entry 2 0 0 0x800000002000) = 2 ∧ entryMalformed sheets 0 (entry 2 0 0 0x800000002000) = false ∧
    bsnHasCluster sheets 0 (entryTarget (entry 2 0 0 0)) = true ∧ bsnHasCluster sheets 0 (entryTarget (entry 2 0 1 0)) = false ∧
    (ringed (entry 2 0 0 0x800000002000) []).clusterPresent 0 = true ∧ (ringed (entry 2 0 0 0) []).workHeld 0 0 = false ∧
    ({ ringed (entry 2 0 0 0) [] with dies := [(4, head)] } : State).clusterPresent 0 = false ∧
    (match (ringed (entry 2 0 0 0x800000002000) []).basinRead 0 0x800000002000 128 with | .ok _ => true | .error _ => false) = true := by
  decide +kernel
theorem test_entry_unreadable : (match ({ ringed [] [] with basins := [(0, { Basin.reset with st := .open, rings :=
      [(0, { Ring.reset with count := 16, prod := 1 })] })] } : State).ringEntry 0 0 with | .ok _ => false | .error _ => true) = true := by
  decide +kernel

end Sys2Proof.Tests

namespace Sys2Proof.Tests
open Sys2Proof Sys2Proof.Machine Sys2Proof.Claims
set_option Elab.async false

/-! ### The sluice -/

/-- Sheet 10 for basin 0: thinning, drop late, keep what is not finite, buddy shards, then p members, this one, the buddy's distance
and die 0's work area: GiB 2, one GiB, a ring of 1 MiB. -/
def slcSheet (thin buddy p member : Nat) : Bytes :=
  bodyOf [(0x10, [1, BitVec.ofNat 8 thin, 3, 0, 1, BitVec.ofNat 8 buddy]),
    (0x18, leBytes 2 p ++ leBytes 2 member ++ leBytes 2 0 ++ leBytes 2 1), (0x30, leBytes 4 2 ++ leBytes 2 1 ++ leBytes 2 1)]
/-- Four GiBs of the HBM of each die for basin 0. -/
def slcSheets (thin buddy p member : Nat) : Sheets :=
  [(5, bodyOf [(0x50, [1, 0, 0, 0]), (0x58, [1])]),
   (6, bodyOf [(0x10, (List.range 4).flatMap fun d => [0, 1, 0, 0] ++ leBytes 4 (256 * d) ++ leBytes 4 4 ++ [0, 0, 0, 0])]),
   (10, slcSheet thin buddy p member)]
def anEntry (n : Nat) : BucketEntry := ⟨9, n, 0, 0x800000010000, 0x800000020000, 0x800000030000, 0, 0x800000050000⟩
def aStep (opt n : Nat) : StepDesc :=
  { descOf 0 aRef [] [] with opt := opt, step := 5, table := [anEntry n], signals := (List.range 4).map fun d => BitVec.ofNat 64 (0x800000000000 + 4096 * d) }
def aBucket (sent : Bool) (d : Nat) : Bucket := ⟨0, d, 5, 0, sent, sent, [], false, false, 0, false⟩
def aKey : SliceKey := ⟨0, 0, 9, 5, 0⟩
def aSlice (n : Nat) : Slice :=
  { Slice.fresh aKey with st := .gathering, len := n, acc := List.replicate n 0x3F800000 }
def aMsg (member slice : Nat) (data : Bytes) : SluiceMsg :=
  ⟨9, 5, BitVec.ofNat 16 member, BitVec.ofNat 16 slice, 0, false, 0, crc32c data, data⟩
/-- A compute die whose keeper is member m of p. -/
def slcDie (p m : Nat) : Die := { dieState with active := slcSheets 0 1 p m }
/-- The state with a balance for the sluice of die 0. -/
def withBalance (s : State) (n : Nat) : State := { s with sluices := [(0, { Sluice.reset with unreserved := n })] }
/-- Basin 0 at step 5 with sluice use, its areas in the pool of cluster 0; each ready word holds 5. -/
def sluicing (p n : Nat) : State :=
  { State.reset with
    dies := [(0, slcDie p 0), (1, slcDie p 0), (2, slcDie p 0), (3, slcDie p 0), (4, { head with active := slcSheets 0 1 p 0 })]
    basins := [(0, { Basin.reset with st := .open, step := 5 })]
    clusters := [(0, { Cluster.reset with granted := true })]
    pkg := { Pkg.reset with phase := .ready, pkgReady := true, domains := List.replicate 38 true }
    mem := (List.range 4).map (fun d => (windowBase + 4096 * d, 5))
    steps := [aStep 0 n], buckets := (List.range 4).map (aBucket false) }
/-- SluiceSteps: a descriptor with one bucket of 4,096 elements, its entry in ring 0. -/
def stepBytes (version step : Nat) : Bytes :=
  bodyOf [(0, leBytes 2 version ++ [0, 0] ++ leBytes 4 1 ++ leBytes 8 step ++ leBytes 8 0x60000 ++ leBytes 8 0 ++ leBytes 8 0x40000000 ++
    leBytes 8 0x80000000 ++ leBytes 8 0xC0000000), (0x80, [])]
def tableBytes : Bytes := bodyOf [(0, leBytes 4 9 ++ leBytes 4 4096), (0x10, leBytes 8 0x10000 ++ leBytes 8 0x20000), (0x40, [])]
/-- The bytes of a list that are not zero, in place: a page of each die is mapped at d GiB. -/
def nonzero (a : Nat) (bs : Bytes) : List Host.Cell := (cells a bs).filter (fun e => e.2 != 0)
def stepping (version step : Nat) (act : List StepDesc) : State :=
  { sluicing 1 4096 with
    steps := act, buckets := []
    basins := [(0, { Basin.reset with st := .open, root := some 0x100000, step := 5,
                                      rings := [(0, { Ring.reset with count := 16, work := 0x70000, completion := 0x80000, prod := 1 })] })]
    mem := nonzero 0x100000 ((List.range 4).flatMap fun d => leBytes 8 ((256 * d + 1) * 2 ^ 30 + 0xF)) ++
      nonzero (2 ^ 30 + 0x60000) tableBytes ++ nonzero (2 ^ 30 + 0x70000) (entry 3 0 0 0x90000) ++ nonzero (2 ^ 30 + 0x90000) (stepBytes version step) }
def readBack (s : State) (va n : Nat) (bs : Bytes) : Bool := match s.basinRead 0 va n with | .ok x => x == bs | .error _ => false
def takesStep (s : State) (x : Bytes) : Bool :=
  s.ringReady 0 0 && (match s.ringEntry 0 0 with
    | .ok e => e == entry 3 0 0 0x90000 && entryType e == 3 && !entryMalformed s.sheets 0 e && entryAddr e == 0x90000
    | .error _ => false) && readBack s 0x90000 128 x && (s.ring 0 0).taken == []
theorem test_step : takesStep (stepping 1 5 []) (stepBytes 1 5) = true ∧
    ((stepping 1 5 []).stepRefusal 0 (stepBytes 1 5) aRef).1 = none ∧ (stepping 1 5 []).slices = [] := by decide +kernel
theorem test_step_version : takesStep (stepping 2 5 []) (stepBytes 2 5) = true ∧ field (stepBytes 2 5) 0 2 ≠ 1 := by decide +kernel
theorem test_step_unusable : takesStep { stepping 1 5 [] with dies := (stepping 1 5 []).dies.drop 1 } (stepBytes 1 5) = false ∧
    takesStep { stepping 1 5 [] with pkg := { (stepping 1 5 []).pkg with domains := List.replicate 11 true } } (stepBytes 1 5) = true ∧
    ({ stepping 1 5 [] with pkg := { (stepping 1 5 []).pkg with domains := List.replicate 11 true } } : State).sluicePresent 1 = false := by
  decide +kernel
theorem test_step_number : takesStep (stepping 1 4 []) (stepBytes 1 4) = true ∧
    BitVec.ofNat 64 (field (stepBytes 1 4) 8 8) ≠ ((stepping 1 4 []).basin 0).step := by decide +kernel
def twoSteps : List StepDesc := [{ aStep 0 4096 with step := 3 }, { aStep 0 4096 with step := 4 }]
theorem test_step_third : takesStep (stepping 1 5 twoSteps) (stepBytes 1 5) = true ∧
    2 ≤ ((stepping 1 5 twoSteps).stepsOf 0).length ∧
    (((stepping 1 5 twoSteps).stepsOf 0).getLast?.map (fun y => y.step + 1)) = some 5 := by decide +kernel
theorem test_step_sane : field (stepBytes 1 5) 0 2 = 1 ∧ field (stepBytes 1 5) 2 1 ≤ 3 ∧ field (stepBytes 1 5) 3 1 ≤ 7 ∧
    zeroAt (stepBytes 1 5) 0x5D 3 = true ∧ zeroAt (stepBytes 1 5) 0x68 24 = true ∧ field (stepBytes 1 5) 4 4 = 1 ∧
    slcEnabled (stepping 1 5 []).sheets 0 = true ∧ ([0, 1, 2, 3].all (stepping 1 5 []).sluicePresent) = true := by decide +kernel

/-- SluiceStart: the bucket is ready on die 0, alone and in a group of two. -/
def sends (s : State) (n : Nat) : Bool :=
  s.slcReady 0 0 && !s.slcHeld 0 0 && slcThinning (s.sheetsOn 0) 0 == 0 && s.buckets.filter (fun z => z.same (aBucket false 0)) == [aBucket false 0] &&
  s.steps.find? (fun z => z.basin == 0 && z.step == 5) == some (aStep 0 n) && s.bucketAt 0 0 5 0 == some (aBucket false 0) && s.stepAt 0 5 == some (aStep 0 n) && readBack s 0x800000000000 8 [5, 0, 0, 0, 0, 0, 0, 0]
theorem test_idle : Idle (sluicing 2 8192) 0 ∧ ∀ d < 4, Idle (stepping 1 5 []) d :=
  ⟨⟨by decide +kernel, by decide +kernel, by decide +kernel⟩, fun d hd =>
    ⟨(by decide +kernel : ∀ d < 4, ((stepping 1 5 []).sluice d).work = []) d hd,
      (by decide +kernel : ∀ d < 4, ((stepping 1 5 []).sluice d).parked = []) d hd, fun _ h => nomatch h⟩⟩
/-- A turn that changes sheet 10 holds the bucket. -/
def holding : State := { sluicing 1 4096 with pkg := { (sluicing 1 4096).pkg with
  turn := some { aTurn with holds := [0], changed := [10] } } }
theorem test_sends_own : sends (sluicing 1 4096) 4096 = true ∧ (sluicing 1 4096).dieSlices 0 0 (anEntry 4096) = [0] ∧
    (sluicing 1 4096).ownSlice 0 0 = 0 ∧ (sluicing 1 4096).stepsOf 0 = [aStep 0 4096] ∧ (aStep 0 4096).entryOf 9 = some (anEntry 4096) ∧
    (sluicing 1 4096).sliceAt aKey = none ∧ (sluicing 1 4096).current 0 0 9 = none ∧ (sluicing 1 4096).carryOf 0 0 9 = none ∧
    slcMember ((sluicing 1 4096).sheetsOn 0) 0 < slcP ((sluicing 1 4096).sheetsOn 0) 0 ∧ (sluicing 1 4096).lenOf 0 (anEntry 4096) 0 = 1024 ∧
    ((sluicing 1 4096).sluice 0).unreserved = 0 ∧ sends (withBalance (sluicing 1 4096) 32) 4096 = true ∧
    readBack (sluicing 1 4096) 0x800000010000 4096 (List.replicate 4096 0) = true ∧ slcPropagate ((sluicing 1 4096).sheetsOn 0) 0 = true := by
  decide +kernel
/-- A group of two in which member 0 owns nothing of a bucket of 5,120 elements on die 0. -/
theorem test_sends_others : sends (withBalance (sluicing 2 5120) 32) 5120 = true ∧
    (sluicing 2 5120).dieSlices 0 0 (anEntry 5120) = [4] ∧ (sluicing 2 5120).ownSlice 0 0 = 0 ∧
    units32 ((sluicing 2 5120).lenOf 0 (anEntry 5120) 4) = 32 ∧
    readBack (sluicing 2 5120) (0x800000010000 + 4 * (sluicing 2 5120).loOf 0 (anEntry 5120) 4) 4096 (List.replicate 4096 0) = true := by
  decide +kernel
theorem test_sends_held : holding.slcHeld 0 0 = true ∧ holding.slcReady 0 0 = true ∧
    holding.bucketAt 0 0 5 0 = some (aBucket false 0) := by decide +kernel

/-! ### Reception, the gate, the norm -/

theorem aMsg_crc (m i : Nat) (d : Bytes) : (aMsg m i d).crc = crc32c (aMsg m i d).data := rfl
def gathers (p : Nat) (x : Slice) : State := { sluicing p (4096 * p) with slices := [x] }
theorem gathers_at (p : Nat) (x : Slice) : (gathers p x).sliceAt x.key = some x := by simp [gathers, State.sliceAt]
def zeros : Bytes := List.replicate 4096 0
theorem test_takes : Takes (withBalance (gathers 2 (aSlice 1024)) 64) 0 0 (aMsg 1 0 zeros) :=
  ⟨by decide +kernel, by decide +kernel, ⟨by decide +kernel, by decide +kernel, by decide +kernel⟩, by decide +kernel, .inl rfl, by decide +kernel⟩
/-- While the basin resets, and with an empty balance: nothing is taken at once. -/
theorem test_reception_quiet : ({ sluicing 2 8192 with basins := [(0, { Basin.reset with st := .resetting })] } : State).slcReady 0 0 = false ∧
    ({ sluicing 2 8192 with basins := [(0, { Basin.reset with st := .open, slcQuiet := true })] } : State).slcReady 0 0 = true ∧
    (({ sluicing 2 8192 with basins := [(0, { Basin.reset with st := .open, slcQuiet := true })] } : State).basin 0).slcQuiet = true ∧
    ((gathers 2 (aSlice 1024)).basin 0).slcQuiet = false ∧ ((gathers 2 (aSlice 1024)).sluice 0).unreserved = 0 := by decide +kernel
theorem test_encoding : 4 ≤ ({ aMsg 1 0 zeros with encoding := 4 } : SluiceMsg).encoding.toNat := by decide
theorem test_for_own : ForOwn (gathers 2 (aSlice 1024)) 0 0 (aMsg 1 0 zeros) := by
  refine ⟨by decide +kernel, by decide +kernel, fun e h => ?_⟩
  have h2 : (gathers 2 (aSlice 1024)).entryFor 0 9 5 = some (anEntry 8192) := by decide +kernel
  have h3 : (gathers 2 (aSlice 1024)).entryFor 0 9 5 = some e := h
  rw [h2] at h3; cases h3; decide +kernel
theorem test_gathers : Gathers (gathers 2 (aSlice 1024)) 0 0 (aMsg 1 0 zeros) (aSlice 1024) :=
  ⟨by decide +kernel, rfl, rfl, rfl, rfl⟩
/-- A contribution of a member not seen, whose form decodes; of a member seen; one with another CRC. -/
theorem test_contribution : (aMsg 1 0 zeros).crc = crc32c (aMsg 1 0 zeros).data ∧ (aSlice 1024).seen.contains 1 = false ∧
    (decodeForm 0 (aSlice 1024).len zeros).isSome = true ∧ slcPropagate ((gathers 2 (aSlice 1024)).sheetsOn 0) 0 = true ∧
    slcPropagate [(10, bodyOf [(0x10, [1, 0, 3, 0, 0]), (0x18, [2])])] 0 = false :=
  ⟨aMsg_crc _ _ _, rfl, by decide +kernel, by decide +kernel, by decide +kernel⟩
theorem test_duplicate : Gathers (gathers 2 { aSlice 1024 with seen := [1] }) 0 0 (aMsg 1 0 zeros) { aSlice 1024 with seen := [1] } ∧
    ({ aSlice 1024 with seen := [1] } : Slice).seen.contains 1 = true := ⟨⟨by decide +kernel, rfl, rfl, rfl, rfl⟩, rfl⟩
theorem test_corrupt : crc32c ({ aMsg 1 0 [] with crc := 1 } : SluiceMsg).data ≠ ({ aMsg 1 0 [] with crc := 1 } : SluiceMsg).crc := by decide
theorem test_stale : (({ gathers 2 (aSlice 1024) with flows := [(sluiceFlow 0 0 1, { Flow.reset with known := true, epoch := 128 })] } : State).flow
      (sluiceFlow 0 0 1)).known = true ∧ 127 < ((aMsg 1 0 []).epoch - 128).toNat := by decide +kernel
theorem test_foreign : (aMsg 1 1 []).slice.toNat ≠ (gathers 2 (aSlice 1024)).ownSlice 0 0 ∧ slcP ((gathers 2 (aSlice 1024)).sheetsOn 0) 0 ≤ (aMsg 2 0 []).member.toNat := by
  decide +kernel
def admits (staging : List Staged) : Slice :=
  { aSlice 1024 with seen := [1], admitting := some ⟨1, false, false, 0, zeros⟩, staging := staging }
/-- SluiceClosing: an admission below the quorum of two and at the quorum of one, the deadline, a closed slice. -/
theorem test_admission : (gathers 2 (admits [])).sliceAt aKey = some (admits []) ∧ (gathers 2 (admits [])).sluicePresent 0 = true ∧
    (admits []).admitted.length + 1 < slcQuorum ((gathers 2 (admits [])).sheetsOn 0) 0 + boolBit (admits []).carryIn ∧
    slcQuorum ((gathers 1 (admits [])).sheetsOn 0) 0 + boolBit (admits []).carryIn ≤ (admits []).admitted.length + 1 ∧
    (decodeForm 0 (admits []).len zeros).isSome = true :=
  ⟨gathers_at _ _, by decide +kernel, by decide +kernel, by decide +kernel, by decide +kernel⟩
theorem test_deadline : (gathers 2 (aSlice 1024)).sliceAt aKey = some (aSlice 1024) ∧ (aSlice 1024).admitting = none ∧
    (aSlice 1024).staging = [] ∧ (aSlice 1024).byDeadline = false := by decide +kernel
def closed : Slice := { aSlice 1024 with st := .closed }
theorem test_collation : (gathers 2 closed).sliceAt aKey = some closed ∧ (gathers 2 closed).slcReady 0 0 = true ∧
    (gathers 2 closed).workOk ((gathers 2 closed).collBase 0 0) = true ∧
    ((gathers 2 closed).appendColl 0 0 ((gathers 2 closed).recordOf closed false)).isSome = true ∧
    (gathers 2 closed).stepAt 0 5 = some (aStep 0 8192) :=
  ⟨gathers_at _ _, by decide +kernel, by decide +kernel, by decide +kernel, by decide +kernel⟩
def norming (m : Nat) : State :=
  { gathers 2 { aSlice 1024 with st := .norming } with
    norms := [⟨0, 5, [], [], false, none⟩], dies := [(0, slcDie 4 m), (4, { head with active := slcSheets 0 1 4 m })] }
theorem test_norm : (norming 0).normAt 0 5 = some ⟨0, 5, [], [], false, none⟩ ∧ (norming 0).normAt 0 6 = none ∧
    1 ∈ normChildren (slcP (norming 0).sheets 0) (slcMember (norming 0).sheets 0) ∧ slcMember (norming 1).sheets 0 ≠ 0 ∧
    3 ∈ normChildren (slcP (norming 1).sheets 0) (slcMember (norming 1).sheets 0) ∧
    2 ∉ normChildren (slcP (norming 1).sheets 0) (slcMember (norming 1).sheets 0) := by decide +kernel
theorem test_norm_open : (norming 0).slcReady 0 0 = true ∧ ((norming 0).basin 0).slcQuiet = false ∧ (norming 0).upcoming 0 7 = false ∧
    ({ norming 0 with steps := [{ aStep 0 8192 with step := 4 }], norms := [] } : State).upcoming 0 5 = true ∧
    ((norming 0).sluice 0).work = [] ∧ ((norming 0).sluice 0).parked = [] := by decide +kernel
theorem test_norm_shaped : ((norming 1).sluice 0).normWait = [] ∧
    nget (fun _ => 0) ((norming 1).sluice 0).normSent 0 + 40 * (normChildren (slcP (norming 1).sheets 0) (slcMember (norming 1).sheets 0)).length ≤ 256 ∧
    216 < nget (fun _ => 0) (({ norming 1 with sluices := [(0, { Sluice.reset with normSent := [(0, 256)] })] } : State).sluice 0).normSent 0 := by
  decide +kernel
theorem test_norm_wait : (norming 0).sliceAt aKey = some { aSlice 1024 with st := .norming } := by decide +kernel

/-! ### Updates, broadcasts, buddies -/

def updating (opt : Nat) (x : Slice) : State := { gathers 2 x with steps := [aStep opt 8192] }
def updated (st : SliceState) (skip : Bool) : Slice := { aSlice 1024 with st := st, skipped := skip }
theorem test_update : (updating 0 (updated .updating true)).sliceAt aKey = some (updated .updating true) ∧
    (updating 0 (updated .updating true)).stepAt 0 5 = some (aStep 0 8192) ∧ (aStep 0 8192).entryOf 9 = some (anEntry 8192) ∧
    (updating 0 (updated .updating true)).sluicePresent 0 = true ∧ slcBuddy ((updating 1 (updated .updating true)).sheetsOn 0) 0 = true ∧
    ((updating 0 (updated .updating true)).sluice 0).unreserved = 0 ∧
    (List.range (slcP ((updating 0 (updated .updating true)).sheetsOn 0) 0)).filter
      (· != slcMember ((updating 0 (updated .updating true)).sheetsOn 0) 0) ≠ [] ∧ (aStep 1 8192).opt ≠ 0 ∧ readBack (updating 0 (updated .updating true)) 0x800000020000 2048 (List.replicate 2048 0) = true := by decide +kernel
theorem test_mirrored : (updating 1 (updated .broadcasting false)).sliceAt aKey = some (updated .broadcasting false) ∧
    (updating 1 (updated .broadcasting false)).slcReady 0 0 = true ∧
    ∀ z ∈ (updating 1 (updated .broadcasting false)).slices, z.st ≠ .empty := by decide +kernel
def params : Bytes := List.replicate 2048 0
theorem test_parameters : (withBalance (sluicing 2 8192) 32).slcReady 0 0 = true ∧ (sluicing 2 8192).stepAt 0 5 = some (aStep 0 8192) ∧
    (aStep 0 8192).indexOf 9 = some 0 ∧ (sluicing 2 8192).bucketAt 0 0 5 0 = some (aBucket false 0) ∧
    (aMsg 1 4 params).slice.toNat / 4 = 1 ∧ pieces64 params.length = 32 ∧ (aMsg 1 4 params).slice.toNat ≠ (sluicing 2 8192).ownSlice 0 0 ∧
    params.length = 2 * (sluicing 2 8192).lenOf 0 (anEntry 8192) 4 ∧ (∃ j ∈ (sluicing 2 8192).missing (aBucket false 0) (anEntry 8192), j ≠ 4) ∧
    (∀ u < 72, chkMode ((sluicing 2 8192).sheetsOn 0) u ≠ 7) := by decide +kernel
theorem test_crc_differs (x : W32) : x ≠ x + 1 := by
  intro h; simp at h
def sentBucket : Bucket := { aBucket true 0 with written := [0] }
def waiting : State := { sluicing 2 8192 with buckets := sentBucket :: (List.range 4).map (fun d => aBucket false (d + 1)) }
theorem test_broadcast_wait : waiting.bucketAt 0 0 5 0 = some sentBucket ∧ waiting.slcReady 0 0 = true ∧
    waiting.ownSlice 0 0 ∉ waiting.missing sentBucket (anEntry 8192) ∧ waiting.missing sentBucket (anEntry 8192) ≠ [] ∧
    (aBucket false 1) ∈ waiting.buckets ∧ (aBucket false 1).same sentBucket = false ∧ telNumeric waiting.sheets 0 = false ∧ telNumeric (waiting.sheetsOn 0) 0 = false ∧
    (match waiting.access 0 true 0x800000000008 with | .ok pa => pa == windowBase + 8 | .error _ => false) = true := by decide +kernel
def mirrors (slice : Nat) (data : Bytes) : SluiceMsg := aMsg 1 slice data
theorem test_mirror_takes (n : Nat) (m : SluiceMsg) (h : pieces64 m.data.length ≤ n) (e : m.encoding.toNat < 4) :
    Takes (withBalance (sluicing 2 8192) n) 0 0 m :=
  { ready := (by decide +kernel : (sluicing 2 8192).slcReady 0 0 = true)
    quiet := (by decide +kernel : ((sluicing 2 8192).basin 0).slcQuiet = false)
    idle := ⟨rfl, rfl, (by decide +kernel : ∀ k ∈ (sluicing 2 8192).buckets, k.die = 0 → k.ready = true → k.sent = true)⟩
    beats := h, epoch := .inl rfl, encoding := e }
theorem test_mirror : Takes (withBalance (sluicing 2 8192) 64) 0 0 (mirrors 4 zeros) ∧ (sluicing 2 8192).entryFor 0 9 5 = some (anEntry 8192) ∧
    memberWard ((sluicing 2 8192).sheetsOn 0) 0 = 1 ∧ slcBuddy ((sluicing 2 8192).sheetsOn 0) 0 = true ∧
    zeros.length = 4 * (sluicing 2 8192).lenOf 0 (anEntry 8192) 4 :=
  ⟨test_mirror_takes _ _ (by decide +kernel) (by decide), by decide +kernel, by decide +kernel, by decide +kernel, by decide +kernel⟩
theorem test_refetch_request : Takes (withBalance (sluicing 2 8192) 1) 0 0 (mirrors 4 [1]) ∧ (mirrors 4 [1]).slice.toNat % 4 = 0 ∧ (sluicing 2 8192).lenOf 0 (anEntry 8192) 4 ≠ 0 ∧
    ({ sluicing 2 8192 with wards := [⟨0, 0, anEntry 8192, 4⟩] } : State).wards.find?
      (fun w => w.basin == 0 && w.die == 0 && w.entry.id == 9) = some ⟨0, 0, anEntry 8192, 4⟩ ∧
    readBack (sluicing 2 8192) (0x800000020000 + 2 * (sluicing 2 8192).loOf 0 (anEntry 8192) 4) 2048 params = true :=
  ⟨test_mirror_takes _ _ (by decide) (by decide), by decide +kernel, by decide +kernel, by decide +kernel, by decide +kernel⟩
def refetching : State := { sluicing 2 8192 with steps := [{ aStep 0 8192 with refetch := true }] }
theorem test_refetch_data : refetching.stepsOf 0 = [{ aStep 0 8192 with refetch := true }] ∧
    refetching.bucketAt 0 0 5 0 = some (aBucket false 0) ∧ memberBuddy (refetching.sheetsOn 0) 0 = 1 ∧
    params.length = 2 * refetching.lenOf 0 (anEntry 8192) 4 ∧ (∃ j ∈ refetching.missing (aBucket false 0) (anEntry 8192), j ≠ 4) ∧
    (mirrors 4 (0 :: params)).crc = crc32c (0 :: params) := ⟨by decide +kernel, by decide +kernel, by decide +kernel, by decide +kernel, by decide +kernel, aMsg_crc _ _ _⟩

end Sys2Proof.Tests

namespace Sys2Proof.Tests
open Sys2Proof Sys2Proof.Machine Sys2Proof.Claims
set_option Elab.async false

/-! ### The towpath -/

/-- Sheet 7: UDP port 5000; port 0 with its mode and probation, address 10.0.0.1 when in Ethernet mode; flow 0 of basin 0. -/
def towSheet (mode ip prob : Nat) : Bytes :=
  bodyOf [(4, leBytes 2 5000), (0x50, [BitVec.ofNat 8 mode, 0, 0, BitVec.ofNat 8 ip] ++ leBytes 4 prob), (0x60, [10, 0, 0, 1] ++ List.replicate 12 0),
    (0x750, [1, 0, 15])]
def aPort (st : PortState) : Port := { Port.reset with st := st, good := 0xFF }
def aFlow : Flow := { Flow.reset with known := true, expected := 5, port := some 0 }
def towSheets (mode ip : Nat) : Sheets := [(5, bodyOf [(0x50, [1]), (0x58, [1]), (0x68, [1])]), (7, towSheet mode ip 2)]
/-- Basin 0 owns port 0 and flow 0, whose receive ring of 4,096 bytes is in cluster 0's pool. -/
def porting (mode ip : Nat) (k : Port) : State :=
  { State.reset with
    dies := [(0, { dieState with active := towSheets mode ip }), (4, { head with active := towSheets mode ip })]
    basins := [(0, { Basin.reset with st := .open, recv := [(0, ⟨4096, 0x800000010000, 0x800000020000, 0⟩)] })]
    clusters := [(0, { Cluster.reset with granted := true })]
    pkg := { Pkg.reset with phase := .ready, pkgReady := true, domains := List.replicate 38 true }
    ports := [(0, k)], flows := [(0, aFlow)] }
def aTow (kind : Nat) (seq alive : W16) (n : Nat) : TowFrame := ⟨BitVec.ofNat 8 kind, 2, false, seq, 0, alive, 0, List.replicate n 1⟩

def upPort : State := porting 1 0 (aPort .up)
def outcome : TrainOutcome := ⟨0xFF, 0xFF, 0xFF, 0xFF, 0, .straight, true, 7, 1, 2, false⟩

/-- PortTraining: an attempt with and without a new short, its verdicts, loss of all lanes and of one, retraining, probation. -/
theorem test_attempt : (porting 1 0 (aPort .down)).pkg.pkgReady = true ∧ ((porting 1 0 (aPort .down)).port 0).st = .down ∧
    (porting 1 0 (aPort .down)).portHeld 0 = false ∧ (porting 1 0 (aPort .down)).domainOn (6 * portDie 0 + 4) = true ∧
    (1 : Byte) &&& ~~~((porting 1 0 (aPort .down)).port 0).dcDisabled ≠ 0 := by decide +kernel
def trains (dis : Byte) : State := porting 1 0 { aPort .down with training := true, dcDisabled := dis }
theorem test_trained : ((trains 0).port 0).training = true ∧ (trains 0).trainVerdict 0 outcome = .inr (0, 0, 0xFF) ∧
    (trains 0).trainVerdict 0 { outcome with trained := 0x0F } = .inr (1, 0, 0x0F) ∧ towWidth ((trains 0).sheetsOn (portDie 0)) 0 = 0 ∧
    ((trains 0).port 0).everUp = false ∧ ((trains 0).port 0).quiesced = false := by decide +kernel
theorem test_not_trained : ((trains 0xFF).port 0).dcDisabled = 0xFF ∧ ((trains 0xF0).port 0).dcDisabled ≠ 0xFF ∧
    ({ outcome with locked := 0xF0 } : TrainOutcome).locked &&& ~~~((trains 0xF0).port 0).dcDisabled = 0 := by decide +kernel
theorem test_port_loss : (upPort.port 0).st = .up ∧ upPort.portNative 0 = true ∧ (upPort.port 0).good &&& ~~~(0x0F : Byte) ≠ 0 ∧
    (upPort.port 0).good &&& ~~~(0xFF : Byte) = 0 ∧ (porting 2 4 (aPort .up)).portNative 0 = false := by decide +kernel
theorem test_retrain : ((porting 1 0 (aPort .fastRetrain)).port 0).st = .fastRetrain ∧
    widestGroup (towWidth ((porting 1 0 (aPort .fastRetrain)).sheetsOn (portDie 0)) 0) (((porting 1 0 (aPort .fastRetrain)).port 0).good &&& 0xF0).toNat = some (1, 4) := by
  decide +kernel
theorem test_probation : towProbation ((porting 1 0 { aPort .probation with probCount := 2 }).sheetsOn (portDie 0)) 0 ≤ ({ aPort .probation with probCount := 2 } : Port).probCount ∧
    ({ aPort .probation with probCount := 1 } : Port).probCount < towProbation ((porting 1 0 { aPort .probation with probCount := 1 }).sheetsOn (portDie 0)) 0 ∧
    ((porting 1 0 { aPort .probation with probCount := 1 }).port 0).quiesced = false := by decide +kernel

/-- LinkLayer: a frame in sequence, one after and one before it, no room in the buffer, no room in the ring, a damaged frame, control
frames, a reserved kind. -/
def framesIn : List (W16 × W16) := [(0, 5), (0, 4), (0, 7), (0, 0x8004), (0, 0x8005), (1, 5), (0xFFFF, 5)]
theorem test_brings : ∀ x ∈ framesIn, Brings (frameStream (aTow 1 x.1 x.2 20)) 1 (aTow 1 x.1 x.2 20) := by
  have h : framesIn.all (fun x => decide (parseFrame (frameStream (aTow 1 x.1 x.2 20)) = some (aTow 1 x.1 x.2 20))) = true := by
    decide +kernel
  exact fun x hx => ⟨of_decide_eq_true (List.all_eq_true.mp h x hx), rfl⟩
theorem test_frame : upPort.portNative 0 = true ∧ (upPort.port 0).expSeq = 0 ∧ ((1 : W16) - 0).toNat < 0x8000 ∧
    ¬ ((0xFFFF : W16) - 0).toNat < 0x8000 ∧ (upPort.port 0).returned.length = 4 ∧ (upPort.port 0).held = [] ∧
    ((buffered upPort 0 (aTow 1 0 5 20)).arrive 0 (aTow 1 0 5 20)).isSome = true ∧ (upPort.port 0).nakOut = false ∧
    (upPort.port 0).waiting = [] ∧ (upPort.port 0).naksInRow < 15 ∧
    (upPort.port 0).heldCredits 2 + frameCost (aTow 1 0 5 20) ≤ bufferCredits.getD 2 0 := by decide +kernel
def fullPort : State := porting 1 0 { aPort .up with held := List.replicate 768 (aTow 1 0 5 20) }
theorem test_frame_no_credit : ¬ (fullPort.port 0).heldCredits 2 + frameCost (aTow 1 0 5 20) ≤ bufferCredits.getD 2 0 := by
  decide +kernel
def noRing : State := { upPort with basins := [(0, { Basin.reset with st := .open })] }
theorem test_frame_no_room : (buffered noRing 0 (aTow 1 0 5 20)).arrive 0 (aTow 1 0 5 20) = none ∧
    noRing.recvRoom 0 0 (aTow 1 0 5 20) = false := by decide +kernel
theorem test_damaged : parseFrame (1 :: (frameStream (aTow 1 0 5 20)).drop 1 ++ [0]) = some (aTow 1 0 5 20) ∧
    parseFrame (2 :: (frameStream (aTow 1 0 5 20)).drop 1) = none := by decide +kernel
def anAck : TowFrame := controlFrame 2 7 0 0 ([9, 0, 0, 0] ++ List.replicate 12 0)
theorem test_controls : Brings ((frameStream anAck).take 16 ++ (frameStream anAck).drop 16) 2 anAck ∧ anAck.payload.length = 16 ∧
    Brings (frameStream (controlFrame 3 7 0 0 [])) 3 (controlFrame 3 7 0 0 []) := ⟨⟨by decide +kernel, rfl⟩, rfl, by decide +kernel, rfl⟩
theorem test_nak_resend : ((porting 1 0 { aPort .up with nakOut := true }).port 0).nakOut = true ∧
    15 ≤ ((porting 1 0 { aPort .up with naksInRow := 15 }).port 0).naksInRow ∧ (aPort .up).good ≠ 0 := by decide +kernel
theorem test_kinds : parseFrame (frameStream (aTow 8 0 5 0)) = some (aTow 8 0 5 0) ∧ 8 ≤ (aTow 8 0 5 0).kind.toNat ∧
    parseFrame (frameStream (aTow 7 0 5 0)) = some (aTow 7 0 5 0) ∧ (aTow 7 0 5 0).kind.toNat < 8 := by decide +kernel

/-- FlowReception: every reception of a flow. -/
theorem test_flow : flowEnabled upPort.sheets 0 = true ∧ portOwner upPort.sheets 0 = some (flowBasin upPort.sheets 0) ∧
    (upPort.basin (flowBasin upPort.sheets 0)).st = .open ∧ (upPort.flow 0).known = true ∧ upPort.recvRoom 0 0 (aTow 1 0 5 20) = true ∧
    127 < ((128 : Byte) - (upPort.flow 0).epoch).toNat ∧ 32767 < ((4 : W16) - (upPort.flow 0).expected).toNat ∧
    ((0x8004 : W16) - (upPort.flow 0).expected).toNat ≤ 32767 ∧ 32767 < ((0x8005 : W16) - (upPort.flow 0).expected).toNat ∧
    upPort.heldSomewhere 0 (upPort.flow 0).expected = false := by decide +kernel
theorem test_flow_stale : Brings (frameStream { aTow 1 0 5 20 with epoch := 128 }) 1 { aTow 1 0 5 20 with epoch := 128 } :=
  ⟨by decide +kernel, rfl⟩
theorem test_flow_foreign : flowEnabled upPort.sheets 1 = false ∧ ({ aTow 1 0 5 20 with flow := 1 } : TowFrame).flow.toNat < 1024 := by
  decide +kernel

/-- EthernetPorts: a datagram whose bytes before the frame check sequence are these, for the port's own MAC. -/
def ethPort (f : Flow) : State := { porting 2 4 (aPort .up) with flows := [(0, f)] }
def ipPart (dst : Byte) (x : TowFrame) : Bytes :=
  let udp := udpBytes false [10, 0, 0, 2] [10, 0, 0, dst] 0 5000 (frameBytes x)
  [2, 2, 2, 2, 2, 2, 8, 0] ++ ip4Header 0 0 (20 + udp.length) [10, 0, 0, 2] [10, 0, 0, dst] ++ udp
def toMac (mac : BitVec 48) (rest : Bytes) : Bytes :=
  (beBytes 6 mac.toNat ++ rest) ++ leBytes 4 (crc32 (beBytes 6 mac.toNat ++ rest)).toNat
theorem test_own_mac (mac : BitVec 48) : beValue (beBytes 6 mac.toNat) = mac.toNat := by
  have := mac.isLt
  simp only [beValue, beBytes, leBytes, List.reverse_reverse, leValue, BitVec.toNat_ofNat]
  omega
theorem test_own_crc (c : W32) : leValue ((leBytes 4 c.toNat).take 4) = c.toNat := by
  have := c.isLt
  simp only [leBytes, List.take_succ_cons, List.take_zero, leValue, BitVec.toNat_ofNat]
  omega
theorem test_packet : acceptPacket (towSheets 2 4) 0 ((ipPart 1 (aTow 1 0 7 8)).drop 6) =
    some ⟨[10, 0, 0, 2] ++ List.replicate 12 0, frameBytes (aTow 1 0 7 8)⟩ := by decide +kernel
/-- A packet of at least 54 bytes after the port's own MAC is taken by what stands behind the MACs. -/
theorem test_own (t : Sheets) (rest : Bytes) (h : 54 ≤ rest.length) :
    acceptDatagram t 0 (toMac (Config.portMac 0) rest) = acceptPacket t 0 (rest.drop 6) := by
  have hm := test_own_mac (Config.portMac 0)
  unfold acceptDatagram toMac field
  generalize Config.portMac 0 = mac at *
  generalize hl : beBytes 6 mac.toNat = l at *
  have h6 : l.length = 6 := by rw [← hl]; rfl
  have h4 : ∀ v, (leBytes 4 v).length = 4 := fun _ => rfl
  have hb : ∀ v, ((l ++ rest) ++ leBytes 4 v).length - 4 = (l ++ rest).length := fun v => by
    rw [List.length_append, h4]; omega
  simp only [hb, List.take_left, List.drop_left, test_own_crc]
  rw [if_neg, show (12 : Nat) = l.length + 6 by omega, List.drop_append]
  · rw [List.drop_eq_nil_of_le (by omega), List.nil_append, Nat.add_sub_cancel_left]
  · rintro (h' | h' | h')
    · simp only [List.length_append, h6, h4] at h'; omega
    · exact h' rfl
    · exact h' ((congrArg beValue (List.take_left' h6)).trans hm)
theorem test_datagram : acceptDatagram (towSheets 2 4) 0 (toMac (Config.portMac 0) (ipPart 1 (aTow 1 0 7 8))) =
    some ⟨[10, 0, 0, 2] ++ List.replicate 12 0, frameBytes (aTow 1 0 7 8)⟩ := (test_own _ _ (by decide +kernel)).trans test_packet
/-- The frame in it comes two counters late; nothing waits at the port. -/
theorem test_datagram_gap : parseFrame (frameBytes (aTow 1 0 7 8)) = some (aTow 1 0 7 8) ∧ (ethPort aFlow).ethernetUp 0 = true ∧
    flowEnabled (ethPort aFlow).sheets 0 = true ∧ portOwner (ethPort aFlow).sheets 0 = some (flowBasin (ethPort aFlow).sheets 0) ∧
    ((ethPort aFlow).basin (flowBasin (ethPort aFlow).sheets 0)).st = .open ∧ ((ethPort aFlow).flow 0).known = true ∧
    ((ethPort aFlow).port 0).held = [] ∧ ((ethPort aFlow).port 0).pauseOut = 0 ∧ ((ethPort aFlow).flow 0).deliverGap = false ∧
    ((7 : W16) - ((ethPort aFlow).flow 0).expected).toNat ≤ 32767 ∧ ((ethPort aFlow).flow 0).nakOut = false := by decide +kernel
theorem test_datagram_other : acceptDatagram (towSheets 2 4) 0 [] = none ∧ parseFrame [] = none ∧
    parseFrame (frameBytes (aTow 1 1 7 8)) = some (aTow 1 1 7 8) ∧ parseFrame (frameBytes (aTow 0 0 7 8)) = some (aTow 0 0 7 8) ∧
    parseFrame (frameBytes (aTow 8 0 7 8)) = some (aTow 8 0 7 8) := by
  refine ⟨by rw [acceptDatagram]; exact if_pos (.inl (by decide)), ?_⟩
  decide +kernel
theorem test_arp : towPort (towSheets 2 4) 0 3 1 = 4 ∧ [10, 0, 0, 1] = (towIp (towSheets 2 4) 0).take 4 ∧
    [10, 0, 0, 2] ≠ (towIp (towSheets 2 4) 0).take 4 ∧ towPort (towSheets 2 6) 0 3 1 = 6 := by decide +kernel
theorem test_neighbor : (porting 2 6 (aPort .up)).ethernetUp 0 = true ∧
    [10, 0, 0, 1] ++ List.replicate 12 0 = towIp (towSheets 2 6) 0 := by decide +kernel

/-- Flows: a resume answer that is awaited, a send of 100 bytes and one that cannot be read, gaps, quiesce. -/
theorem test_resume : (({ upPort with flows := [(0, { aFlow with resuming := true })] } : State).flow 0).resuming = true ∧
    (({ upPort with flows := [(0, { aFlow with resuming := true })] } : State).flow 0).port = some 0 ∧
    (upPort.basin (flowBasin upPort.sheets 0)).epoch = 0 ∧
    Brings (frameStream (controlFrame 6 0 0 0 (resumePayload 0 4 0 false))) 6 (controlFrame 6 0 0 0 (resumePayload 0 4 0 false)) ∧
    Brings (frameStream (controlFrame 7 0 0 0 (resumePayload 0 4 0 false))) 7 (controlFrame 7 0 0 0 (resumePayload 0 4 0 false)) :=
  ⟨by decide +kernel, by decide +kernel, by decide +kernel, ⟨by decide +kernel, rfl⟩, by decide +kernel, rfl⟩
def sendEntry (a : Nat) : Bytes :=
  [4, 0] ++ leBytes 2 0 ++ leBytes 4 7 ++ leBytes 8 a ++ leBytes 8 100 ++ [1] ++ List.replicate 39 0
def sending (a : Nat) : State :=
  { upPort with
    basins := [(0, { Basin.reset with st := .open, rings := [(0, { Ring.reset with count := 16, work := 0x800000000000, completion := 0x800000001000, prod := 1 })] })]
    mem := nonzero windowBase (sendEntry a) }
def sendTaken (a : Nat) (ok : Bool) : Bool :=
  (sending a).ringReady 0 0 && (match (sending a).ringEntry 0 0 with
    | .ok e => e == sendEntry a && entryType e == 4 && !entryMalformed (sending a).sheets 0 e &&
        (match (sending a).basinRead 0 (entryAddr e) (entryLength e) with | .ok _ => ok | .error _ => !ok)
    | .error _ => false) && ((sending a).ring 0 0).taken == []
theorem test_send : sendTaken 0x800000002000 true = true ∧ sendTaken 0 false = true := by decide +kernel
theorem test_flow_gap : ((ethPort { aFlow with nakOut := true }).flow 0).nakOut = true ∧ (ethPort { aFlow with nakOut := true }).ethernetUp 0 = true := by
  decide +kernel
theorem test_slow_water : upPort.heldBelow 0 = false ∧
    ({ upPort with basins := [(0, { Basin.reset with scale := 255 })] } : State).heldBelow 0 = true := by decide +kernel
theorem test_quiesce : Rings (rings 0x18 [55]) 0 0x18 [55] ∧ (rings 0x18 [55]).adminBasin 0 = true ∧ field [55] 0 1 < 56 ∧ 56 ≤ field [56] 0 1 :=
  ⟨⟨rfl, by decide, by decide, by decide, by decide⟩, by decide, by decide, by decide⟩

end Sys2Proof.Tests

namespace Sys2Proof.Tests
open Sys2Proof Sys2Proof.Machine Sys2Proof.Claims
set_option Elab.async false

/-! ### Stitch links -/

/-- All dies in service, one link as given. -/
def stitched (l : Nat) (k : Link) : State :=
  { State.reset with
    dies := [(0, dieState), (1, dieState), (2, dieState), (3, dieState), (4, head), (5, dieState)], links := [(l, k)]
    pkg := { Pkg.reset with phase := .ready, domains := List.replicate 38 true } }
/-- A capability record (R380) with a role and rates. -/
def aRecord (role rates : Nat) : Bytes :=
  bodyOf [(0, [1, 0, 1, BitVec.ofNat 8 rates, 0, BitVec.ofNat 8 role, 0, 9, 1, 1] ++ leBytes 2 1 ++ [1, 1, 1, 1]), (0x40, [])]
def aLink (st : LinkState) : Link := { Link.reset with st := st, width := 16, record0 := some (aRecord 0 3) }

/-- StitchLinks: capability records, width echoes that agree, disagree early and at the third attempt, and share no module. -/
theorem test_capability : ((stitched 0 (aLink .training)).link 0).st = .training ∧ recordOk (aRecord 0 3) = true ∧
    recordsMatch (stitched 0 (aLink .training)).sheets 0 (aRecord 0 3) (aRecord 0 3) = true ∧
    recordsMatch (stitched 0 (aLink .training)).sheets 0 (aRecord 0 3) (aRecord 1 3) = false ∧ recordOk (aRecord 4 3) = false ∧
    (aLink .training).record0 = some (aRecord 0 3) ∧ (aLink .training).record1 = none := by decide +kernel
def echoing (w n : Nat) : State := stitched 0 { aLink .training with width := w, attempts := n }
theorem test_echo : pickGroup (designWidth 0) 1 (((echoing 0 0).link 0).cut 0 0xFFFF) = some (1, 0) ∧
    echoPick (echoing 0 0) 0 (((echoing 0 0).link 0).cut 0 0xFF00) = some (8, 8) ∧
    echoPick (echoing 0 0) 0 (((echoing 0 0).link 0).cut 0 0x0F00) = some (4, 8) ∧
    echoPick (echoing 8 2) 0 (((echoing 8 2).link 0).cut 0 0xFF00) = some (8, 8) ∧
    echoPick (echoing 8 2) 0 (((echoing 8 2).link 0).cut 0 0x8FF0) = some (4, 4) := by decide +kernel
theorem test_echo_none : pickGroup (designWidth 0) 1 (((echoing 0 0).link 0).cut 0 0xFF00 &&& ((echoing 0 0).link 0).cut 0 0x00FF) = none := by
  decide +kernel
theorem test_lane : ((stitched 0 (aLink .active)).link 0).st = .active ∧ (15 : Nat) < designWidth 0 ∧
    ((stitched 0 (aLink .active)).link 0).bad.contains 15 = false := by decide +kernel
theorem test_retrain_done : ((stitched 0 { aLink .active with retraining := [3] }).link 0).retraining ≠ [] ∧
    pickGroup (designWidth 0) 1 (((stitched 0 { aLink .active with retraining := [3] }).link 0).cut 0 0xFFFF) = some (1, 0) ∧
    pickGroup (designWidth 0) 16 (((stitched 0 { aLink .active with retraining := [3] }).link 0).cut 0 0xFFFF) = some (16, 0) := by
  decide +kernel

/-- StitchRequests: a request passing by, one without a route, good ones, one to an unmapped address, a completion, snoops. -/
def req (src dst : DieId) (addr : BitVec 52) : StitchHdr := ⟨1, false, false, true, 5, src, dst, 0, 0, 0, 0, addr⟩
def joined : State := stitched 0 (aLink .active)
theorem test_forward : joined.takes 0 (req 4 3 0x40) = true ∧ (req 4 3 0x40).src ≠ 0 ∧ (req 4 3 0x40).dst ≠ 0 ∧ joined.nextDie 0 3 ≠ 0xFF ∧
    ({ joined with dies := (joined.dies.map fun e => if e.1 = 3 then (3, { dieState with isolated := true }) else e) } : State).nextDie 0 3 = 0xFF := by
  decide +kernel
theorem test_request : joined.takes 0 (req 4 0 0x40) = true ∧ joined.requestStatus 0 (req 4 0 0x40) = 0 ∧
    joined.requestStatus 0 (req 4 0 0x4000000000) ≠ 0 ∧ (∀ a ∈ hdrPieces (req 4 0 0x40), inControl 0 a = false) ∧
    (req 4 0 0x40).addr.toNat % 64 = 0 ∧ (req 4 0 0x40).poisoned = false ∧ (req 4 0 0x40).pieces = 0 := by decide +kernel
/-- A coherent read of a processor die, a coherent write without copies, and the credits that a message waits for. -/
theorem test_coherent : ({ req 4 0 0x40 with coherent := true } : StitchHdr).src.val = 4 ∧ joined.snoopLines = [] ∧
    joined.requestStatus 0 { req 4 0 0x40 with coherent := true } = 0 ∧ ({ req 4 0 0x40 with part := true } : StitchHdr).part = true ∧
    joined.snoopLines.all (fun e => e.1 != 0x40 / 64) = true := by decide +kernel
def credited (n : Nat) : Link := { aLink .active with second := { LinkEnd.reset with credits := [n, n, n, n] } }
theorem test_leaves : linkBetween 0 ((stitched 4 (credited 5)).nextDie 0 4) = some 4 ∧ (linkEnds 4).1 = 4 ∧
    (credited 5).st.carries = true ∧ (credited 5).held = false ∧ (credited 5).class3Only = false ∧ (credited 5).second.waiting = [] ∧
    (messageUnits ⟨3, hdrReply (req 4 0 0x40) 0, 0, []⟩).length ≤ (credited 5).second.credits.getD 1 0 ∧
    (credited 0).second.credits.getD 1 0 < (messageUnits ⟨3, hdrReply (req 4 0 0x40) 0, 0, []⟩).length ∧
    (⟨3, hdrReply (req 4 0 0x40) 0, 0, []⟩ : StitchMsg).ahead = false ∧
    (stitched 4 (credited 5)).draining.contains (0, 4) = false := by decide +kernel
/-- A coherent read request of die 4 and the completion that brings its line. -/
def awaited : State := { joined with requests := [⟨4, 0, 0x40, false, true, 0x40⟩] }
theorem test_completion_line : awaited.requests.find? (fun r => r.die == (4 : DieId).val && r.dst == (req 0 4 0x40).src.val &&
    r.tag == (req 0 4 0x40).addr.setWidth 12) = some ⟨4, 0, 0x40, false, true, 0x40⟩ ∧ awaited.takes 4 (req 0 4 0x40) = true ∧
    (req 0 4 0x40).status = 0 := by decide +kernel
def asked : State := { joined with requests := [⟨0, 4, 0x40, false, false, 0⟩] }
theorem test_completion : asked.requests.find? (fun r => r.die == (0 : DieId).val && r.dst == (req 4 0 0x40).src.val &&
    r.tag == (req 4 0 0x40).addr.setWidth 12) = some ⟨0, 4, 0x40, false, false, 0⟩ := by decide +kernel
theorem test_snoop : joined.dieIn 4 = true ∧ joined.pieceStatus 0 (0x40 / 64 * 64) = 0 ∧ inControl 0 (0x40 / 64 * 64) = false ∧
    ({ joined with snoopLines := [(1, 4)] } : State).snoopLines.contains (1, 4) = true ∧ joined.snoopLines.contains (1, 4) = false := by
  decide +kernel
/-- DieLoss: an isolation notice, a loss of flits at both ends of link 4, a drained alternate and one still in use. -/
theorem test_loss : asked.dieIn 0 = true ∧ (0 : DieId) ≠ 4 ∧ linkEnds 4 = (4, 0) ∧ ((stitched 4 (aLink .active)).link 4).st = .active ∧
    (asked.die 4).isolated = false ∧
    (stitched 4 (aLink .active)).dieIn 4 = true := by decide +kernel
theorem test_drain : ({ joined with draining := [(0, 3)], alternates := [(0, 3)] } : State).draining.contains (0, 3) = true ∧
    ({ joined with draining := [(0, 3)] } : State).requests.any (fun r => r.die == 0 && r.dst == 3) = false ∧
    ({ asked with draining := [(0, 4)] } : State).requests.any (fun r => r.die == 0 && r.dst == 4) = true := by decide +kernel

end Sys2Proof.Tests

namespace Sys2Proof.Tests
open Sys2Proof Sys2Proof.Machine Sys2Proof.Claims
set_option Elab.async false

/-! ### Power, recovery, watching -/

/-- The package READY, all dies in service, with these package fields. -/
def powered (p : Pkg) : State :=
  { stitched 0 (aLink .active) with pkg := { p with phase := .ready, pkgReady := true, head := 4, domains := List.replicate 38 true } }
def readyPkg : State := powered Pkg.reset
def anError (code : Nat) (unit data : Nat) : ErrEvent := ⟨BitVec.ofNat 16 code, 0, 0, BitVec.ofNat 16 unit, BitVec.ofNat 32 data, 0⟩
def raising (e : ErrEvent) : State := powered { Pkg.reset with raised := [(e, 0)] }
def aCourse (scope unit : Nat) (phase : RecPhase) : Recovery := ⟨1, 0, scope, unit, anError 0x1007 unit scope, phase, 0, 0, 0, false⟩
def recovering (r : Recovery) : State := powered { Pkg.reset with recoveries := [r] }

/-- Governor: a boundary at cycle 22 for a granted cluster that waited, at one stopped by a trip; evaluations above and at the cap. -/
def boundary : State :=
  { readyPkg with
    cyc := 22, clusters := [(0, { Cluster.reset with granted := true, waited := true, next := 100 })]
    dies := readyPkg.dies.map fun (e : Nat × Die) => (e.1, { e.2 with running := true }) }
theorem test_boundary : (boundary.die 5).running = true ∧ (boundary.die 5).slew = 0 ∧ boundary.cyc < 2200 ∧ (boundary.cluster 0).granted = true ∧
    (boundary.cluster 0).waited = true ∧ (∀ d < 6, (boundary.die d).monitorFailed = []) ∧ (readyPkg.die 5).running = false ∧
    boundary.pkg.thermTrip = false ∧ (powered { Pkg.reset with thermTrip := true }).pkg.thermTrip = true := by decide +kernel
/-- A cluster at rest, and a trip with no engine at work. -/
theorem test_at_rest : (∀ c < 8, (boundary.core c).ctx = .idle ∧ (boundary.core c).seqWait = .free) ∧ boundary.ringBarges = [] ∧
    boundary.clusterWaits 0 = false ∧ (∀ k < 128, (powered { Pkg.reset with thermTrip := true }).charges k = false) := by decide +kernel
/-- One lock cycle is 2,200 cycles or 100 ticks: 22 cycles in, 99 are left (R47, R48). -/
theorem test_boundary_timebase : (match exec (.lockCycleBoundary ⟨5, []⟩) boundary with
    | .next t => ((t.die 3).timebase, (t.cluster 0).scale, t.pkg.energy) | _ => (0, 0, 0)) = (99, 100, 5) := by decide +kernel
def evaluating (sum : Nat) : State := powered { Pkg.reset with wattCount := 16, wattSum := sum }
theorem test_evaluation : 16 ≤ (evaluating 57600).pkg.wattCount ∧ (evaluating 57600).pkg.pkgReady = true ∧ (evaluating 57600).pkg.thermTrip = false ∧
    (evaluating 57600).pkg.wattSum / (evaluating 57600).pkg.wattCount = min (powCap (evaluating 57600).sheets) (evaluating 57600).pkg.trayCap ∧
    min (powCap (evaluating 57616).sheets) (evaluating 57616).pkg.trayCap < (evaluating 57616).pkg.wattSum / (evaluating 57616).pkg.wattCount ∧
    0 < (evaluating 16).pkg.wattSum / (evaluating 16).pkg.wattCount ∧ readyPkg.pkg.wattCount < 16 := by decide +kernel

/-- PowerEvents. -/
theorem test_trip : readyPkg.pkg.thermTrip = false ∧ readyPkg.pkg.phase ≠ .off ∧ (({ readyPkg with cores := [(0, runs 0)] } : State).core 0).ctx ≠ .idle := by
  decide +kernel
def hour (slack fb : Nat) (past : List Nat) (since : Nat) : State :=
  { readyPkg with dies := readyPkg.dies.map fun (e : Nat × Die) => (e.1, { e.2 with leastSlack := some slack, freeboard := fb, hourSlack := past, sinceFall := since }) }
theorem test_hour : (hour 24 99 [] 0).dieIn 3 = true ∧ ((hour 24 99 [] 0).die 3).leastSlack = some 24 ∧ ((hour 24 99 [] 0).die 3).freeboard < 100 ∧
    ((hour 24 100 [] 0).die 3).freeboard = 100 ∧ ((hour 25 99 [] 0).die 3).leastSlack = some 25 ∧ ((hour 44 99 [] 0).die 3).leastSlack = some 44 ∧
    23 ≤ ((hour 45 99 (List.replicate 23 45) 23).die 3).hourSlack.length ∧ 23 ≤ ((hour 45 99 (List.replicate 23 45) 23).die 3).sinceFall ∧
    (∀ x ∈ ((hour 45 99 (List.replicate 23 45) 23).die 3).hourSlack, 45 ≤ x) := by decide +kernel
theorem test_monitor : (readyPkg.die (readyPkg.railDie 38)).monitorFailed.contains 38 = false ∧ readyPkg.railDie 0 = 0 ∧
    (({ readyPkg with dies := [(0, { dieState with monitorFailed := [5] })] } : State).die 0).monitorFailed.contains 5 = true := by decide +kernel
theorem test_mgmt : readyPkg.mgmtUp = true ∧ (powered { Pkg.reset with alertBits := [false, false, true] }).mgmtUp = false := by decide +kernel
theorem test_cap : readyPkg.pkg.phase = .ready ∧ (1200 ≤ 1200 ∧ 3600 ≤ 3600) ∧ (1199 < 1200 ∧ 3600 < 3601) := by decide +kernel

/-- RecoveryStart: errors of every scope, an error nobody raised. -/
theorem test_decisions : (raising (anError 0x0902 0 0)).firstScope (anError 0x0902 0 0) = none ∧
    (raising (anError 0x1007 3 1)).firstScope (anError 0x1007 3 1) = some ⟨1, 3⟩ ∧
    (raising (anError 0x1007 0 2)).firstScope (anError 0x1007 0 2) = some ⟨2, 0⟩ ∧
    (raising (anError 0x0B01 0 0)).firstScope (anError 0x0B01 0 0) = some ⟨3, 0⟩ ∧ (anError 0x1005 0 0).code = 0x1005 ∧
    (anError 0x0B01 0 0, 0) ∈ (raising (anError 0x0B01 0 0)).pkg.raised ∧ readyPkg.pkg.raised = [] ∧ readyPkg.memUnit 0 = some (0, 0) ∧
    detectorCode (anError 0x0B01 0 0).code.toNat = false ∧ readyPkg.pkg.recoveries = [] ∧ readyPkg.pkg.cycleHeld = false := by decide +kernel
theorem test_logs : (∀ d : DieId, fullLog 64 (readyPkg.die d).log = false) ∧ fullLog 256 readyPkg.pkg.log = false := by decide +kernel
theorem test_hang : ({ readyPkg with cores := [(0, { runs 0 with sampleSeq := (0, 99) })] } : State).keeperLive 0 = true ∧
    (({ readyPkg with cores := [(0, { runs 0 with sampleSeq := (0, 99) })] } : State).core 0).sampleSeq =
      ((({ readyPkg with cores := [(0, { runs 0 with sampleSeq := (0, 99) })] } : State).core 0).retiredSeq, 99) ∧ recQueue readyPkg.sheets ≤ 99 + 1 := by
  decide +kernel
theorem test_power_cycle : (recovering (aCourse 5 0 .fenced)).pkg.recoveries = [aCourse 5 0 .fenced] ∧ (aCourse 5 0 .fenced).phase ≠ .queued ∧
    (recovering (aCourse 5 0 .fenced)).pkg.copying = false ∧ (recovering (aCourse 5 0 .fenced)).pkg.cycleReq = false := by decide +kernel
def aPaper (n : W32) : Endpaper := { readyPkg.endpaper (entryOf (anError 0x1005 0 0) 0 4 1) 4 0 0 [] [] [] with setSeq := n }
theorem test_sets : (powered { Pkg.reset with setA := [aPaper 1] }).setAIsCurrent = true ∧
    (powered { Pkg.reset with setB := [aPaper 1] }).setAIsCurrent = false ∧
    (setSeqOf (powered { Pkg.reset with setB := [aPaper 1] }).pkg.setB).isSome = true ∧ (setSeqOf readyPkg.pkg.setB).isSome = false := by decide +kernel
theorem test_copy : (powered { Pkg.reset with copying := true, recoveries := [aCourse 4 0 .fenced] }).pkg.copying = true ∧
    (aCourse 4 0 .fenced).scope = 4 ∧ (aCourse 5 0 .fenced).scope = 5 := by decide +kernel

/-- Recoveries: each phase of each scope. -/
theorem test_course : (recovering (aCourse 1 0 .fenced)).pkg.recoveries = [aCourse 1 0 .fenced] ∧ (aCourse 1 0 .fenced).id = 1 ∧
    (aCourse 1 0 .stored).phase = .stored ∧ (aCourse 2 0 .resetDone).phase = .resetDone ∧ (aCourse 2 0 .resetDone).event.code ≠ 0x1008 ∧
    ((recovering (aCourse 2 0 .resetDone)).basin 0).lostDie = false ∧ (aCourse 3 1 .resetDone).final = false ∧
    (timebaseSources 1).find? (fun p => !((recovering (aCourse 3 1 .resetDone)).die p).isolated) = some 3 ∧
    clusterOwner (recovering (aCourse 1 0 .fenced)).sheets 0 = some 0 := by decide +kernel

/-- Watching: a step's summary, an interval at each end of a link, its report, its comparison and its absence. -/
def aSummary (n : W64) : Summary := ⟨n, 0, [], false, false, 0, 0, 0, 0, 0, 0, 0, 0⟩
def telSheet : Bytes := bodyOf [(0x10, [2, 0, 0, 0] ++ leBytes 4 1 ++ leBytes 2 0 ++ leBytes 2 0 ++ leBytes 2 1), (0x30, [])]
def watching (k : Basin) : State :=
  { readyPkg with dies := [(0, dieState), (4, { head with active := (15, telSheet) :: sheets })], basins := [(0, k)] }
def summing (log : RunLog) : Basin := { Basin.reset with st := .open, step := 6, summaries := [aSummary 5], sumLog := log }
theorem test_summary : ((watching (summing .reset)).basin 0).summaries.find? (fun m => decide (m.step.toNat < 6)) = some (aSummary 5) ∧
    telSummary (watching (summing .reset)).sheets 0 = true ∧ telSummaryMib (watching (summing .reset)).sheets 0 * 512 = 512 ∧
    (watching (summing .reset)).accStat 0x40000000 = .ok ∧ telSummary readyPkg.sheets 0 = false ∧
    (({ RunLog.reset with head := 512 } : RunLog).head - ({ RunLog.reset with head := 512 } : RunLog).tail).toNat = 512 := by decide +kernel
theorem test_summary_open : ∀ m ∈ ({ summing .reset with step := 5 } : Basin).summaries,
    ({ summing .reset with step := 5 } : Basin).step.toNat ≤ m.step.toNat := by decide
def chkSheets (mode : Nat) : Sheets := (14, bodyOf [(0x10, [BitVec.ofNat 8 mode, 0, 0, 0, 0, 0])]) :: sheets
def checking (mode : Nat) (k : CheckUnit) : State :=
  { readyPkg with dies := [(0, { dieState with active := chkSheets mode }), (4, { head with active := chkSheets mode })], checks := [(0, k)] }
theorem test_interval : ((checking 3 .reset).link (chkTarget ((checking 3 .reset).sheetsOn (checkDie 0)) 0)).st.carries = true ∧
    chkMode ((checking 3 .reset).sheetsOn (checkDie 0)) 0 = 3 ∧ chkMode ((checking 4 .reset).sheetsOn (checkDie 0)) 0 = 4 ∧
    (checking 3 .reset).intervalEntry 0 = none := by decide +kernel
def kept : CheckUnit := { CheckUnit.reset with results := [(0, 9)] }
theorem test_report : resultOf ((checking 4 kept).check 0).results 0 = some (0, 9) ∧
    nget (fun _ => 0) ((checking 4 kept).check 0).expected (chkTarget ((checking 4 kept).sheetsOn (checkDie 0)) 0) = 0 ∧ (9 : W64) ≠ 8 ∧
    ((checking 4 kept).check 0).records.length < 8 ∧
    resultOf ((checking 4 .reset).check 0).results 0 = none ∧ ((checking 4 kept).check 0).formers = [] := by decide +kernel
/-- An interval that a turn left open under mode 3 on link 0. -/
def former : FormerCheck := ⟨[3, 0, 0, 0, 0, 0], [], [1], 4, [], [], true⟩
theorem test_former : (checking 4 { CheckUnit.reset with formers := [former] }).intervalEntry 0 = some former ∧ chkMode (formerSheets 0 former) 0 = 3 ∧
    ((checking 4 .reset).link (chkTarget (formerSheets 0 former) 0)).st.carries = true := by decide +kernel

end Sys2Proof.Tests

namespace Sys2Proof.Tests
open Sys2Proof Sys2Proof.Machine Sys2Proof.Claims
set_option Elab.async false

/-! ### The machine as a whole -/

/-- StepRunsCommand: a command in front, an empty queue before and at the last cycle of a lock cycle. -/
theorem test_queue : ({ readyPkg with pending := [.pldmSetCap 1200, .hourlyTrim] } : State).pending = .pldmSetCap 1200 :: [.hourlyTrim] ∧
    readyPkg.pending = [] ∧  readyPkg.cyc < 2199 ∧ 2199 ≤ ({ readyPkg with cyc := 2199 } : State).cyc ∧ (readyPkg.die 5).slew = 0 := by decide +kernel
theorem test_step_runs : (match step { readyPkg with pending := [.pldmSetCap 1200, .hourlyTrim] } with
    | .next t => (t.pkg.trayCap, t.pending) | _ => (0, [])) = (1200, [.hourlyTrim]) := by decide +kernel
/-- Nothing happens by itself in the package. -/
theorem test_still : Still readyPkg := { ports := fun e h => (by rw [show readyPkg.ports = [] from rfl] at h; cases h), words := by decide +kernel, work := by decide +kernel }
/-- The 22nd cycle is a tick (R48). -/
theorem test_tick : (match step { boundary with cyc := 21 } with | .next t => ((t.die 0).timebase, t.cyc) | _ => (0, 0)) = (1, 22) := by
  decide +kernel

/-- A state in canonical form with a command waiting. -/
def running : State := { State.reset with cores := [(0, runs 0)], mem := [(5, 1)], pending := [.nop 0] }
theorem test_canonical : running.Canonical := by constructor <;> decide
theorem test_running_steps : (match step running with | .next t => (t.core 0).pc | _ => 0) = 1 := by decide +kernel
theorem test_governed : running.Governed where
  package := by unfold Scale; decide
  thermal d := (by unfold Scale; decide : Scale Die.reset.thermal)
  basins b := (by unfold Scale; decide : Scale Basin.reset.scale)
  clusters k := (by unfold Scale RampLevel; decide : RampLevel Cluster.reset.ramp ∧ Scale Cluster.reset.scale ∧ Scale Cluster.reset.next)
  sluices d := (by unfold Scale RampLevel; decide : RampLevel Sluice.reset.ramp ∧ Scale Sluice.reset.scale ∧ Scale Sluice.reset.next)
/-- PkgReadyStays: a package that is READY, and one command of each kind. -/
theorem test_ready : readyPkg.ReadyAfterStart ∧ readyPkg.pkg.pkgReady = true := ⟨fun _ => rfl, rfl⟩
theorem test_ready_kinds : ¬ Stops (.nop 0) ∧ ¬ ResetsPackage (.nop 0) ∧ Stops .resetNLow ∧ ResetsPackage (.lifeCycle 0) := by
  refine ⟨?_, ?_, .inr rfl, .inr ⟨0, rfl⟩⟩
  · rintro (⟨_, h⟩ | h) <;> cases h
  · rintro (⟨_, h⟩ | ⟨_, h⟩) <;> cases h

end Sys2Proof.Tests
end

section
/-!
PKG_READY over one command (R89). The start of the package is held in two fields: `phase`, the row of R87 that it has
reached, and `pkgReady`. Of each operation of the state one lemma says that it leaves both as they are: `…_pkg` where the
whole package record stays, `…_start` where another field of it may change. The lemma of a command follows from those of
the operations it calls, and the table of `exec` from the lemmas of the commands.
-/
namespace Sys2Proof.Machine

open Sys2Proof.Claims

/-- The start of the package stands where it stood, and PKG_READY is as it was (R87, R89). -/
@[simp, reducible] def State.SameStart (s t : State) : Prop :=
  t.pkg.phase = s.pkg.phase ∧ t.pkg.pkgReady = s.pkg.pkgReady

@[simp] theorem State.ite_pkg (p : Prop) [Decidable p] (s t : State) :
    (if p then s else t).pkg = if p then s.pkg else t.pkg := apply_ite State.pkg p s t

@[simp] theorem Pkg.ite_phase (p : Prop) [Decidable p] (a b : Pkg) :
    (if p then a else b).phase = if p then a.phase else b.phase := apply_ite Pkg.phase p a b

@[simp] theorem Pkg.ite_pkgReady (p : Prop) [Decidable p] (a b : Pkg) :
    (if p then a else b).pkgReady = if p then a.pkgReady else b.pkgReady := apply_ite Pkg.pkgReady p a b

@[simp] theorem State.forEach_pkg {α : Type} {f : State → α → State} (l : List α) (s : State)
    (hf : ∀ s x, (f s x).pkg = s.pkg) : (s.forEach l f).pkg = s.pkg :=
  State.forEach_same State.pkg l s (fun t x _ => hf t x)

@[simp] theorem State.forEach_start {α : Type} {f : State → α → State} (l : List α) (s : State)
    (hf : ∀ (s : State) x, s.SameStart (f s x)) : s.SameStart (s.forEach l f) :=
  State.forEach_keeps l ⟨rfl, rfl⟩ fun t x _ ht => ⟨(hf t x).1.trans ht.1, (hf t x).2.trans ht.2⟩

theorem State.SameStart.trans {s t u : State} (h : s.SameStart t) (h' : t.SameStart u) : s.SameStart u :=
  ⟨h'.1.trans h.1, h'.2.trans h.2⟩

theorem State.SameStart.of_pkg {s t u : State} (h : s.SameStart t) (hu : u.pkg = t.pkg) : s.SameStart u := by
  rwa [State.SameStart, hu]

theorem State.linkFrame.pkg {s t : State} (h : s.linkFrame t) : t.pkg = s.pkg := by rw [h]
theorem State.storeFrame.pkg {s t : State} (h : s.storeFrame t) : t.pkg = s.pkg := by rw [h]
theorem State.basinFrame.pkg {s t : State} (h : s.basinFrame t) : t.pkg = s.pkg := by rw [h]

/-! ### The operations of `Machine/Ops` -/

@[simp] theorem State.setRing_pkg (s : State) (b r : Nat) (v : Ring) : (s.setRing b r v).pkg = s.pkg := rfl

@[simp] theorem State.writeBytes_pkg (s : State) (a : Nat) (bs : Bytes) : (s.writeBytes a bs).pkg = s.pkg :=
  (s.writeBytes_frame a bs).pkg

@[simp] theorem State.addPoison_pkg (s : State) (piece : Nat) : (s.addPoison piece).pkg = s.pkg := by
  simp [State.addPoison]

@[simp] theorem State.clearPoison_pkg (s : State) (piece : Nat) : (s.clearPoison piece).pkg = s.pkg := rfl
@[simp] theorem State.wipe_pkg (s : State) (lo n : Nat) : (s.wipe lo n).pkg = s.pkg := rfl

@[simp] theorem State.flashWrite_pkg (s : State) (a : Nat) (bs : Bytes) : (s.flashWrite a bs).pkg = s.pkg := by
  obtain ⟨m, h⟩ := s.flashWrite_shape a bs
  rw [h]

@[simp] theorem State.flashErase_pkg (s : State) (lo n : Nat) : (s.flashErase lo n).pkg = s.pkg := rfl

@[simp] theorem State.advanceTimebases_pkg (s : State) (n : Nat) : (s.advanceTimebases n).pkg = s.pkg := by
  simp [State.advanceTimebases]

@[simp] theorem State.vector_pkg (s : State) (b v : Nat) : (s.vector b v).pkg = s.pkg := by simp [State.vector]

@[simp] theorem State.setErr_pkg (s : State) (b : Nat) (mask : W32) : (s.setErr b mask).pkg = s.pkg := by
  simp [State.setErr]

@[simp] theorem State.setBasinState_pkg (s : State) (b : Nat) (st : BasinState) :
    (s.setBasinState b st).pkg = s.pkg := by simp [State.setBasinState]

@[simp] theorem State.raise_start (s : State) (code die basin unit data addr : Nat) :
    s.SameStart (s.raise code die basin unit data addr) := ⟨rfl, rfl⟩

@[simp] theorem State.misuse_start (s : State) (b : Nat) : s.SameStart (s.misuse b) := by simp [State.misuse]
@[simp] theorem State.free_pkg (s : State) : s.free.2.pkg = s.pkg := rfl
@[simp] theorem State.touch_pkg (s : State) (pa : Nat) : (s.touch pa).pkg = s.pkg := rfl

@[simp] theorem State.freeBytes_pkg (s : State) (n : Nat) : (s.freeBytes n).1.pkg = s.pkg := by
  obtain ⟨k, h⟩ := s.freeBytes_shape n
  rw [h]

@[simp] theorem State.keepCopy_pkg (s : State) (e : CacheLine) : (s.keepCopy e).pkg = s.pkg := rfl

@[simp] theorem State.hartStores_pkg (s : State) (e : CacheLine) : (s.hartStores e).1.pkg = s.pkg := by
  unfold State.hartStores
  dsimp only
  split
  · rfl
  · simp

@[simp] theorem State.writeBack_pkg (s : State) (e : CacheLine) : (s.writeBack e).pkg = s.pkg := by
  simp [State.writeBack]

@[simp] theorem State.surrender_pkg (s : State) (line die : Nat) (kind : SnoopKind) :
    (s.surrender line die kind).1.pkg = s.pkg := (s.surrender_frame line die kind).pkg

@[simp] theorem State.noteStall_pkg (s : State) (c : Nat) : (s.noteStall c).pkg = s.pkg := by
  unfold State.noteStall
  dsimp only
  split <;> simp

@[simp] theorem State.endWait_pkg (s : State) (k : Nat) (since : Option Nat) :
    (s.endWait k since).pkg = s.pkg := by
  unfold State.endWait
  dsimp only
  split <;> rfl

@[simp] theorem State.endWaits_pkg (s : State) (c : Nat) : (s.endWaits c).pkg = s.pkg := by simp [State.endWaits]

@[simp] theorem State.setGhosts_pkg (s : State) (line : Nat) (g : Nat × Nat) : (s.setGhosts line g).pkg = s.pkg :=
  rfl

@[simp] theorem State.depart_pkg (s : State) (c : Nat) (short : Bool) : (s.depart c short).pkg = s.pkg := by
  simp [State.depart]

@[simp] theorem State.enterFault_start (s : State) (c code index : Nat) :
    s.SameStart (s.enterFault c code index) := by
  unfold State.enterFault
  dsimp only
  split
  · simp
  · simp
  · simp
  · exact ⟨rfl, rfl⟩
  · exact ⟨rfl, rfl⟩

/-! ### The operations of `Machine/Routes` -/

@[simp] theorem State.divert_pkg (s : State) (lost : Nat) : (s.divert lost).pkg = s.pkg := rfl

/-! ### The operations of `Machine/Links` -/

@[simp] theorem State.putFormer_pkg (s : State) (u : Nat) (old new : FormerCheck) :
    (s.putFormer u old new).pkg = s.pkg := rfl

@[simp] theorem State.trainLink_pkg (s : State) (l : Nat) (bad : List Nat) : (s.trainLink l bad).pkg = s.pkg := by
  simp [State.trainLink]

@[simp] theorem State.watchLink_pkg (s : State) (mode d l : Nat) (m : StitchMsg) :
    (s.watchLink mode d l m).pkg = s.pkg := (s.watchLink_frame mode d l m).pkg

@[simp] theorem State.pumpLink_pkg (s : State) (l : Nat) : (s.pumpLink l).pkg = s.pkg :=
  (s.pumpLink_frame l).pkg

@[simp] theorem State.sendOver_pkg (s : State) (d next : Nat) (m : StitchMsg) :
    (s.sendOver d next m).pkg = s.pkg := by
  unfold State.sendOver
  dsimp only
  split
  · rfl
  · simp

@[simp] theorem State.sendToward_pkg (s : State) (d : Nat) (m : StitchMsg) : (s.sendToward d m).pkg = s.pkg :=
  (s.sendToward_frame d m).pkg

@[simp] theorem State.received_pkg (s : State) (d : Nat) (m : StitchMsg) : (s.received d m).pkg = s.pkg := by
  unfold State.received
  dsimp only
  split
  · rfl
  · split
    · rfl
    · simp

@[simp] theorem State.snoopHolder_pkg (s : State) (kind : SnoopKind) (h : Nat × Nat) :
    (s.snoopHolder kind h).pkg = s.pkg := (s.snoopHolder_frame kind h).pkg

@[simp] theorem State.invalidateLine_pkg (s : State) (line : Nat) : (s.invalidateLine line).pkg = s.pkg :=
  (s.invalidateLine_frame line).pkg

@[simp] theorem State.downgradeLine_pkg (s : State) (line : Nat) : (s.downgradeLine line).pkg = s.pkg := by
  simp [State.downgradeLine]

/-! ### The operations of `Machine/Access` -/

@[simp] theorem State.learn_pkg (s : State) (u : Option Nat) (b va : Nat) : (s.learn u b va).pkg = s.pkg := by
  obtain ⟨l, k, h⟩ := s.learn_shape u b va
  rw [h]

@[simp] theorem State.learnRange_pkg (s : State) (u : Option Nat) (b va n : Nat) :
    (s.learnRange u b va n).pkg = s.pkg := by
  obtain ⟨l, k, h⟩ := s.learnRange_shape u b va n
  rw [h]

@[simp] theorem State.emptyCache_pkg (s : State) (u : Nat) : (s.emptyCache u).pkg = s.pkg := rfl
@[simp] theorem State.flushBasin_pkg (s : State) (b : Nat) : (s.flushBasin b).pkg = s.pkg := rfl

@[simp] theorem State.storePiece_pkg (s : State) (pa : Nat) (bs : Bytes) : (s.storePiece pa bs).pkg = s.pkg :=
  (s.storePiece_frame pa bs).pkg

@[simp] theorem State.storeCoherent_pkg (s : State) (pa : Nat) (bs : Bytes) :
    (s.storeCoherent pa bs).pkg = s.pkg :=
  (s.storeCoherent_frame pa bs).pkg

@[simp] theorem State.cohere_pkg (s : State) (u : Option Nat) (b va n : Nat) :
    (s.cohere u b va n).pkg = s.pkg := by
  unfold State.cohere
  refine State.forEach_pkg _ _ fun t x => ?_
  split
  · simp
  · rfl

@[simp] theorem State.basinWrite_pkg (s : State) (b va : Nat) (bs : Bytes) :
    (s.basinWrite b va bs).1.pkg = s.pkg :=
  (s.basinWrite_frame b va bs).pkg

@[simp] theorem State.complete_pkg (s : State) (r : RingRef) (c : Completion) : (s.complete r c).pkg = s.pkg :=
  (s.complete_frame r c).pkg

@[simp] theorem State.logWrite_pkg (s : State) (b : Nat) (k : LogKind) (entry : Bytes) :
    (s.logWrite b k entry).1.pkg = s.pkg := (s.logWrite_frame b k entry).pkg

@[simp] theorem State.numEvent_pkg (s : State) (b : Nat) (e : NumEvent) : (s.numEvent b e).pkg = s.pkg :=
  (s.numEvent_frame b e).pkg

/-! ### The operations of `Machine/Checks` -/

@[simp] theorem State.checkRecord_pkg (s : State) (u : Nat) (r : CheckRec) : (s.checkRecord u r).pkg = s.pkg :=
  (s.checkRecord_frame u r).pkg

@[simp] theorem State.compareAs_pkg (s : State) (t : Sheets) (u : Nat) (x : W16) (f : Framed) :
    (s.compareAs t u x f).1.pkg = s.pkg := by simp [State.compareAs]

@[simp] theorem State.compareFrame_pkg (s : State) (u : Nat) (f : Framed) : (s.compareFrame u f).pkg = s.pkg := by
  simp [State.compareFrame]

@[simp] theorem State.unframedAs_pkg (s : State) (t : Sheets) (u target : Nat) :
    (s.unframedAs t u target).pkg = s.pkg := by simp [State.unframedAs]

@[simp] theorem State.unframed_pkg (s : State) (u target : Nat) : (s.unframed u target).pkg = s.pkg := by
  simp [State.unframed]

@[simp] theorem State.compareFormer_pkg (s : State) (u : Nat) (old next : FormerCheck) (f : Framed) :
    (s.compareFormer u old next f).pkg = s.pkg := by simp [State.compareFormer]

@[simp] theorem State.checkBarge_pkg (s : State) (basin die : Nat) (d : Desc) (data : Bytes) :
    (s.checkBarge basin die d data).pkg = s.pkg := by
  unfold State.checkBarge
  dsimp only
  split <;> simp

@[simp] theorem State.skipBarge_pkg (s : State) (basin die : Nat) (d : Desc) :
    (s.skipBarge basin die d).pkg = s.pkg := by
  unfold State.skipBarge
  dsimp only
  split <;> simp

@[simp] theorem State.restartChecks_pkg (s : State) (l : Nat) : (s.restartChecks l).pkg = s.pkg := by
  unfold State.restartChecks
  dsimp only
  refine State.forEach_pkg _ _ fun t x => ?_
  rfl

/-! ### The operations of `Machine/Credits` -/

@[simp] theorem State.setPurse_pkg (s : State) (c : Nat) (p : Purse) : (s.setPurse c p).pkg = s.pkg := rfl
@[simp] theorem State.markWaited_pkg (s : State) (k : Nat) : (s.markWaited k).pkg = s.pkg := rfl

@[simp] theorem State.payEngine_pkg (s : State) (c : Nat) (e : Engine) (n : Nat) :
    (s.payEngine c e n).pkg = s.pkg := by
  unfold State.payEngine
  dsimp only
  split
  · rfl
  · simp

@[simp] theorem State.catchUp_pkg (s : State) (c : Nat) (e : Engine) : (s.catchUp c e).pkg = s.pkg := by
  simp [State.catchUp]

/-! ### The operations of `Machine/Dispatching` -/

@[simp] theorem State.precise_start (s : State) (c detail : Nat) : s.SameStart (s.precise c detail) := by
  simp [State.precise]

@[simp] theorem State.seqRun_start (s : State) (c op used : Nat) (bad : W64 → Bool) (body : Core → W64 → State)
    (h : ∀ k w, s.SameStart (body k w)) : s.SameStart (s.seqRun c op used bad body) := by
  unfold State.seqRun
  split
  · simp
  · simp
  · simp [h]

@[simp] theorem State.engineDispatch_start (s : State) (c : Nat) (e : Engine) (op : Nat)
    (check : Core → W64 → Option Nat) (regs : W64 → List Nat) (window : Core → W64 → Option Window) :
    s.SameStart (s.engineDispatch c e op check regs window) := by
  unfold State.engineDispatch
  dsimp only
  split
  · exact ⟨rfl, rfl⟩
  · simp
  · split
    · exact ⟨rfl, rfl⟩
    · split
      · exact ⟨rfl, rfl⟩
      · split
        · simp
        · exact ⟨rfl, rfl⟩

@[simp] theorem State.allocWrite_pkg (s : State) (c off : Nat) (bs : Bytes) :
    (s.allocWrite c off bs).pkg = s.pkg := by
  simp [State.allocWrite]

@[simp] theorem State.summaryMark_pkg (s : State) (b : Nat) (step : W64) (id : W16) (core : Nat) (time : W64)
    (lost : Bool) :
    (s.summaryMark b step id core time lost).pkg = s.pkg := by simp [State.summaryMark]

@[simp] theorem State.flushMarks_pkg (s : State) (c : Nat) (ms : List Mark) : (s.flushMarks c ms).pkg = s.pkg := by
  induction ms generalizing s with
  | nil => rfl
  | cons m ms ih =>
    unfold State.flushMarks
    split
    · rfl
    · simp [ih]

@[simp] theorem State.takeMark_pkg (s : State) (c : Nat) : (s.takeMark c).pkg = s.pkg := by simp [State.takeMark]

@[simp] theorem State.takeAllMarks_pkg (s : State) (c : Nat) : (s.takeAllMarks c).pkg = s.pkg := by
  simp [State.takeAllMarks]

@[simp] theorem State.releaseDraw_pkg (s : State) (c : Nat) : (s.releaseDraw c).pkg = s.pkg := rfl

@[simp] theorem State.grantDraw_pkg (s : State) (c request : Nat) : (s.grantDraw c request).pkg = s.pkg := by
  simp [State.grantDraw]

/-! ### The operations of `Machine/Gauge` -/

@[simp] theorem State.setGauge_pkg (s : State) (cl g : Nat) (v : Gauge) : (s.setGauge cl g v).pkg = s.pkg := by
  simp [State.setGauge]

@[simp] theorem State.coreEvent_pkg (s : State) (c : Nat) (f : InFlight) (kind gauge payload : Nat) :
    (s.coreEvent c f kind gauge payload).pkg = s.pkg := by simp [State.coreEvent]

@[simp] theorem State.updateGauge_pkg (s : State) (c g : Nat) (h : Gauge → Gauge) :
    (s.updateGauge c g h).pkg = s.pkg := by simp [State.updateGauge]

@[simp] theorem State.finishConversion_start (s : State) (c : Nat) (f : InFlight) (field code : Nat)
    (gauge : Option Nat) (copy : Bool) (r : Converted) :
    s.SameStart (s.finishConversion c f field code gauge copy r) := by
  unfold State.finishConversion
  extract_lets gi s1 s2 k s3
  have h1 : s1.pkg = s.pkg := by
    unfold s1
    split <;> simp
  have h2 : s2.pkg = s.pkg := by
    unfold s2
    simp [h1]
  have h3 : s3.pkg = s.pkg := by
    unfold s3
    cases gauge <;> simp [h2]
  clear_value s1 s2 s3
  cases k.region <;> simp [h2, h3]

theorem State.issueGauge_pkg {s : State} {c g : Nat} {step : W64} {t : State}
    (h : s.issueGauge c g step = some t) :
    t.pkg = s.pkg := by
  unfold State.issueGauge at h
  dsimp only at h
  split at h
  · simp at h
  · obtain rfl := Option.some.inj h
    simp

/-! ### The operations of `Machine/Press` -/

@[simp] theorem State.setTally_pkg (s : State) (c : Nat) (f : InFlight) (td : Nat) (int : Bool) (es : List
    (W32 × Bool)) :
    (s.setTally c f td int es).pkg = s.pkg := by simp [State.setTally]

@[simp] theorem State.finishMma_pkg (s : State) (c : Nat) (f : InFlight) : (s.finishMma c f).pkg = s.pkg := by
  unfold State.finishMma
  split
  · rfl
  · simp

@[simp] theorem State.partMma_pkg (s : State) (c : Nat) (f : InFlight) (g : Group) (blocks : Nat) :
    (s.partMma c f g blocks).pkg = s.pkg := by simp [State.partMma]

@[simp] theorem State.finishTout_start (s : State) (c : Nat) (f : InFlight) : s.SameStart (s.finishTout c f) := by
  unfold State.finishTout
  extract_lets w code es off clear vals s1 s2 key r
  have hc (t : State) : t.SameStart (clear t) := by
    unfold clear
    split
    · exact ⟨congrArg _ (State.setCore_pkg _ _ _), congrArg _ (State.setCore_pkg _ _ _)⟩
    · exact ⟨rfl, rfl⟩
  have h2 : s2.pkg = s.pkg := by
    unfold s2 s1
    split <;> simp
  clear_value clear s2
  split <;> simp [hc, h2]

@[simp] theorem State.finishTin_pkg (s : State) (c : Nat) (f : InFlight) : (s.finishTin c f).pkg = s.pkg := by
  simp [State.finishTin]

@[simp] theorem State.finishTzero_pkg (s : State) (c : Nat) (f : InFlight) : (s.finishTzero c f).pkg = s.pkg :=
  State.forEach_pkg _ _ fun _ _ => State.setCore_pkg _ _ _

@[simp] theorem State.finishPress_start (s : State) (c : Nat) (f : InFlight) :
    s.SameStart (s.finishPress c f) := by
  unfold State.finishPress
  split <;> simp

/-! ### The operations of `Machine/Sems` -/

@[simp] theorem State.setSem_pkg (s : State) (c i : Nat) (v : W16) : (s.setSem c i v).pkg = s.pkg := rfl

@[simp] theorem State.semAdd_start (s : State) (c i n index : Nat) : s.SameStart (s.semAdd c i n index) := by
  simp [State.semAdd]

@[simp] theorem State.completeHead_pkg (s : State) (c : Nat) (e : Engine) : (s.completeHead c e).pkg = s.pkg := rfl

@[simp] theorem State.takeExpress_pkg (s : State) (b k n : Nat) (since : Option Nat) :
    (s.takeExpress b k n since).pkg = s.pkg := by simp [State.takeExpress]

/-! ### The operations of `Machine/Barge` -/

@[simp] theorem openOverlap_pkg (segs : List (Nat × Nat)) (s : State) (pa : Nat) (bs : Bytes) :
    (openOverlap segs s pa bs).1.pkg = s.pkg := by
  induction bs generalizing s pa with
  | nil => rfl
  | cons b bs ih =>
    unfold openOverlap
    split <;> simp [ih]

@[simp] theorem State.beatStore_pkg (s : State) (d : Desc) (pa : Nat) (bs : Bytes) :
    (s.beatStore d pa bs).pkg = s.pkg := by simp [State.beatStore]

@[simp] theorem State.learnSpace_pkg (s : State) (m : Mover) (space n : Nat) :
    (s.learnSpace m space n).pkg = s.pkg := by simp [State.learnSpace]

@[simp] theorem State.readCoherent_pkg (s : State) (coherent : Bool) (ps : List (Nat × Nat)) :
    (s.readCoherent coherent ps).pkg = s.pkg := by simp [State.readCoherent]

@[simp] theorem State.beatPoisoned_pkg (s : State) (d : Desc) (pa : Nat) (rs : List (Bytes × Bool)) :
    (s.beatPoisoned d pa rs).pkg = s.pkg := by
  induction rs generalizing s pa with
  | nil => rfl
  | cons r rs ih =>
    unfold State.beatPoisoned
    simp [ih]

@[simp] theorem State.dropRing_pkg (s : State) (x : RingBarge) : (s.dropRing x).pkg = s.pkg := rfl

theorem Move.beat_pkg (m : Mover) (d : Desc) (segs : List (Nat × Nat)) (v : Move) (b : Beat) :
    (v.beat m d segs b).s.pkg = v.s.pkg := by
  unfold Move.beat
  split
  · rfl
  · extract_lets src
    clear_value src
    cases src with
    | error e => rfl
    | ok ps =>
      dsimp -zeta only
      extract_lets parts s1 s2 s3
      have h2 : s2.pkg = v.s.pkg := by
        unfold s2 s1
        cases b.src <;> simp
      clear_value parts s2
      split
      · exact h2
      · dsimp only
        split <;> simp [s3, h2]

@[simp] theorem State.moveBarge_pkg (s : State) (m : Mover) (d : Desc) (limit : Option Nat) :
    (s.moveBarge m d limit).s.pkg = s.pkg := by
  have walk (segs : List (Nat × Nat)) (l : List Beat) (v : Move) :
      (l.foldl (Move.beat m d segs) v).s.pkg = v.s.pkg := by
    induction l generalizing v with
    | nil => rfl
    | cons b l ih => exact (ih _).trans (Move.beat_pkg m d segs v b)
  unfold State.moveBarge
  split
  · rfl
  · exact walk _ _ _

theorem State.coreBargeComplete_start {s : State} {c : Nat} {t : State} (h : s.coreBargeComplete c = some t) :
    s.SameStart t := by
  unfold State.coreBargeComplete at h
  split at h
  · simp at h
  · split at h
    · simp at h
    · dsimp only at h
      split at h
      · simp at h
      · obtain rfl := Option.some.inj h
        simp

theorem State.coreBargeFail_start {s : State} {c : Nat} {t : State} (h : s.coreBargeFail c = some t) :
    s.SameStart t := by
  unfold State.coreBargeFail at h
  split at h
  · simp at h
  · split at h
    · simp at h
    · obtain ⟨e, _, rfl⟩ := Option.map_eq_some_iff.mp h
      simp

theorem State.ringBargeComplete_pkg {s : State} {x : RingBarge} {t : State} (h : s.ringBargeComplete x = some t) :
    t.pkg = s.pkg := by
  unfold State.ringBargeComplete at h
  dsimp only at h
  split at h
  · simp at h
  · obtain rfl := Option.some.inj h
    simp

theorem State.ringBargeFail_pkg {s : State} {x : RingBarge} {t : State} (h : s.ringBargeFail x = some t) :
    t.pkg = s.pkg := by
  obtain ⟨e, _, rfl⟩ := Option.map_eq_some_iff.mp h
  simp

@[simp] theorem State.payRing_pkg (s : State) (x : RingBarge) (n : Nat) : (s.payRing x n).pkg = s.pkg := by
  simp [State.payRing]

@[simp] theorem State.catchUpRing_pkg (s : State) (x : RingBarge) : (s.catchUpRing x).pkg = s.pkg := by
  simp [State.catchUpRing]

@[simp] theorem State.shapeRing_pkg (s : State) (x : RingBarge) : (s.shapeRing x).pkg = s.pkg := by
  simp [State.shapeRing]

theorem State.coreBargeEvent_start {s : State} {c : Nat} {effect : State → Option State}
    (h : ∀ t u : State, effect t = some u → t.SameStart u) : s.SameStart (s.coreBargeEvent c effect) := by
  unfold State.coreBargeEvent
  split
  · simp
  · dsimp only
    cases he : effect (s.catchUp c .barge) with
    | none => simp
    | some u => simpa using h _ u he

theorem State.ringBargeEvent_pkg {s : State} {b r k : Nat} {effect : State → RingBarge → Option State}
    (h : ∀ (t : State) x u, effect t x = some u → u.pkg = t.pkg) :
    (s.ringBargeEvent b r k effect).pkg = s.pkg := by
  unfold State.ringBargeEvent
  split
  · rfl
  · split
    · rfl
    · dsimp only
      split
      · rfl
      · rename_i y _
        cases he : effect (s.catchUpRing _) y with
        | none => simp
        | some u => simpa using h _ y u he

@[simp] theorem State.poisonPiece_pkg (s : State) (piece : Nat) : (s.poisonPiece piece).pkg = s.pkg := by
  unfold State.poisonPiece
  dsimp only
  split
  · rfl
  · simp

/-! ### The operations of `Machine/Endpapers` -/

@[simp] theorem State.countEndpaper_start (s : State) : s.SameStart s.countEndpaper := ⟨rfl, rfl⟩

@[simp] theorem State.keepHeader_start (s : State) (e : Endpaper) : s.SameStart (s.keepHeader e) := by
  simp [State.keepHeader]

@[simp] theorem State.storeLocal_start (s : State) (d : Nat) (e : Endpaper) : s.SameStart (s.storeLocal d e) := by
  simp [State.storeLocal]

@[simp] theorem State.storeProc_start (s : State) (d : Nat) (e : Endpaper) : s.SameStart (s.storeProc d e) :=
  ⟨rfl, rfl⟩

@[simp] theorem State.storeSpine_start (s : State) (d : Nat) (e : Endpaper) : s.SameStart (s.storeSpine d e) :=
  ⟨rfl, rfl⟩

@[simp] theorem State.toHistory_start (s : State) (e : LogEntry) : s.SameStart (s.toHistory e) := ⟨rfl, rfl⟩

@[simp] theorem State.setLog_start (s : State) (w : Option Nat) (l : List LogEntry) :
    s.SameStart (s.setLog w l) := by
  unfold State.setLog
  dsimp only
  split <;> simp

@[simp] theorem State.settle_start (s : State) (p : LogEntry → Bool) (state : Nat) :
    s.SameStart (s.settle p state) := by simp [State.settle]

@[simp] theorem State.amend_start (s : State) (p : LogEntry → Bool) (f : LogEntry → LogEntry) :
    s.SameStart (s.amend p f) := ⟨rfl, rfl⟩

@[simp] theorem State.restate_start (s : State) (p : LogEntry → Bool) (state : Nat) :
    s.SameStart (s.restate p state) := by simp [State.restate]

@[simp] theorem State.resolveContext_start (s : State) (c : Nat) (seq : W32) :
    s.SameStart (s.resolveContext c seq) := by simp [State.resolveContext]

/-! ### The operations of `Machine/Sync` -/

@[simp] theorem State.unitMessage_pkg (s : State) (sender target code basin : Nat) :
    (s.unitMessage sender target code basin).pkg = s.pkg := by simp [State.unitMessage]

@[simp] theorem State.syncStart_start (s : State) (c : Nat) (q : QInstr) : s.SameStart (s.syncStart c q).1 := by
  unfold State.syncStart
  dsimp only
  split
  · split
    · split <;> simp
    · simp
  · split
    · simp
    · split <;> simp
  · split <;> simp
  · split <;> simp
  · split <;> simp
  · split <;> simp

@[simp] theorem State.syncComplete_start (s : State) (c : Nat) (f : InFlight) :
    s.SameStart (s.syncComplete c f) := by
  unfold State.syncComplete
  dsimp only
  split
  · simp
  · simp
  · simp
  · split
    · simp
    · split
      · simp
      · simp
  · simp

@[simp] theorem State.drainAcked_start (c n : Nat) (s : State) : s.SameStart (s.drainAcked c n) := by
  induction n generalizing s with
  | zero => simp [State.drainAcked]
  | succ n ih =>
    unfold State.drainAcked
    split
    · simp
    · simp [ih]

@[simp] theorem State.orphanSignals_pkg (s : State) (c : Nat) : (s.orphanSignals c).pkg = s.pkg := rfl

@[simp] theorem State.releaseWait_start (s : State) (line : Nat) (short : Bool) (c : Nat) :
    s.SameStart (s.releaseWait line short c) := by
  unfold State.releaseWait
  dsimp only
  split <;> simp

@[simp] theorem State.sendDrive_pkg (s : State) (d : Nat) : (s.sendDrive d).pkg = s.pkg := by
  simp [State.sendDrive]

/-! ### The operations of `Machine/Vector` -/

@[simp] theorem State.writePlane_pkg (s : State) (c : Nat) (ins : List (List Plane)) (o : List Plane) (p : Nat)
    (bs : Bytes) : (s.writePlane c ins o p bs).pkg = s.pkg := by
  induction bs generalizing s p with
  | nil => rfl
  | cons b bs ih =>
    unfold State.writePlane
    split <;> simp [ih]

@[simp] theorem State.writeStream_pkg (s : State) (c groups : Nat) (ins : List (List Plane)) (o l : List Plane)
    (bs : Bytes) : (s.writeStream c groups ins o l bs).pkg = s.pkg := by
  induction l generalizing s bs with
  | nil => rfl
  | cons x l ih =>
    unfold State.writeStream
    simp [ih]

@[simp] theorem State.convertStream_start (s : State) (c : Nat) (f : InFlight) (groups field : Nat)
    (gauge : Option Nat) (key : Option SrKey) (ins : List (List Plane)) (off : Nat) (exact : Bool) (vals : List Val) :
    s.SameStart (s.convertStream c f groups field gauge key ins off exact vals) := by
  unfold State.convertStream
  dsimp only
  split
  · split <;> simp
  · simp

@[simp] theorem State.finishScvt_start (s : State) (c : Nat) (f : InFlight) (groups : Nat) :
    s.SameStart (s.finishScvt c f groups) := by
  unfold State.finishScvt
  dsimp only
  split
  · split <;> simp
  · simp

@[simp] theorem State.finishRadd_pkg (s : State) (c : Nat) (f : InFlight) (groups : Nat) :
    (s.finishRadd c f groups).pkg = s.pkg := by simp [State.finishRadd]

@[simp] theorem State.finishSmax_pkg (s : State) (c : Nat) (f : InFlight) (groups : Nat) :
    (s.finishSmax c f groups).pkg = s.pkg := by
  unfold State.finishSmax
  dsimp only
  split
  · split <;> simp
  · simp

@[simp] theorem State.finishFly_start (s : State) (c : Nat) (f : InFlight) (groups : Nat) :
    s.SameStart (s.finishFly c f groups) := by simp [State.finishFly]

@[simp] theorem State.cvtEvents_pkg (s : State) (c : Nat) (f : InFlight) (st dt : Nat) (src : List Nat)
    (beyond : Bool) :
    (s.cvtEvents c f st dt src beyond).pkg = s.pkg := by simp [State.cvtEvents]

@[simp] theorem State.finishVop_pkg (s : State) (c : Nat) (f : InFlight) : (s.finishVop c f).pkg = s.pkg := by
  simp [State.finishVop]

@[simp] theorem State.finishVld_pkg (s : State) (c : Nat) (f : InFlight) : (s.finishVld c f).pkg = s.pkg := rfl

@[simp] theorem State.finishVst_pkg (s : State) (c : Nat) (f : InFlight) : (s.finishVst c f).pkg = s.pkg := by
  simp [State.finishVst]

@[simp] theorem State.finishVget_pkg (s : State) (c : Nat) (f : InFlight) : (s.finishVget c f).pkg = s.pkg := rfl
@[simp] theorem State.finishVput_pkg (s : State) (c : Nat) (f : InFlight) : (s.finishVput c f).pkg = s.pkg := rfl

@[simp] theorem State.writeRecords_pkg (s : State) (c : Nat) (f : InFlight) (op off : Nat)
    (rs : List (Record × Bool)) :
    (s.writeRecords c f op off rs).pkg = s.pkg := by simp [State.writeRecords]

@[simp] theorem State.finishTred_pkg (s : State) (c : Nat) (f : InFlight) : (s.finishTred c f).pkg = s.pkg := by
  simp [State.finishTred]

@[simp] theorem State.finishRmrg_pkg (s : State) (c : Nat) (f : InFlight) : (s.finishRmrg c f).pkg = s.pkg := by
  simp [State.finishRmrg]

@[simp] theorem State.finishVector_start (s : State) (c : Nat) (f : InFlight) :
    s.SameStart (s.finishVector c f) := by
  unfold State.finishVector
  split <;> simp

@[simp] theorem State.partVector_start (s : State) (c : Nat) (f : InFlight) (groups : Nat) :
    s.SameStart (s.partVector c f groups) := by
  unfold State.partVector
  split <;> simp

/-! ### The operations of `Machine/Engines` -/

@[simp] theorem State.putInFlight_pkg (s : State) (c : Nat) (e : Engine) (f : InFlight) :
    (s.putInFlight c e f).pkg = s.pkg := rfl

@[simp] theorem State.issueCompute_start (s : State) (c : Nat) (e : Engine) (q : QInstr) :
    s.SameStart (s.issueCompute c e q) := by
  unfold State.issueCompute
  extract_lets fly data charges f
  clear_value fly data charges f
  split
  · simp
  · split
    · simp
    · split
      · simp
      · simp
      · split
        · simp
        · simp [State.issueGauge_pkg ‹_›]

@[simp] theorem State.issueNext_start (s : State) (c : Nat) (e : Engine) (q : QInstr) :
    s.SameStart (s.issueNext c e q) := by simp [State.issueNext]

@[simp] theorem State.issueBarge_pkg (s : State) (c : Nat) (q : QInstr) : (s.issueBarge c q).pkg = s.pkg := by
  simp [State.issueBarge]

@[simp] theorem State.issueSync_start (s : State) (c : Nat) (q : QInstr) : s.SameStart (s.issueSync c q) := by
  simp [State.issueSync]

theorem State.completeOldest_start {s : State} {c : Nat} {e : Engine} {t : State}
    (h : s.completeOldest c e = some t) : s.SameStart t := by
  unfold State.completeOldest at h
  split at h
  · simp at h
  · split at h
    · simp at h
    · cases e with
      | press => obtain rfl := Option.some.inj h; simp
      | vector => obtain rfl := Option.some.inj h; simp
      | barge => exact State.coreBargeComplete_start h
      | sync => obtain rfl := Option.some.inj h; simp

/-! ### The operations of `Machine/Rings` -/

@[simp] theorem State.takeEntry_pkg (s : State) (b r : Nat) (x : RingRef) : (s.takeEntry b r x).pkg = s.pkg := rfl

theorem State.nextOf_pkg {s : State} {b r type : Nat} {x : RingRef} {e : Bytes} {t : State}
    (h : s.nextOf b r type = some (x, e, t)) : t.pkg = s.pkg := by
  unfold State.nextOf at h
  split at h
  · simp at h
  · split at h
    · simp at h
    · split at h
      · simp at h
      · obtain ⟨rfl, rfl, rfl⟩ := by simpa using h
        simp

/-! ### The operations of `Machine/Context` -/

@[simp] theorem State.allocSems_pkg (s : State) (c n : Nat) : (s.allocSems c n).1.pkg = s.pkg := rfl
@[simp] theorem State.freeSemsOf_pkg (s : State) (c : Nat) : (s.freeSemsOf c).pkg = s.pkg := rfl
@[simp] theorem State.payLoad_pkg (s : State) (c n : Nat) : (s.payLoad c n).pkg = s.pkg := by simp [State.payLoad]

@[simp] theorem State.catchUpLoad_pkg (s : State) (c : Nat) : (s.catchUpLoad c).pkg = s.pkg := by
  simp [State.catchUpLoad]

@[simp] theorem State.dropOldest_pkg (s : State) (c : Nat) (e : Engine) : (s.dropOldest c e).pkg = s.pkg := rfl

@[simp] theorem State.chargeBegun_pkg (s : State) (c : Nat) (charges : List Charge) (n : Nat) :
    (s.chargeBegun c charges n).pkg = s.pkg := rfl

@[simp] theorem State.cutPress_start (c n : Nat) (s : State) : s.SameStart (s.cutPress c n) := by
  induction n generalizing s with
  | zero => simp [State.cutPress]
  | succ n ih =>
    unfold State.cutPress
    split
    · simp
    · split
      · simp [ih]
      · split <;> simp
      · simp

@[simp] theorem State.cutVector_start (c n : Nat) (s : State) : s.SameStart (s.cutVector c n) := by
  induction n generalizing s with
  | zero => simp [State.cutVector]
  | succ n ih =>
    unfold State.cutVector
    split
    · simp
    · split <;> simp [ih]

@[simp] theorem State.cutBarge_pkg (s : State) (m : Mover) (d : Desc) (paid : Nat) (read : Bool) (detail : Nat) :
    (s.cutBarge m d paid read detail).pkg = s.pkg := by simp [State.cutBarge]

@[simp] theorem State.cutFlight_pkg (s : State) (c : Nat) (f : InFlight) : (s.cutFlight c f).pkg = s.pkg := by
  unfold State.cutFlight
  split
  · simp
  · rfl

@[simp] theorem State.cutRing_pkg (s : State) (x : RingBarge) : (s.cutRing x).pkg = s.pkg := by
  simp [State.cutRing]

@[simp] theorem State.endBegun_start (s : State) (c : Nat) : s.SameStart (s.endBegun c) := by simp [State.endBegun]

@[simp] theorem State.resetContext_pkg (s : State) (c : Nat) : (s.resetContext c).pkg = s.pkg := by
  simp [State.resetContext]

/-! ### The operations of `Machine/Units` -/

@[simp] theorem State.resetCore_start (s : State) (c code : Nat) : s.SameStart (s.resetCore c code) := by
  unfold State.resetCore
  dsimp only
  split
  · simp
  · split <;> simp

@[simp] theorem State.failRing_pkg (s : State) (code : Nat) (x : RingBarge) : (s.failRing code x).pkg = s.pkg := by
  simp [State.failRing]

@[simp] theorem State.resetCluster_start (s : State) (k code : Nat) : s.SameStart (s.resetCluster k code) := by
  simp [State.resetCluster]

@[simp] theorem State.grantCluster_pkg (s : State) (k : Nat) : (s.grantCluster k).pkg = s.pkg := rfl
@[simp] theorem State.wipeDdr_pkg (s : State) (lo n : Nat) : (s.wipeDdr lo n).pkg = s.pkg := rfl

@[simp] theorem State.wipeRange_pkg (s : State) (i : Nat) : (s.wipeRange i).pkg = s.pkg := by
  unfold State.wipeRange
  dsimp only
  split
  · simp
  · simp
  · simp
  · rfl

@[simp] theorem State.wipeGib_pkg (s : State) (i kind gib : Nat) : (s.wipeGib i kind gib).pkg = s.pkg := by
  unfold State.wipeGib
  dsimp only
  split <;> simp

@[simp] theorem State.failBarges_pkg (s : State) (hit : Nat → Nat → Bool) : (s.failBarges hit).pkg = s.pkg := by
  unfold State.failBarges
  extract_lets cores s1 touched s2
  have h1 : s1.pkg = s.pkg := State.forEach_pkg _ _ fun t e => by simp
  exact (State.forEach_pkg _ _ fun t x => by simp).trans h1

@[simp] theorem State.installMap_pkg (s : State) (b : Nat) : (s.installMap b).pkg = s.pkg := by
  unfold State.installMap
  cases basinGibs s.sheets b with
  | nil => rfl
  | cons g gs =>
    refine (State.setBasin_pkg _ _ _).trans ?_
    rw [State.ite_pkg, State.writeBytes_pkg, ite_self]

@[simp] theorem State.flushCaches_pkg (s : State) (d : Nat) : (s.flushCaches d).pkg = s.pkg := by
  simp [State.flushCaches]

@[simp] theorem State.setDomain_start (s : State) (n : Nat) (on : Bool) : s.SameStart (s.setDomain n on) := by
  simp [State.setDomain]

@[simp] theorem State.startComplexes_start (s : State) (b : Nat) (xs : List Nat) :
    s.SameStart (s.startComplexes b xs) := by simp [State.startComplexes]

@[simp] theorem State.deriveMap_pkg (s : State) (d : Nat) : (s.deriveMap d).pkg = s.pkg := rfl

@[simp] theorem State.prepareBasin_start (s : State) (b : Nat) : s.SameStart (s.prepareBasin b) := by
  simp [State.prepareBasin]

@[simp] theorem State.grantBasin_pkg (s : State) (b : Nat) : (s.grantBasin b).pkg = s.pkg := by
  unfold State.grantBasin
  split
  · rfl
  · refine State.forEach_pkg _ _ fun t x => ?_
    simp

@[simp] theorem State.beginOpen_start (s : State) (b : Nat) : s.SameStart (s.beginOpen b) := by
  simp [State.beginOpen]

@[simp] theorem State.endOpen_start (s : State) (b : Nat) : s.SameStart (s.endOpen b) := by simp [State.endOpen]

@[simp] theorem State.closeBasin_pkg (s : State) (b : Nat) : (s.closeBasin b).pkg = s.pkg := by
  simp [State.closeBasin]

/-! ### The operations of `Machine/Mailbox` -/

@[simp] theorem State.reply_pkg (s : State) (b status code : Nat) (result : Bytes) :
    (s.reply b status code result).pkg = s.pkg := by
  unfold State.reply
  dsimp only
  split
  · rfl
  · simp

@[simp] theorem State.replyDone_pkg (s : State) (b : Nat) (result : Bytes) : (s.replyDone b result).pkg = s.pkg := by
  simp [State.replyDone]

@[simp] theorem State.replyRefused_pkg (s : State) (b code : Nat) : (s.replyRefused b code).pkg = s.pkg := by
  simp [State.replyRefused]

/-- A mailbox command is left alone, answered at once, or run on a state whose package is that of `s`. -/
theorem State.command_of {P : State → Prop} {s : State} {b code : Nat} {admin : Bool} {ok : Bytes → Bool}
    {run : Bytes → State → State} (hs : ∀ t, s.SameStart t → P t) (hrun : ∀ a t, t.pkg = s.pkg → P (run a t)) :
    P (s.command b code admin ok run) := by
  unfold State.command
  dsimp only
  split
  · exact hs _ ⟨rfl, rfl⟩
  · split
    · exact hs _ (by simp)
    · split
      · exact hs _ (by simp)
      · split
        · exact hs _ (by simp)
        · exact hrun _ _ (State.setBasin_pkg _ _ _)

theorem State.command_start_of {s : State} {b code : Nat} {admin : Bool} {ok : Bytes → Bool}
    {run : Bytes → State → State} (h : ∀ (a : Bytes) (t : State), t.pkg = s.pkg → s.SameStart (run a t)) :
    s.SameStart (s.command b code admin ok run) :=
  State.command_of (fun _ ht => ht) h

@[simp] theorem State.command_start (s : State) (b code : Nat) (admin : Bool) (ok : Bytes → Bool)
    (run : Bytes → State → State) (h : ∀ (a : Bytes) (t : State), t.SameStart (run a t)) :
    s.SameStart (s.command b code admin ok run) :=
  State.command_start_of fun a t ht => by simpa [ht] using h a t

@[simp] theorem State.deferOn_pkg (s : State) (b unit : Nat) : (s.deferOn b unit).pkg = s.pkg := by
  unfold State.deferOn
  dsimp only
  split
  · simp
  · rfl

/-! ### The operations of `Machine/Start` -/

@[simp] theorem State.alert_start (s : State) (i : Nat) (on : Bool) : s.SameStart (s.alert i on) := ⟨rfl, rfl⟩

@[simp] theorem State.writeSelector_start (s : State) (slot : Nat) (pending : Bool) (quireSeq : W64) :
    s.SameStart (s.writeSelector slot pending quireSeq) := by simp [State.writeSelector]

@[simp] theorem State.sendVcore_pkg (s : State) (d old new : Nat) : (s.sendVcore d old new).pkg = s.pkg := by
  unfold State.sendVcore
  refine State.forEach_pkg _ _ fun t x => ?_
  simp

@[simp] theorem State.lockPlls_pkg (s : State) : s.lockPlls.pkg = s.pkg := by simp [State.lockPlls]

@[simp] theorem State.settleDomains_start (s : State) : s.SameStart s.settleDomains := by
  simp [State.settleDomains]

@[simp] theorem State.grantSluice_pkg (s : State) (d : Nat) : (s.grantSluice d).pkg = s.pkg := by
  simp [State.grantSluice]

@[simp] theorem State.initPort_pkg (s : State) (p : Nat) : (s.initPort p).pkg = s.pkg := rfl

/-! ### The operations of `Machine/Clock` -/

@[simp] theorem State.sendIsolation_pkg (s : State) (d reason : Nat) : (s.sendIsolation d reason).pkg = s.pkg := by
  unfold State.sendIsolation
  refine State.forEach_pkg _ _ fun t x => ?_
  simp

@[simp] theorem State.retarget_pkg (s : State) (x : Nat) : (s.retarget x).pkg = s.pkg := by simp [State.retarget]
@[simp] theorem State.csrTrap_pkg (s : State) (h cause : Nat) : (s.csrTrap h cause).pkg = s.pkg := rfl

@[simp] theorem State.misuseOf_start (s : State) (b : Option Nat) (bad : Bool) :
    s.SameStart (s.misuseOf b bad) := by
  unfold State.misuseOf
  split <;> simp

/-! ### The operations of `Machine/SluiceOps` -/

@[simp] theorem State.paySluice_pkg (s : State) (d : Nat) : (s.paySluice d).pkg = s.pkg := by
  unfold State.paySluice
  dsimp only
  split
  · rfl
  · simp

@[simp] theorem State.addJob_pkg (s : State) (d b units each : Nat) (act : SluiceAct) :
    (s.addJob d b units each act).pkg = s.pkg := rfl

@[simp] theorem State.addCarryJob_pkg (s : State) (d b units : Nat) (act : SluiceAct) :
    (s.addCarryJob d b units act).pkg = s.pkg := rfl

@[simp] theorem State.openRead_pkg (s : State) (b va n : Nat) : (s.openRead b va n).2.pkg = s.pkg := by
  obtain ⟨k, h⟩ := s.openRead_shape b va n
  rw [h]

@[simp] theorem State.put_pkg (s : State) (b va : Nat) (bs : Bytes) : (s.put b va bs).pkg = s.pkg :=
  (s.put_frame b va bs).pkg

@[simp] theorem State.slcEvent_pkg (s : State) (a : SlcAt) (kind member : Nat) (slow : Bool) (count : Nat) :
    (s.slcEvent a kind member slow count).pkg = s.pkg := (s.slcEvent_frame a kind member slow count).pkg

@[simp] theorem State.countDrop_pkg (s : State) (d : Nat) : (s.countDrop d).pkg = s.pkg := rfl

@[simp] theorem State.readMoments_pkg (s : State) (b d l : Nat) (area : W64) (e : BucketEntry) :
    (s.readMoments b d l area e).2.pkg = s.pkg := by simp [State.readMoments]

@[simp] theorem State.writeMoments_pkg (s : State) (b d l : Nat) (area : W64) (e : BucketEntry) (bs : Bytes) :
    (s.writeMoments b d l area e bs).pkg = s.pkg := by simp [State.writeMoments]

@[simp] theorem State.workLost_start (s : State) (b d : Nat) : s.SameStart (s.workLost b d) := ⟨rfl, rfl⟩

@[simp] theorem State.setCarry_pkg (s : State) (b d : Nat) (c : Carry) : (s.setCarry b d c).pkg = s.pkg := by
  simp [State.setCarry]

@[simp] theorem State.dropCarry_pkg (s : State) (b d : Nat) (c : Carry) : (s.dropCarry b d c).pkg = s.pkg := by
  simp [State.dropCarry]

theorem State.openCarry_pkg {s : State} {b d : Nat} {bucket step : W32} {len : Nat} {t : State}
    (h : s.openCarry b d bucket step len = some t) :
    t.pkg = s.pkg := by
  unfold State.openCarry at h
  split at h
  · obtain rfl := Option.some.inj h
    simp
  · split at h
    · obtain rfl := Option.some.inj h
      simp
    · simp at h

@[simp] theorem State.addCarry_pkg (s : State) (b d : Nat) (bucket step : W32) (x : List W32) :
    (s.addCarry b d bucket step x).pkg = s.pkg := by
  unfold State.addCarry
  split
  · rfl
  · rename_i t ht
    split
    · exact State.openCarry_pkg ht
    · rw [State.writeBytes_pkg, State.openCarry_pkg ht]

@[simp] theorem State.setCollRing_pkg (s : State) (b d : Nat) (c : CollRing) : (s.setCollRing b d c).pkg = s.pkg :=
  rfl

@[simp] theorem State.writeColl_pkg (s : State) (b d off : Nat) (bs : Bytes) :
    (s.writeColl b d off bs).pkg = s.pkg := by
  induction bs generalizing s off with
  | nil => rfl
  | cons x xs ih => exact (ih _ _).trans (State.setByte_pkg _ _ _)

theorem State.appendColl_pkg {s : State} {b d : Nat} {record : Bytes} {t : State} {n : Nat}
    (h : s.appendColl b d record = some (t, n)) : t.pkg = s.pkg := by
  unfold State.appendColl at h
  dsimp only at h
  split at h
  · simp at h
  · obtain ⟨rfl, rfl⟩ := by simpa using h
    simp

/-! ### The operations of `Machine/Ports` -/

@[simp] theorem State.portError_start (s : State) (code p : Nat) : s.SameStart (s.portError code p) := ⟨rfl, rfl⟩

@[simp] theorem State.sendControl_pkg (s : State) (p key : Nat) (f : TowFrame) :
    (s.sendControl p key f).pkg = s.pkg := rfl

@[simp] theorem State.sendFrame_pkg (s : State) (p : Nat) (x : Sent) : (s.sendFrame p x).pkg = s.pkg := by
  simp [State.sendFrame]

@[simp] theorem State.pumpFuel_pkg (p n : Nat) (s : State) : (s.pumpFuel p n).pkg = s.pkg := by
  induction n generalizing s with
  | zero => rfl
  | succ n ih =>
    unfold State.pumpFuel
    split <;> simp [ih]

@[simp] theorem State.sendTests_pkg (p n : Nat) (s : State) : (s.sendTests p n).pkg = s.pkg := by
  induction n generalizing s with
  | zero => rfl
  | succ n ih =>
    unfold State.sendTests
    dsimp only
    split
    · rfl
    · split <;> simp [ih]

@[simp] theorem State.pump_pkg (s : State) (p : Nat) : (s.pump p).pkg = s.pkg := by simp [State.pump]

@[simp] theorem State.kick_pkg (s : State) (key : Nat) : (s.kick key).pkg = s.pkg := by
  unfold State.kick
  dsimp only
  split
  · rfl
  · simp

@[simp] theorem State.takeBack_pkg (s : State) (p key : Nat) : (s.takeBack p key).pkg = s.pkg := rfl

@[simp] theorem State.reroute_start (s : State) (key : Nat) : s.SameStart (s.reroute key) := by
  unfold State.reroute
  dsimp only
  split
  · simp
  · split <;> split <;> simp

@[simp] theorem State.rerouteAll_start (s : State) (p : Nat) : s.SameStart (s.rerouteAll p) := by
  simp [State.rerouteAll]

@[simp] theorem State.ackFrame_pkg (s : State) (key : Nat) (alive : W16) : (s.ackFrame key alive).pkg = s.pkg := by
  unfold State.ackFrame
  dsimp only
  split
  · rfl
  · split
    · split <;> split <;> simp
    · split <;> simp

@[simp] theorem State.ackThrough_pkg (s : State) (key : Nat) (last : W16) : (s.ackThrough key last).pkg = s.pkg := by
  simp [State.ackThrough]

@[simp] theorem State.replayFlow_pkg (s : State) (p key : Nat) (alive : W16) :
    (s.replayFlow p key alive).pkg = s.pkg := by simp [State.replayFlow]

@[simp] theorem State.resetFlow_pkg (s : State) (key code : Nat) : (s.resetFlow key code).pkg = s.pkg := by
  unfold State.resetFlow
  dsimp only
  split <;> simp

@[simp] theorem State.sendPayloads_start (s : State) (key cls : Nat) (epoch : Byte) (payloads : List Bytes) :
    s.SameStart (s.sendPayloads key cls epoch payloads) := by simp [State.sendPayloads]

@[simp] theorem State.portDown_start (s : State) (p : Nat) : s.SameStart (s.portDown p) := by simp [State.portDown]
@[simp] theorem State.portUp_start (s : State) (p : Nat) : s.SameStart (s.portUp p) := by simp [State.portUp]

@[simp] theorem State.restartCount_pkg (s : State) (p : Nat) : (s.restartCount p).pkg = s.pkg := by
  simp [State.restartCount]

/-! ### The operations of `Machine/Slices` -/

@[simp] theorem State.putSlice_pkg (s : State) (x : Slice) : (s.putSlice x).pkg = s.pkg := by simp [State.putSlice]

@[simp] theorem State.sendPieces_start (s : State) (b d kind target : Nat) (m : SluiceMsg) :
    s.SameStart (s.sendPieces b d kind target m) := by simp [State.sendPieces]

@[simp] theorem State.sendMsg_pkg (s : State) (b d kind target : Nat) (m : SluiceMsg) :
    (s.sendMsg b d kind target m).pkg = s.pkg := rfl

@[simp] theorem State.sendNorm_start (s : State) (b kind target : Nat) (step : W32) (q : W64) :
    s.SameStart (s.sendNorm b kind target step q) := by simp [State.sendNorm]

@[simp] theorem State.refillNorms_start (s : State) : s.SameStart s.refillNorms := by simp [State.refillNorms]

@[simp] theorem State.flushEvents_pkg (s : State) (x : Slice) : (s.flushEvents x).pkg = s.pkg := by
  unfold State.flushEvents
  split
  · simp
  · split
    · simp
    · simp [State.appendColl_pkg ‹_›]

@[simp] theorem State.shelve_pkg (s : State) (x : Slice) : (s.shelve x).pkg = s.pkg := by simp [State.shelve]

/-- `writeShelved` over any way to append a record: the unfolding of `appendColl`, which bounds a count by the size of a
ring, stays out of the recursion. -/
def State.shelveWith (append : State → Nat → Nat → Bytes → Option (State × Nat)) (b d : Nat) (s : State) :
    List (Nat × Bytes) → State
  | [] => s
  | r :: rs =>
    match append s b d r.2 with
    | none => s
    | some (t, _) =>
      State.shelveWith append b d (t.setSluice d { t.sluice d with records := (t.sluice d).records.erase r }) rs

theorem State.writeShelved_eq_shelveWith (s : State) (b d : Nat) (l : List (Nat × Bytes)) :
    s.writeShelved b d l = s.shelveWith State.appendColl b d l := by
  delta State.writeShelved State.writeShelved._f State.shelveWith State.shelveWith._f
  generalize State.appendColl = append
  rfl

theorem State.shelveWith_pkg {append : State → Nat → Nat → Bytes → Option (State × Nat)}
    (ha : ∀ {s b d bs t n}, append s b d bs = some (t, n) → t.pkg = s.pkg) (b d : Nat) (s : State)
    (l : List (Nat × Bytes)) : (s.shelveWith append b d l).pkg = s.pkg := by
  induction l generalizing s with
  | nil => rfl
  | cons r l ih =>
    rw [State.shelveWith]
    split
    · rfl
    · rename_i h
      exact (ih _).trans ((State.setSluice_pkg _ _ _).trans (ha h))

@[simp] theorem State.writeShelved_pkg (s : State) (b d : Nat) (l : List (Nat × Bytes)) :
    (s.writeShelved b d l).pkg = s.pkg := by
  rw [State.writeShelved_eq_shelveWith]
  exact State.shelveWith_pkg State.appendColl_pkg b d s l

@[simp] theorem State.patchRecord_pkg (s : State) (x : Slice) : (s.patchRecord x).pkg = s.pkg := by
  unfold State.patchRecord
  dsimp only
  split
  · rfl
  · simp

@[simp] theorem State.putBucket_pkg (s : State) (k : Bucket) : (s.putBucket k).pkg = s.pkg := rfl

@[simp] theorem State.dropCarries_pkg (s : State) (x : StepDesc) (d : Nat) : (s.dropCarries x d).pkg = s.pkg := by
  unfold State.dropCarries
  exact State.forEach_pkg _ _ fun _ _ => (State.countDrop_pkg _ _).trans (State.dropCarry_pkg _ _ _ _)

@[simp] theorem State.tryRetire_pkg (s : State) (x : StepDesc) : (s.tryRetire x).pkg = s.pkg := by
  simp [State.tryRetire]

@[simp] theorem State.closeBucket_pkg (s : State) (x : StepDesc) (k : Bucket) (status missing : Nat) :
    (s.closeBucket x k status missing).pkg = s.pkg := by simp [State.closeBucket]

@[simp] theorem State.tryDone_pkg (s : State) (b d : Nat) (step : W64) (entry : Nat) :
    (s.tryDone b d step entry).pkg = s.pkg := by
  unfold State.tryDone
  split
  · split
    · rfl
    · simp
  · rfl

@[simp] theorem State.startUpdate_pkg (s : State) (x : Slice) : (s.startUpdate x).pkg = s.pkg := by
  simp [State.startUpdate]

@[simp] theorem State.applyTotal_pkg (s : State) (x : Slice) (q : W64) : (s.applyTotal x q).pkg = s.pkg := by
  simp [State.applyTotal]

@[simp] theorem State.putNorm_pkg (s : State) (n : NormTree) : (s.putNorm n).pkg = s.pkg := rfl

@[simp] theorem State.deliverTotal_start (s : State) (n : NormTree) (q : W64) : s.SameStart (s.deliverTotal n q) := by
  simp [State.deliverTotal]

@[simp] theorem State.normTry_start (s : State) (b : Nat) (step : W32) : s.SameStart (s.normTry b step) := by
  unfold State.normTry
  dsimp only
  split <;> simp

@[simp] theorem State.leaveClosed_start (s : State) (x : Slice) : s.SameStart (s.leaveClosed x) := by
  unfold State.leaveClosed
  dsimp only
  split
  · simp
  · split
    · simp
    · split
      · split <;> simp
      · simp

@[simp] theorem State.tryRecord_start (s : State) (x : Slice) : s.SameStart (s.tryRecord x) := by
  unfold State.tryRecord
  dsimp only
  split
  · simp
  · split
    · simp
    · split
      · simp
      · simp [State.appendColl_pkg ‹_›]

@[simp] theorem State.dropItem_pkg (s : State) (x : Slice) (y : Staged) (noted : Bool) :
    (s.dropItem x y noted).pkg = s.pkg := by simp [State.dropItem]

@[simp] theorem State.quarantineItem_pkg (s : State) (x : Slice) (y : Staged) (kind : Nat) :
    (s.quarantineItem x y kind).pkg = s.pkg := by simp [State.quarantineItem]

@[simp] theorem State.lateAs_start (s : State) (x : Slice) (y : Staged) (drop : Bool) :
    s.SameStart (s.lateAs x y drop) := by
  unfold State.lateAs
  dsimp only
  split
  · simp
  · split
    · simp
    · split
      · simp
      · simp [State.openCarry_pkg ‹_›]

@[simp] theorem State.lateNow_start (s : State) (x : Slice) (y : Staged) : s.SameStart (s.lateNow x y) := by
  unfold State.lateNow
  split <;> simp

@[simp] theorem State.lateItem_start (s : State) (x : Slice) (y : Staged) : s.SameStart (s.lateItem x y) := by
  simp [State.lateItem]

@[simp] theorem State.closeGate_start (s : State) (x : Slice) : s.SameStart (s.closeGate x) := by
  unfold State.closeGate
  extract_lets late x' s1 s2 s3
  have h2 : s2.pkg = s.pkg := by
    unfold s2 s1
    simp
  have h3 : s.SameStart s3 := by
    unfold s3
    refine State.SameStart.trans (t := s2.putSlice x') (by simp [h2]) (State.forEach_start _ _ fun t y => ?_)
    split <;> simp
  clear_value s3
  split <;> simp [h3]

@[simp] theorem State.beginAdmit_pkg (s : State) (x : Slice) (y : Staged) : (s.beginAdmit x y).pkg = s.pkg := by
  simp [State.beginAdmit]

@[simp] theorem State.admitCarry_pkg (s : State) (x : Slice) (c : Carry) : (s.admitCarry x c).pkg = s.pkg := by
  simp [State.admitCarry]

@[simp] theorem State.replayMismatch_start (s : State) (x : Slice) (member : Nat) (slow : Bool) :
    s.SameStart (s.replayMismatch x member slow) := by simp [State.replayMismatch]

@[simp] theorem State.replayFuel_start (n : Nat) (s : State) (x : Slice) :
    s.SameStart (State.replayFuel n s x) := by
  induction n generalizing s x with
  | zero => simp [State.replayFuel]
  | succ n ih =>
    unfold State.replayFuel
    extract_lets onward listed
    have ho (t : State) : t.SameStart (onward t) := by
      unfold onward
      split
      · exact ih _ _
      · simp
    clear_value onward listed
    split
    · simp
    · split
      · simp [ho]
      · split
        · simp
        · split
          · split <;> simp
          · split
            · simp
            · dsimp only
              split
              · split <;> simp
              · simp [ho]
              · simp [ho]
              · split <;> simp [ho]

@[simp] theorem State.acceptReplay_start (s : State) (x : Slice) (y : Staged) :
    s.SameStart (s.acceptReplay x y) := by
  unfold State.acceptReplay
  dsimp only
  split <;> simp

@[simp] theorem State.nextAdmit_start (s : State) (x : Slice) : s.SameStart (s.nextAdmit x) := by
  unfold State.nextAdmit
  split
  · simp
  · split
    · simp
    · split <;> simp

@[simp] theorem State.acceptItem_start (s : State) (x : Slice) (y : Staged) : s.SameStart (s.acceptItem x y) := by
  unfold State.acceptItem
  dsimp only
  split
  · simp
  · split
    · simp
    · split
      · simp
      · split <;> simp

@[simp] theorem State.openSlice_start (s : State) (y : StepDesc) (e : BucketEntry) (held : Slice) :
    s.SameStart (s.openSlice y e held) := by
  unfold State.openSlice
  dsimp only
  refine State.SameStart.trans ?_ (State.forEach_start _ _ fun t x => ?_)
  · split
    · simp
    · split <;> simp
  · split <;> simp

theorem State.receive_start {s : State} {k : SliceKey} {y : Staged} {t : State}
    (h : s.receive k y = some t) :
    s.SameStart t := by
  unfold State.receive at h
  dsimp only at h
  split at h
  · cases h
    simp
  · cases h
    simp
  · split at h
    · cases h
    · split at h <;> cases h <;> simp
  · split at h
    · cases h
      simp
    · split at h
      · cases h
      · cases h
        simp
  · split at h <;> cases h <;> simp
  · cases h
    simp

@[simp] theorem State.drainHeld_start (s : State) (b : Nat) : s.SameStart (s.drainHeld b) := by
  unfold State.drainHeld
  refine State.forEach_start _ _ fun t x => ?_
  split
  · split <;> simp
  · simp

@[simp] theorem State.openReplays_start (s : State) (y : StepDesc) : s.SameStart (s.openReplays y) := by
  unfold State.openReplays
  dsimp only
  split
  · simp
  · refine State.forEach_start _ _ fun t x => ?_
    refine State.forEach_start _ _ fun t x => ?_
    split <;> simp

@[simp] theorem State.finishSlice_start (s : State) (x : Slice) : s.SameStart (s.finishSlice x) := by
  unfold State.finishSlice
  dsimp only
  split
  · simp
  · split
    · simp
    · split <;> simp

@[simp] theorem State.tryFinish_start (s : State) (x : Slice) : s.SameStart (s.tryFinish x) := by
  simp [State.tryFinish]

@[simp] theorem State.discardBasin_pkg (s : State) (b code : Nat) : (s.discardBasin b code).pkg = s.pkg := by
  simp [State.discardBasin]

/-! ### The operations of `Machine/Sluice` -/

@[simp] theorem State.slcEpoch_pkg (s : State) (b d : Nat) (m : SluiceMsg) : (s.slcEpoch b d m).2.pkg = s.pkg := by
  unfold State.slcEpoch
  dsimp only
  split <;> simp

@[simp] theorem State.dropMsg_pkg (s : State) (b d : Nat) (m : SluiceMsg) : (s.dropMsg b d m).pkg = s.pkg := by
  simp [State.dropMsg]

@[simp] theorem State.corruptMsg_pkg (s : State) (b d : Nat) (m : SluiceMsg) : (s.corruptMsg b d m).pkg = s.pkg := by
  simp [State.corruptMsg]

@[simp] theorem State.checkParams_pkg (s : State) (mode b d slice : Nat) (m : SluiceMsg) :
    (s.checkParams mode b d slice m).pkg = s.pkg := by simp [State.checkParams]

theorem State.takeContribution_start {s : State} {b d : Nat} {m : SluiceMsg} {marker : Bool} {t : State}
    (h : s.takeContribution b d m marker = some t) :
    s.SameStart t := by
  unfold State.takeContribution at h
  dsimp only at h
  split at h
  · split at h
    · cases h
      simp
    · simp [State.receive_start ‹_›]
  · split at h
    · cases h
      simp
    · simp [State.receive_start ‹_›]

theorem State.takeParams_pkg {s : State} {b d : Nat} {m : SluiceMsg} {t : State}
    (h : s.takeParams b d m = some t) :
    t.pkg = s.pkg := by
  unfold State.takeParams at h
  dsimp only at h
  split at h
  · split at h
    · cases h
    · cases h
      simp
  · split at h
    · split at h
      · cases h
        simp
      · split at h
        · cases h
          simp
        · obtain rfl := Option.some.inj h
          simp
    · cases h
      simp

theorem State.takePartial_start {s : State} {b : Nat} {m : SluiceMsg} {q : W64} {t : State}
    (h : s.takePartial b m q = some t) :
    s.SameStart t := by
  unfold State.takePartial at h
  dsimp only at h
  split at h <;> split at h <;> cases h <;> simp

@[simp] theorem State.takeTotal_start (s : State) (b : Nat) (m : SluiceMsg) (q : W64) :
    s.SameStart (s.takeTotal b m q) := by
  unfold State.takeTotal
  split <;> simp

@[simp] theorem State.keepWard_pkg (s : State) (b d : Nat) (e : BucketEntry) (step : W32) :
    (s.keepWard b d e step).pkg = s.pkg := rfl

theorem State.takeMirror_start {s : State} {b d : Nat} {m : SluiceMsg} {t : State}
    (h : s.takeMirror b d m = some t) :
    s.SameStart t := by
  unfold State.takeMirror at h
  dsimp only at h
  split at h <;> split at h <;> cases h <;> simp

@[simp] theorem State.takeAck_start (s : State) (k : SliceKey) : s.SameStart (s.takeAck k) := by
  unfold State.takeAck
  split <;> simp

@[simp] theorem State.takeRequest_pkg (s : State) (b d : Nat) (m : SluiceMsg) :
    (s.takeRequest b d m).pkg = s.pkg := by
  unfold State.takeRequest
  dsimp only
  split
  · simp
  · split
    · simp
    · split
      · split <;> simp
      · simp

@[simp] theorem State.takeRefetched_pkg (s : State) (b d : Nat) (m : SluiceMsg) :
    (s.takeRefetched b d m).pkg = s.pkg := by
  unfold State.takeRefetched
  dsimp only
  split
  · simp
  · split
    · split <;> simp
    · simp

theorem State.takeMsg_start {s : State} {kind b d : Nat} {m : SluiceMsg} {t : State}
    (h : s.takeMsg kind b d m = some t) :
    s.SameStart t := by
  unfold State.takeMsg at h
  split at h
  · simp [State.takeContribution_start ‹_›]
  · simp [State.takeContribution_start ‹_›]
  · simp [State.takeParams_pkg ‹_›]
  · simp [State.takePartial_start ‹_›]
  · cases h
    simp
  · split at h
    · cases h
      simp
    · simp [State.takeMirror_start ‹_›]
  · cases h
    simp
  · cases h
    simp
  · cases h
    simp

@[simp] theorem State.takeOrPark_start (s : State) (kind b d : Nat) (m : SluiceMsg) :
    s.SameStart (s.takeOrPark kind b d m) := by
  unfold State.takeOrPark
  dsimp only
  split
  · simp [State.takeMsg_start ‹_›]
  · simp

@[simp] theorem State.arrives_start (s : State) (kind b d : Nat) (m : SluiceMsg) :
    s.SameStart (s.arrives kind b d m) := by
  have h {on : Bool} {t : State} (e : s.slcEpoch b d m = (on, t)) : t.pkg = s.pkg := by
    simpa [e] using State.slcEpoch_pkg s b d m
  unfold State.arrives
  split
  · simp
  · split <;> simp [h ‹_›]

@[simp] theorem State.sendSlice_start (s : State) (x : StepDesc) (e : BucketEntry) (b d i : Nat) :
    s.SameStart (s.sendSlice x e b d i) := by
  unfold State.sendSlice
  dsimp only
  split <;> simp

@[simp] theorem State.perform_start (s : State) (d : Nat) (j : SluiceJob) : s.SameStart (s.perform d j) := by
  unfold State.perform
  dsimp only
  split
  · simp
  · simp
  · split
    · simp
    · split <;> simp
  · split
    · split
      · simp
      · split <;> simp
    · split <;> simp
  · simp
  · simp

@[simp] theorem State.workFuel_start (d n : Nat) (s : State) : s.SameStart (s.workFuel d n) := by
  induction n generalizing s with
  | zero => simp [State.workFuel]
  | succ n ih =>
    unfold State.workFuel
    dsimp only
    split
    · simp
    · simp [ih]

@[simp] theorem State.retryParked_start (s : State) (d : Nat) : s.SameStart (s.retryParked d) := by
  simp [State.retryParked]

@[simp] theorem State.openBucket_pkg (s : State) (k : Bucket) : (s.openBucket k).pkg = s.pkg := by
  unfold State.openBucket
  dsimp only
  split
  · rfl
  · split
    · rfl
    · split
      · rfl
      · rw [State.tryDone_pkg, State.forEach_pkg _ _ fun _ _ => State.addJob_pkg _ _ _ _ _ _, State.putBucket_pkg]

@[simp] theorem State.settleSluice_start (s : State) (d : Nat) : s.SameStart (s.settleSluice d) := by
  simp [State.settleSluice]

@[simp] theorem State.requestAll_pkg (s : State) (x : StepDesc) : (s.requestAll x).pkg = s.pkg := by
  unfold State.requestAll
  refine State.forEach_pkg _ _ fun t e => State.forEach_pkg _ _ fun t d => ?_
  rw [State.tryDone_pkg, State.ite_pkg, State.sendMsg_pkg, ite_self]
  exact State.forEach_pkg _ _ fun _ _ => State.sendMsg_pkg _ _ _ _ _ _

@[simp] theorem State.activateStep_start (s : State) (desc : StepDesc) : s.SameStart (s.activateStep desc) := by
  simp [State.activateStep]

@[simp] theorem State.receiveMsg_start (s : State) (kind b d : Nat) (m : SluiceMsg) :
    s.SameStart (s.receiveMsg kind b d m) := by simp [State.receiveMsg]

@[simp] theorem State.admitted_start (s : State) (x : Slice) (y : Staged) : s.SameStart (s.admitted x y) := by
  simp [State.admitted]

@[simp] theorem State.runUpdate_pkg (s : State) (y : StepDesc) (e : BucketEntry) (x : Slice) (params : Bytes) :
    (s.runUpdate y e x params).pkg = s.pkg := by
  unfold State.runUpdate
  dsimp only
  split <;> split <;> simp

@[simp] theorem State.broadcast_start (s : State) (y : StepDesc) (e : BucketEntry) (x : Slice) :
    s.SameStart (s.broadcast y e x) := by
  unfold State.broadcast
  dsimp only
  split
  · dsimp only
    split <;> simp
  · split <;> simp

/-! ### The operations of `Machine/Flows` -/

@[simp] theorem State.rxDropped_pkg (s : State) (p : Nat) : (s.rxDropped p).pkg = s.pkg := rfl

@[simp] theorem State.ringWrite_pkg (s : State) (b base size off : Nat) (bs : Bytes) :
    (s.ringWrite b base size off bs).pkg = s.pkg := by simp [State.ringWrite]

@[simp] theorem State.writeRecord_pkg (s : State) (b f p : Nat) (x : TowFrame) (gap first last : Bool) :
    (s.writeRecord b f p x gap first last).pkg = s.pkg := by simp [State.writeRecord]

@[simp] theorem State.checkMessage_pkg (s : State) (u f : Nat) (msg : Bytes) :
    (s.checkMessage u f msg).pkg = s.pkg := by
  unfold State.checkMessage
  split <;> simp

@[simp] theorem State.watchFormer_pkg (s : State) (u f : Nat) (x : TowFrame) (gap first last : Bool) :
    (s.watchFormer u f x gap first last).pkg = s.pkg := by
  unfold State.watchFormer
  dsimp only
  refine State.forEach_pkg _ _ fun t x => ?_
  split
  · simp
  · split
    · simp
    · split <;> simp

@[simp] theorem State.watchReceive_pkg (s : State) (u f : Nat) (x : TowFrame) (gap first last : Bool) :
    (s.watchReceive u f x gap first last).pkg = s.pkg := by simp [State.watchReceive]

theorem State.deliverBasin_pkg {s : State} {p : Nat} {x : TowFrame} {gap : Bool} {t : State}
    (h : s.deliverBasin p x gap = some t) :
    t.pkg = s.pkg := by
  unfold State.deliverBasin at h
  dsimp only at h
  split at h
  · cases h
  · cases h
    simp

@[simp] theorem State.takePiece_start (s : State) (b d : Nat) (x : TowFrame) :
    s.SameStart (s.takePiece b d x) := by
  unfold State.takePiece
  dsimp only
  split <;> simp

/-- The state with which the sequence rule of a flow answers. -/
def Sequenced.state : Sequenced → State
  | .done s => s
  | .deliver s _ => s

theorem State.sequenced_pkg (s : State) (p key : Nat) (x : TowFrame) :
    (s.sequenced p key x).state.pkg = s.pkg := by
  unfold State.sequenced
  dsimp only
  split
  · rfl
  · rfl
  · split
    · rfl
    · split
      · split
        · simp [Sequenced.state]
        · rfl
      · rfl

theorem State.sequenced_done_pkg {s t : State} {p key : Nat} {x : TowFrame} (h : s.sequenced p key x = .done t) :
    t.pkg = s.pkg := by
  simpa [h, Sequenced.state] using s.sequenced_pkg p key x

theorem State.sequenced_deliver_pkg {s t : State} {p key : Nat} {x : TowFrame} {gap : Bool}
    (h : s.sequenced p key x = .deliver t gap) : t.pkg = s.pkg := by
  simpa [h, Sequenced.state] using s.sequenced_pkg p key x

theorem State.sluiceFrame_start {s : State} {p : Nat} {x : TowFrame} {t : State}
    (h : s.sluiceFrame p x = some t) : s.SameStart t := by
  unfold State.sluiceFrame at h
  dsimp only at h
  split at h
  · cases h
    simp
  · split at h
    · cases h
    · split at h
      · cases h
        simp [State.sequenced_done_pkg ‹_›]
      · cases h
        simp [State.sequenced_deliver_pkg ‹_›]

theorem State.arrive_start {s : State} {p : Nat} {x : TowFrame} {t : State}
    (h : s.arrive p x = some t) : s.SameStart t := by
  unfold State.arrive at h
  dsimp only at h
  split at h
  · cases h
    simp
  · split at h
    · split at h
      · exact State.sluiceFrame_start h
      · cases h
        simp
    · split at h
      · cases h
        simp
      · split at h
        · cases h
          simp
        · split at h
          · cases h
            simp [State.sequenced_done_pkg ‹_›]
          · simp [State.deliverBasin_pkg h, State.sequenced_deliver_pkg ‹_›]

@[simp] theorem State.countSlow_pkg (s : State) (p : Nat) (x : TowFrame) : (s.countSlow p x).pkg = s.pkg := by
  simp [State.countSlow]

@[simp] theorem State.sendAck_pkg (s : State) (p : Nat) : (s.sendAck p).pkg = s.pkg := by simp [State.sendAck]

theorem State.firstTaken_start {s : State} {p : Nat} {l : List TowFrame} {blocked : List (BitVec 2)} {x : TowFrame}
    {t : State} (h : s.firstTaken p l blocked = some (x, t)) : s.SameStart t := by
  induction l generalizing blocked with
  | nil => cases h
  | cons y l ih =>
    unfold State.firstTaken at h
    split at h
    · exact ih h
    · split at h
      · cases h
        exact State.arrive_start ‹_›
      · exact ih h

@[simp] theorem State.releaseFrame_pkg (s : State) (p : Nat) (x : TowFrame) : (s.releaseFrame p x).pkg = s.pkg := by
  simp [State.releaseFrame]

@[simp] theorem State.drainFuel_start (p n : Nat) (s : State) : s.SameStart (s.drainFuel p n) := by
  induction n generalizing s with
  | zero => simp [State.drainFuel]
  | succ n ih =>
    unfold State.drainFuel
    split
    · simp
    · simp [ih, State.firstTaken_start ‹_›]

@[simp] theorem State.settlePause_pkg (s : State) (p : Nat) : (s.settlePause p).pkg = s.pkg := by
  simp [State.settlePause]

@[simp] theorem State.drainPort_start (s : State) (p : Nat) : s.SameStart (s.drainPort p) := by
  simp [State.drainPort]

@[simp] theorem State.bufferFrame_start (s : State) (p : Nat) (f : TowFrame) : s.SameStart (s.bufferFrame p f) := by
  simp [State.bufferFrame]

@[simp] theorem State.sendNak_pkg (s : State) (p : Nat) : (s.sendNak p).pkg = s.pkg := by simp [State.sendNak]

@[simp] theorem State.receiveData_start (s : State) (p : Nat) (f : TowFrame) : s.SameStart (s.receiveData p f) := by
  simp [State.receiveData]

@[simp] theorem State.badFrame_pkg (s : State) (p : Nat) : (s.badFrame p).pkg = s.pkg := by simp [State.badFrame]

@[simp] theorem State.onFrame_start (s : State) (p : Nat) (raw : Bytes) (serves : Nat → Bool)
    (f : TowFrame → State → State) (h : ∀ (x : TowFrame) (t : State), t.SameStart (f x t)) :
    s.SameStart (s.onFrame p raw serves f) := by
  unfold State.onFrame
  split
  · simp
  · split <;> simp [h]

@[simp] theorem State.answerResume_pkg (s : State) (p : Nat) (payload : Bytes) :
    (s.answerResume p payload).pkg = s.pkg := rfl

@[simp] theorem State.settleQuiesce_pkg (s : State) : s.settleQuiesce.pkg = s.pkg := by
  unfold State.settleQuiesce
  refine State.forEach_pkg _ _ fun t x => ?_
  split
  · simp
  · rfl

@[simp] theorem State.resumeFlow_pkg (s : State) (p : Nat) (payload : Bytes) (src : Option Bytes) :
    (s.resumeFlow p payload src).pkg = s.pkg := by
  unfold State.resumeFlow
  dsimp only
  split
  · rfl
  · simp

/-! ### The operations of `Machine/Wipes` -/

@[simp] theorem State.stopComplex_pkg (s : State) (x : Nat) : (s.stopComplex x).pkg = s.pkg := by
  unfold State.stopComplex
  dsimp only
  refine State.forEach_pkg _ _ fun t x => ?_
  simp

@[simp] theorem State.dropLines_pkg (s : State) (b : Nat) : (s.dropLines b).pkg = s.pkg := rfl

@[simp] theorem State.wipeBasin_start (s : State) (b code : Nat) : s.SameStart (s.wipeBasin b code) := by
  simp [State.wipeBasin]

@[simp] theorem State.nextEpoch_pkg (s : State) (b : Nat) : (s.nextEpoch b).pkg = s.pkg := by
  unfold State.nextEpoch
  dsimp only
  refine State.forEach_pkg _ _ fun t x => ?_
  simp

@[simp] theorem State.admitCluster_pkg (s : State) (k : Nat) : (s.admitCluster k).pkg = s.pkg := by
  simp [State.admitCluster]

@[simp] theorem State.returnCxl_pkg (s : State) (b : Nat) : (s.returnCxl b).pkg = s.pkg := by
  simp [State.returnCxl]

@[simp] theorem State.holdDomains_start (s : State) : s.SameStart s.holdDomains := by simp [State.holdDomains]

/-! ### The operations of `Machine/Turns` -/

@[simp] theorem State.answer_pkg (s : State) (ch : Channel) (cmd code sheet die : Nat) :
    (s.answer ch cmd code sheet die).pkg = s.pkg := by
  unfold State.answer
  split
  · split
    · rfl
    · simp
  · simp

@[simp] theorem State.setTurn_start (s : State) (t : Option Turn) : s.SameStart (s.setTurn t) := ⟨rfl, rfl⟩

@[simp] theorem State.endAbort_start (s : State) (t : Turn) : s.SameStart (s.endAbort t) := by
  simp [State.endAbort]

@[simp] theorem State.abortTurn_start (s : State) (t : Turn) (code sheet die : Nat) :
    s.SameStart (s.abortTurn t code sheet die) := by simp [State.abortTurn]

@[simp] theorem State.commitTurn_start (s : State) (t : Turn) : s.SameStart (s.commitTurn t) := ⟨rfl, rfl⟩

@[simp] theorem State.withdraw_start (s : State) (scope : Nat) : s.SameStart (s.withdraw scope) := by
  unfold State.withdraw
  split <;> simp

@[simp] theorem State.turnClocks_pkg (s : State) (d : Nat) : (s.turnClocks d).pkg = s.pkg := by
  simp [State.turnClocks]

@[simp] theorem State.settlePorts_start (s : State) (d : Nat) : s.SameStart (s.settlePorts d) := by
  simp [State.settlePorts]

@[simp] theorem State.serveDie_start (s : State) (d : Nat) (on : Bool) : s.SameStart (s.serveDie d on) := by
  simp [State.serveDie]

@[simp] theorem State.replaceCluster_start (s : State) (c : Nat) : s.SameStart (s.replaceCluster c) := by
  unfold State.replaceCluster
  dsimp only
  split <;> simp

@[simp] theorem State.turnTopology_start (s : State) (d : Nat) : s.SameStart (s.turnTopology d) := by
  simp [State.turnTopology]

@[simp] theorem State.turnMemory_pkg (s : State) (t : Sheets) (d : Nat) : (s.turnMemory t d).pkg = s.pkg := by
  unfold State.turnMemory
  dsimp only
  refine (State.forEach_pkg _ _ fun t x => ?_).trans ?_
  · simp
  · refine State.forEach_pkg _ _ fun t x => ?_
    simp

@[simp] theorem State.turnBasin_start (s : State) (t : Sheets) (b : Nat) : s.SameStart (s.turnBasin t b) := by
  simp [State.turnBasin]

@[simp] theorem State.reopen_start (s : State) : s.SameStart s.reopen := by simp [State.reopen]

@[simp] theorem State.turnOwners_start (s : State) (t : Sheets) (d : Nat) : s.SameStart (s.turnOwners t d) := by
  unfold State.turnOwners
  dsimp only
  refine State.SameStart.trans ?_ (State.forEach_start _ _ fun t x => ?_)
  · refine State.SameStart.trans ?_ (State.forEach_start _ _ fun t x => ?_)
    · simp
    · split
      · simp
      · split <;> simp
  · simp

@[simp] theorem State.turnPorts_pkg (s : State) (t : Sheets) (d : Nat) : (s.turnPorts t d).pkg = s.pkg := by
  simp [State.turnPorts]

@[simp] theorem State.turnFlows_pkg (s : State) (t : Sheets) : (s.turnFlows t).pkg = s.pkg := by
  simp [State.turnFlows]

@[simp] theorem State.turnQuiesced_pkg (s : State) (d : Nat) : (s.turnQuiesced d).pkg = s.pkg := by
  simp [State.turnQuiesced]

@[simp] theorem State.turnChecks_pkg (s : State) (t : Sheets) (d : Nat) : (s.turnChecks t d).pkg = s.pkg := by
  unfold State.turnChecks
  dsimp only
  refine State.forEach_pkg _ _ fun t x => ?_
  simp

@[simp] theorem State.turnTelemetry_pkg (s : State) (t : Sheets) : (s.turnTelemetry t).pkg = s.pkg := by
  unfold State.turnTelemetry
  dsimp only
  refine State.forEach_pkg _ _ fun t x => ?_
  simp

@[simp] theorem State.turnUnits_start (s : State) (t : Sheets) (d : Nat) (changed : List Nat) :
    s.SameStart (s.turnUnits t d changed) := by simp [State.turnUnits]

@[simp] theorem State.turnPackage_start (s : State) (changed : List Nat) : s.SameStart (s.turnPackage changed) := by
  simp [State.turnPackage]

@[simp] theorem State.settleTurn_start (s : State) : s.SameStart s.settleTurn := by
  unfold State.settleTurn
  split <;> simp

/-! ### The operations of `Machine/Quire` -/

@[simp] theorem State.beginStaging_start (s : State) (ch : Channel) : s.SameStart (s.beginStaging ch) := by
  simp [State.beginStaging]

@[simp] theorem State.stageBytes_pkg (s : State) (off : Nat) (bs : Bytes) : (s.stageBytes off bs).pkg = s.pkg := by
  simp [State.stageBytes]

@[simp] theorem State.runValidate_start (s : State) : s.SameStart s.runValidate.1 := by simp [State.runValidate]

@[simp] theorem State.requestTurn_start (s : State) (ch : Channel) (wait : Nat) :
    s.SameStart (s.requestTurn ch wait) := by
  unfold State.requestTurn
  dsimp only
  split <;> simp

@[simp] theorem State.pendTurn_start (s : State) : s.SameStart s.pendTurn := by simp [State.pendTurn]

@[simp] theorem State.swapDie_start (s : State) (d : Nat) (changed : List Nat) :
    s.SameStart (s.swapDie d changed) := by
  simp [State.swapDie]

@[simp] theorem State.pldmVerified_pkg (s : State) (code : Nat) : (s.pldmVerified code).pkg = s.pkg := by
  simp [State.pldmVerified]

@[simp] theorem State.recoveryBytes_start (s : State) (off : Nat) (bs : Bytes) :
    s.SameStart (s.recoveryBytes off bs) := by simp [State.recoveryBytes]

/-! ### The operations of `Machine/Towpath` -/

@[simp] theorem State.losePort_start (s : State) (p : Nat) (lost : Byte) : s.SameStart (s.losePort p lost) := by
  simp [State.losePort]

@[simp] theorem State.acknowledge_pkg (s : State) (p : Nat) (f : TowFrame) : (s.acknowledge p f).pkg = s.pkg := by
  simp [State.acknowledge]

@[simp] theorem State.nakked_start (s : State) (p : Nat) (seq : W16) : s.SameStart (s.nakked p seq) := by
  simp [State.nakked]

@[simp] theorem State.datagramFrame_start (s : State) (p : Nat) (src : Bytes) (f : TowFrame) :
    s.SameStart (s.datagramFrame p src f) := by
  unfold State.datagramFrame
  split
  · simp
  · simp
  · split <;> simp
  · split <;> simp
  · simp
  · simp
  · simp

@[simp] theorem State.follow_pkg (s : State) (p : Nat) (t2 t3 : W64) (stratum : Nat) :
    (s.follow p t2 t3 stratum).pkg = s.pkg := by
  unfold State.follow
  dsimp only
  split
  · simp
  · split
    · refine State.forEach_pkg _ _ fun t x => ?_
      simp
    · refine State.forEach_pkg _ _ fun t x => ?_
      simp

/-! ### The operations of `Machine/Gov` -/

@[simp] theorem State.trimDie_pkg (s : State) (d v : Nat) : (s.trimDie d v).pkg = s.pkg := by simp [State.trimDie]
@[simp] theorem State.slackEvent_start (s : State) (d mv : Nat) : s.SameStart (s.slackEvent d mv) := ⟨rfl, rfl⟩

@[simp] theorem State.noteSlack_start (s : State) (d mv : Nat) : s.SameStart (s.noteSlack d mv) := by
  simp [State.noteSlack]

@[simp] theorem State.writeTrim_pkg (s : State) : s.writeTrim.pkg = s.pkg := by simp [State.writeTrim]

@[simp] theorem State.trimHour_start (s : State) (d : Nat) : s.SameStart (s.trimHour d) := by
  unfold State.trimHour
  dsimp only
  split <;> simp

@[simp] theorem State.chargeCore_pkg (s : State) (c : Nat) : (s.chargeCore c).pkg = s.pkg := by
  simp [State.chargeCore]

theorem State.chargeBeat_pkg {s : State} {k i : Nat} {t : State} (h : s.chargeBeat k i = some t) :
    t.pkg = s.pkg := by
  unfold State.chargeBeat at h
  split at h
  · split at h
    · cases h
      simp
    · cases h
  · split at h
    · split at h
      · cases h
      · obtain ⟨x, _, rfl⟩ := Option.map_eq_some_iff.mp h
        simp
    · obtain ⟨c, _, rfl⟩ := Option.map_eq_some_iff.mp h
      simp

@[simp] theorem State.nextBeat_pkg (s : State) (k n i : Nat) : (s.nextBeat k n i).pkg = s.pkg := by
  induction n generalizing i with
  | zero => rfl
  | succ n ih =>
    unfold State.nextBeat
    split
    · exact (State.setCluster_pkg _ _ _).trans (State.chargeBeat_pkg ‹_›)
    · exact ih _

@[simp] theorem State.chargeCluster_pkg (s : State) (k : Nat) : (s.chargeCluster k).pkg = s.pkg := by
  simp [State.chargeCluster]

@[simp] theorem State.chargeRest_pkg (k n : Nat) (s : State) : (s.chargeRest k n).pkg = s.pkg := by
  induction n generalizing s with
  | zero => rfl
  | succ n ih =>
    unfold State.chargeRest
    split
    · rfl
    · exact (ih _).trans (State.chargeCluster_pkg _ _)

@[simp] theorem State.boundaryCluster_pkg (s : State) (k : Nat) : (s.boundaryCluster k).pkg = s.pkg := by
  unfold State.boundaryCluster
  dsimp only
  split
  · rfl
  · refine State.forEach_pkg _ _ fun t x => ?_
    simp

@[simp] theorem State.boundaryDraw_pkg (s : State) (c : Nat) : (s.boundaryDraw c).pkg = s.pkg := by
  unfold State.boundaryDraw
  dsimp only
  split
  · simp
  · rfl

@[simp] theorem State.retry_pkg (s : State) (c : Nat) (e : Engine) : (s.retry c e).pkg = s.pkg := by
  simp [State.retry]

@[simp] theorem State.retryBeat_pkg (s : State) (k i : Nat) : (s.retryBeat k i).pkg = s.pkg := by
  unfold State.retryBeat
  split
  · simp
  · split
    · split
      · simp
      · rfl
    · split
      · simp
      · rfl

@[simp] theorem State.boundaryPay_pkg (s : State) (k : Nat) : (s.boundaryPay k).pkg = s.pkg := by
  simp [State.boundaryPay]

@[simp] theorem State.boundarySluice_start (s : State) (d : Nat) : s.SameStart (s.boundarySluice d) := by
  simp [State.boundarySluice]

@[simp] theorem State.noteTemp_start (s : State) (d : Nat) (t : Option Nat) : s.SameStart (s.noteTemp d t) := by
  simp [State.noteTemp]

@[simp] theorem State.floorCounts_start (s : State) (w c oldF : Nat) : s.SameStart (s.floorCounts w c oldF) := by
  simp [State.floorCounts]

@[simp] theorem State.overTempCheck_start (s : State) : s.SameStart s.overTempCheck := by
  unfold State.overTempCheck
  dsimp only
  split <;> simp

/-! ### The operations of `Machine/Regs` -/

theorem State.read32_pkg {s : State} {path : Nat} {r : RegAt} {v : Nat} {t : State}
    (h : s.read32 path r = some (v, t)) : t.pkg = s.pkg := by
  unfold State.read32 at h
  dsimp only at h
  split at h
  · split at h <;> cases h <;> rfl
  · obtain ⟨_, _, e⟩ := Option.map_eq_some_iff.mp h
    cases e
    rfl

theorem State.read64_pkg {s : State} {path : Nat} {r : RegAt} {v : Nat} {t : State}
    (h : s.read64 path r = some (v, t)) : t.pkg = s.pkg := by
  unfold State.read64 at h
  split at h
  · cases h
    rfl
  · split at h
    · cases h
    · rename_i h1
      split at h
      · cases h
      · rename_i h2
        cases h
        exact (State.read32_pkg h2).trans (State.read32_pkg h1)

@[simp] theorem State.pageRead_start (s : State) (b off width : Nat) : s.SameStart (s.pageRead b off width).2 := by
  unfold State.pageRead
  dsimp only
  split
  · simp
  · split
    · simp
    · split
      · rename_i x hx
        split at hx
        · simp [State.read32_pkg hx]
        · simp [State.read64_pkg hx]
      · simp

@[simp] theorem State.misuseBy_start (s : State) (who : Option Nat) : s.SameStart (s.misuseBy who) := by
  unfold State.misuseBy
  split <;> simp

@[simp] theorem State.reservedBits_start (s : State) (who : Option Nat) (v mask : W32) :
    s.SameStart (s.reservedBits who v mask) := by simp [State.reservedBits]

@[simp] theorem State.popCheck_pkg (s : State) (u : Nat) : (s.popCheck u).pkg = s.pkg := rfl

@[simp] theorem State.doorbell_start (s : State) (b r : Nat) (who : Option Nat) (prod : W32) :
    s.SameStart (s.doorbell b r who prod) := by simp [State.doorbell]

@[simp] theorem State.ringWriteReg_start (s : State) (b r i : Nat) (who : Option Nat) (v : W32) :
    s.SameStart (s.ringWriteReg b r i who v) := by
  unfold State.ringWriteReg
  dsimp only
  split <;> simp

@[simp] theorem State.tailWrite_start (s : State) (b : Nat) (l : LogKind) (who : Option Nat) (v : W32) :
    s.SameStart (s.tailWrite b l who v) := by simp [State.tailWrite]

@[simp] theorem State.irqWrite_start (s : State) (b : Nat) (who : Option Nat) (v : W32) :
    s.SameStart (s.irqWrite b who v) := by simp [State.irqWrite]

@[simp] theorem State.irqForward_start (s : State) (b : Nat) (who : Option Nat) (v : W32) :
    s.SameStart (s.irqForward b who v) := by simp [State.irqForward]

@[simp] theorem State.chkPopWrite_start (s : State) (b : Nat) (who : Option Nat) (v : W32) :
    s.SameStart (s.chkPopWrite b who v) := by simp [State.chkPopWrite]

@[simp] theorem State.pageWrite_start (s : State) (b off : Nat) (who : Option Nat) (v : W32) :
    s.SameStart (s.pageWrite b off who v) := by simp [State.pageWrite]

@[simp] theorem State.unitWrite_start (s : State) (region off : Nat) (who : Option Nat) (v : W32) :
    s.SameStart (s.unitWrite region off who v) := by
  unfold State.unitWrite
  dsimp only
  split
  · simp
  · split
    · simp
    · split
      · simp
      · split
        · simp
        · split
          · simp
          · split
            · split <;> simp
            · simp

@[simp] theorem State.write32_start (s : State) (r : RegAt) (who : Option Nat) (v : W32) :
    s.SameStart (s.write32 r who v) := by simp [State.write32]

@[simp] theorem State.writeReg_start (s : State) (r : RegAt) (who : Option Nat) (width : Nat) (v : W64) :
    s.SameStart (s.writeReg r who width v) := by simp [State.writeReg]

@[simp] theorem State.pageStore_start (s : State) (b off width : Nat) (v : W64) :
    s.SameStart (s.pageStore b off width v) := by
  unfold State.pageStore
  split
  · simp
  · split
    · simp
    · split <;> simp

@[simp] theorem State.pathWrite_start (s : State) (path : AccessPath) (addr width : Nat) (v : W64) :
    s.SameStart (s.pathWrite path addr width v) := by
  unfold State.pathWrite
  split
  · simp
  · split
    · simp
    · split
      · simp
      · split
        · simp
        · split <;> simp
  · split
    · simp
    · split
      · simp
      · split
        · simp
        · split <;> simp

/-! ### The operations of `Machine/Hosts` -/

@[simp] theorem State.hostStore_pkg (s : State) (u : Option Nat) (b n va : Nat) (bs : Bytes) :
    (s.hostStore u b n va bs).pkg = s.pkg := by
  induction n generalizing s va bs with
  | zero => rfl
  | succ n ih =>
    unfold State.hostStore
    split
    · rfl
    · split
      · rfl
      · exact (ih _ _ _).trans (State.storeCoherent_pkg _ _ _)

@[simp] theorem State.hostLearns_pkg (s : State) (b va n : Nat) (t : State) :
    (s.hostLearns b va n t).pkg = t.pkg := by
  simp [State.hostLearns]

@[simp] theorem State.hostUr_pkg (s : State) (b : Nat) : (s.hostUr b).pkg = s.pkg := by simp [State.hostUr]

@[simp] theorem State.segmentDown_start (s : State) (g : Nat) : s.SameStart (s.segmentDown g) := by
  unfold State.segmentDown
  dsimp only
  split
  · simp
  · split <;> simp

/-! ### The operations of `Machine/Keeper` -/

@[simp] theorem State.inheritTurn_start (s : State) : s.SameStart s.inheritTurn := by
  unfold State.inheritTurn
  split
  · simp
  · split <;> simp

/-! ### The operations of `Machine/Stitch` -/

@[simp] theorem State.linkError_start (s : State) (detail l module : Nat) :
    s.SameStart (s.linkError detail l module) := ⟨rfl, rfl⟩

@[simp] theorem State.capabilityFails_start (s : State) (l : Nat) : s.SameStart (s.capabilityFails l) := ⟨rfl, rfl⟩
@[simp] theorem State.sever_start (s : State) (l : Nat) : s.SameStart (s.sever l) := by simp [State.sever]

@[simp] theorem State.activate_start (s : State) (l : Nat) (g : Nat × Nat) (st : LinkState)
    (common attempts : Nat) :
    s.SameStart (s.activate l g st common attempts) := by simp [State.activate]

@[simp] theorem State.sendEchoes_pkg (s : State) (l : Nat) (wa wb : Option Nat) (n b n' : Nat) :
    (s.sendEchoes l wa wb n b n').pkg = s.pkg := rfl

@[simp] theorem State.track_pkg (s : State) (h : StitchHdr) (write : Bool) : (s.track h write).pkg = s.pkg := by
  simp [State.track]

@[simp] theorem State.stitchReply_pkg (s : State) (d : Nat) (h : StitchHdr) (status : Nat) (data : Bytes) :
    (s.stitchReply d h status data).pkg = s.pkg := by simp [State.stitchReply]

@[simp] theorem State.passOn_pkg (s : State) (d : Nat) (m : StitchMsg) : (s.passOn d m).pkg = s.pkg := by
  simp [State.passOn]

@[simp] theorem State.recordLine_pkg (s : State) (line die : Nat) : (s.recordLine line die).pkg = s.pkg := by
  unfold State.recordLine
  dsimp only
  split
  · rfl
  · split
    · dsimp only
      split
      · simp
      · rfl
    · rfl

@[simp] theorem State.stitchStore_start (s : State) (d : Nat) (h : StitchHdr) (n : Nat) (enables : W64)
    (bs : Bytes) :
    s.SameStart (s.stitchStore d h n enables bs) := by
  unfold State.stitchStore
  dsimp only
  split
  · split
    · split <;> simp
    · simp
  · simp

@[simp] theorem State.fillCaches_pkg (s : State) (d n : Nat) (data : Bytes) :
    (s.fillCaches d n data).pkg = s.pkg := by
  simp [State.fillCaches]

@[simp] theorem State.failRequests_pkg (s : State) (d lost : Nat) : (s.failRequests d lost).pkg = s.pkg := by
  unfold State.failRequests
  dsimp only
  refine State.forEach_pkg _ _ fun t x => ?_
  simp

@[simp] theorem State.isolate_pkg (s : State) (lost : Nat) : (s.isolate lost).pkg = s.pkg := by
  simp [State.isolate]

@[simp] theorem State.loseDie_start (s : State) (d lost : Nat) : s.SameStart (s.loseDie d lost) := by
  unfold State.loseDie
  dsimp only
  split <;> simp

/-! ### The operations of `Machine/Ladder` -/

@[simp] theorem State.intoLog_start (s : State) (w : Option Nat) (e : LogEntry) : s.SameStart (s.intoLog w e) := by
  simp [State.intoLog]

@[simp] theorem State.overflowInto_start (s : State) (w : Option Nat) (e : ErrEvent) (at_ : W64) (level : Nat) :
    s.SameStart (s.overflowInto w e at_ level) := by simp [State.overflowInto]

@[simp] theorem State.passLog_start (s : State) (w : Option Nat) (n : Nat) (e : ErrEvent) (at_ : W64) :
    s.SameStart (s.passLog w n e at_) := by simp [State.passLog]

@[simp] theorem State.logOnly_start (s : State) (e : ErrEvent) (at_ : W64) : s.SameStart (s.logOnly e at_) := by
  simp [State.logOnly]

@[simp] theorem State.tell_pkg (s : State) (e : ErrEvent) : (s.tell e).pkg = s.pkg := by simp [State.tell]

@[simp] theorem State.countRefault_start (s : State) (kind unit : Nat) :
    s.SameStart (s.countRefault kind unit).1 :=
  ⟨rfl, rfl⟩

@[simp] theorem State.makePermanent_pkg (s : State) (l : Nat) : (s.makePermanent l).pkg = s.pkg := by
  simp [State.makePermanent]

@[simp] theorem State.scopeFault_pkg (s : State) (c : Nat) : (s.scopeFault c).pkg = s.pkg := by
  unfold State.scopeFault
  dsimp only
  refine (State.forEach_pkg _ _ fun t x => ?_).trans ?_
  · simp
  · split
    · simp
    · simp
    · simp
    · rfl

@[simp] theorem State.fenceCluster_pkg (s : State) (k : Nat) : (s.fenceCluster k).pkg = s.pkg := by
  simp [State.fenceCluster]

@[simp] theorem State.interruptMailbox_pkg (s : State) (b : Nat) : (s.interruptMailbox b).pkg = s.pkg := by
  simp [State.interruptMailbox]

@[simp] theorem State.fenceBasin_pkg (s : State) (b : Nat) : (s.fenceBasin b).pkg = s.pkg := by
  simp [State.fenceBasin]

@[simp] theorem State.loseBasin_pkg (s : State) (b code : Nat) : (s.loseBasin b code).pkg = s.pkg := by
  simp [State.loseBasin]

@[simp] theorem State.fenceDie_start (s : State) (d code : Nat) : s.SameStart (s.fenceDie d code) := by
  simp [State.fenceDie]

@[simp] theorem State.fence_start (s : State) (x : Target) (code : Nat) : s.SameStart (s.fence x code) := by
  unfold State.fence
  dsimp only
  split <;> simp

@[simp] theorem State.startRecovery_start (s : State) (r : Recovery) : s.SameStart (s.startRecovery r) := by
  simp [State.startRecovery]

@[simp] theorem State.refault_start (s : State) (code : Nat) (x : Target) : s.SameStart (s.refault code x).1 := by
  unfold State.refault
  dsimp only
  split
  · dsimp only
    split <;> simp
  · dsimp only
    split <;> simp
  · dsimp only
    split <;> simp
  · dsimp only
    split <;> simp

@[simp] theorem State.logLimit_start (s : State) (e : ErrEvent) (at_ : W64) (level : Nat) :
    s.SameStart (s.logLimit e at_ level) := ⟨rfl, rfl⟩

@[simp] theorem State.mergeError_start (s : State) (e : ErrEvent) (at_ : W64) (level : Nat) (r : Recovery) :
    s.SameStart (s.mergeError e at_ level r) := by simp [State.mergeError]

@[simp] theorem State.preempt_start (s : State) (x : Target) : s.SameStart (s.preempt x).1 := by
  simp [State.preempt]

@[simp] theorem State.takeScope_start (s : State) (e : ErrEvent) (at_ : W64) (x : Target) :
    s.SameStart (s.takeScope e at_ x) := by
  unfold State.takeScope
  dsimp only
  split <;> simp

@[simp] theorem State.decideError_start (s : State) (e : ErrEvent) (at_ : W64) :
    s.SameStart (s.decideError e at_) := by
  unfold State.decideError
  dsimp only
  split <;> simp

@[simp] theorem State.startQueued_start (s : State) : s.SameStart s.startQueued := by
  unfold State.startQueued
  dsimp only
  split
  · simp
  · split <;> simp

@[simp] theorem State.endRecovery_start (s : State) (r : Recovery) : s.SameStart (s.endRecovery r) := by
  simp [State.endRecovery]

/-! ### The operations of `Machine/Recovery` -/

@[simp] theorem State.sampleCore_pkg (s : State) (c : Nat) : (s.sampleCore c).pkg = s.pkg := rfl

@[simp] theorem State.decideNew_start (s before : State) : s.SameStart (s.decideNew before) := by
  simp [State.decideNew]

@[simp] theorem State.hangCore_start (s : State) (c : Nat) : s.SameStart (s.hangCore c) := by
  unfold State.hangCore
  dsimp only
  split <;> simp

@[simp] theorem State.sampleSluice_start (s : State) (d : Nat) : s.SameStart (s.sampleSluice d) := by
  simp [State.sampleSluice]

@[simp] theorem State.samplePort_start (s : State) (p : Nat) : s.SameStart (s.samplePort p) := by
  simp [State.samplePort]

@[simp] theorem State.setRecovery_start (s : State) (r : Recovery) : s.SameStart (s.setRecovery r) := ⟨rfl, rfl⟩

@[simp] theorem State.storeDie_start (s : State) (d : Nat) (e : Endpaper) : s.SameStart (s.storeDie d e) := by
  simp [State.storeDie]

@[simp] theorem State.storePapers_start (s : State) (r : Recovery) : s.SameStart (s.storePapers r) := by
  unfold State.storePapers
  dsimp only
  split <;> simp

@[simp] theorem State.zeroCluster_pkg (s : State) (k : Nat) : (s.zeroCluster k).pkg = s.pkg := by
  unfold State.zeroCluster
  dsimp only
  refine State.forEach_pkg _ _ fun t x => ?_
  simp

@[simp] theorem State.wipeDie_pkg (s : State) (d : Nat) : (s.wipeDie d).pkg = s.pkg := by simp [State.wipeDie]

@[simp] theorem State.rejoinTurn_start (s : State) (d : Nat) : s.SameStart (s.rejoinTurn d) := by
  unfold State.rejoinTurn
  dsimp only
  split <;> simp

@[simp] theorem State.resetDie_start (s : State) (d code : Nat) : s.SameStart (s.resetDie d code) := by
  simp [State.resetDie]

@[simp] theorem State.forgetPapers_pkg (s : State) (b : Nat) : (s.forgetPapers b).pkg = s.pkg := by
  simp [State.forgetPapers]

@[simp] theorem State.answerResets_pkg (s : State) (x : Target) : (s.answerResets x).pkg = s.pkg := by
  unfold State.answerResets
  dsimp only
  refine State.forEach_pkg _ _ fun t x => ?_
  split
  · simp
  · rfl

@[simp] theorem State.readmitCluster_pkg (s : State) (k : Nat) : (s.readmitCluster k).pkg = s.pkg := by
  simp [State.readmitCluster]

@[simp] theorem State.readmitBasin_start (s : State) (b code : Nat) : s.SameStart (s.readmitBasin b code) := by
  simp [State.readmitBasin]

@[simp] theorem State.returnBasin_start (s : State) (b d code : Nat) : s.SameStart (s.returnBasin b d code) := by
  simp [State.returnBasin]

@[simp] theorem State.admitDie_start (s : State) (d source code : Nat) : s.SameStart (s.admitDie d source code) := by
  simp [State.admitDie]

@[simp] theorem State.copyToFlash_start (s : State) (r : Recovery) : s.SameStart (s.copyToFlash r) := by
  simp [State.copyToFlash]

/-! ### The operations of `Machine/Seq` -/

@[simp] theorem State.aluReg_start (s : State) (c op : Nat) (f : W64 → W64 → W64) :
    s.SameStart (s.aluReg c op f) := by
  simp [State.aluReg]

@[simp] theorem State.aluImm_start (s : State) (c op : Nat) (f : W64 → W64 → W64) :
    s.SameStart (s.aluImm c op f) := by
  simp [State.aluImm]

@[simp] theorem State.shiftImm_start (s : State) (c op : Nat) (f : W64 → Nat → W64) :
    s.SameStart (s.shiftImm c op f) := by simp [State.shiftImm]

@[simp] theorem State.takeBranch_start (s : State) (c dest : Nat) : s.SameStart (s.takeBranch c dest) := by
  unfold State.takeBranch
  dsimp only
  split <;> simp

@[simp] theorem State.condBranch_start (s : State) (c op : Nat) (p : W64 → W64 → Bool) :
    s.SameStart (s.condBranch c op p) := by simp [State.condBranch]

@[simp] theorem State.enterLoop_start (s : State) (c : Nat) (k : Core) (target count : Nat) :
    s.SameStart (s.enterLoop c k target count) := by
  unfold State.enterLoop
  dsimp only
  split <;> simp

/-! ### What a command answers -/

/-- A next state that a command answers stands where `s` stood in its start. -/
def State.KeepsStart (s : State) (r : Host.Outcome State Fault Refusal) : Prop :=
  ∀ t, r = .next t → s.SameStart t

@[simp] theorem State.keepsStart_next (s t : State) : s.KeepsStart (.next t) ↔ s.SameStart t :=
  ⟨fun h => h t rfl, fun h _ e => Host.Outcome.next.inj e ▸ h⟩

theorem State.KeepsStart.of_sameStart {s t : State} (h : s.SameStart t) : s.KeepsStart (.next t) :=
  (State.keepsStart_next s t).mpr h

theorem State.KeepsStart.of_eq {s : State} {r : Host.Outcome State Fault Refusal} (h : r = .next s) :
    s.KeepsStart r := by
  rw [h]
  exact .of_sameStart ⟨rfl, rfl⟩

/-! ### The commands of `Machine/Press` -/

theorem execMma_start (c : CoreId) (s : State) : s.KeepsStart (execMma c s) := by simp [execMma]
theorem execTout_start (c : CoreId) (s : State) : s.KeepsStart (execTout c s) := by simp [execTout]
theorem execTin_start (c : CoreId) (s : State) : s.KeepsStart (execTin c s) := by simp [execTin]
theorem execTzero_start (c : CoreId) (s : State) : s.KeepsStart (execTzero c s) := by simp [execTzero]
theorem execPwin_start (c : CoreId) (s : State) : s.KeepsStart (execPwin c s) := by simp [execPwin]

/-! ### The commands of `Machine/Barge` -/

theorem execBrg_start (c : CoreId) (s : State) : s.KeepsStart (execBrg c s) := by simp [execBrg]
theorem execBlin_start (c : CoreId) (s : State) : s.KeepsStart (execBlin c s) := by simp [execBlin]

theorem execBargeComplete_start (src : BargeSrc) (s : State) : s.KeepsStart (execBargeComplete src s) := by
  cases src with
  | core c =>
    simpa [execBargeComplete] using
      State.coreBargeEvent_start fun _ _ h => State.coreBargeComplete_start h
  | ring b r k => simp [execBargeComplete, State.ringBargeEvent_pkg fun _ _ _ h => State.ringBargeComplete_pkg h]

theorem execBargeFail_start (src : BargeSrc) (s : State) : s.KeepsStart (execBargeFail src s) := by
  cases src with
  | core c => simpa [execBargeFail] using State.coreBargeEvent_start fun _ _ h => State.coreBargeFail_start h
  | ring b r k => simp [execBargeFail, State.ringBargeEvent_pkg fun _ _ _ h => State.ringBargeFail_pkg h]

theorem execPoisonLoadTrap_start (h : HartId) (va : W64) (ba : BitVec 48) (s : State) :
    s.KeepsStart (execPoisonLoadTrap h va ba s) := by
  unfold execPoisonLoadTrap
  dsimp only
  split <;> simp

theorem execPatrolScrub_start (piece : Nat) (found : ScrubFinding) (s : State) :
    s.KeepsStart (execPatrolScrub piece found s) := by
  unfold execPatrolScrub
  dsimp only
  split
  · simp
  · split <;> simp

/-! ### The commands of `Machine/Sync` -/

theorem execSwait_start (c : CoreId) (s : State) : s.KeepsStart (execSwait c s) := by simp [execSwait]
theorem execSsig_start (c : CoreId) (s : State) : s.KeepsStart (execSsig c s) := by simp [execSsig]
theorem execSset_start (c : CoreId) (s : State) : s.KeepsStart (execSset c s) := by simp [execSset]
theorem execSrsig_start (c : CoreId) (s : State) : s.KeepsStart (execSrsig c s) := by simp [execSrsig]
theorem execKbar_start (c : CoreId) (s : State) : s.KeepsStart (execKbar c s) := by simp [execKbar]
theorem execKwait_start (c : CoreId) (s : State) : s.KeepsStart (execKwait c s) := by simp [execKwait]
theorem execKjoin_start (c : CoreId) (s : State) : s.KeepsStart (execKjoin c s) := by simp [execKjoin]
theorem execKleave_start (c : CoreId) (s : State) : s.KeepsStart (execKleave c s) := by simp [execKleave]

theorem execSwaitSatisfied_start (c : CoreId) (s : State) : s.KeepsStart (execSwaitSatisfied c s) := by
  unfold execSwaitSatisfied
  dsimp only
  split <;> simp

theorem execRemoteSignalArrival_start (sender : CoreId) (s : State) :
    s.KeepsStart (execRemoteSignalArrival sender s) := by
  unfold execRemoteSignalArrival
  dsimp only
  split <;> simp

theorem execSrsigAck_start (sender : CoreId) (s : State) : s.KeepsStart (execSrsigAck sender s) := by
  unfold execSrsigAck
  dsimp only
  split <;> simp

theorem execKettleRelease_start (line : LineId) (s : State) : s.KeepsStart (execKettleRelease line s) := by
  unfold execKettleRelease
  dsimp only
  split
  · simp
  · split <;> simp

theorem execKettleUpdate_start (d src : DieId) (seq : Byte) (word : W32) (s : State) :
    s.KeepsStart (execKettleUpdate d src seq word s) := by
  unfold execKettleUpdate
  dsimp only
  split
  · simp
  · split <;> simp

theorem execKettleUpdateResend_start (d : DieId) (s : State) : s.KeepsStart (execKettleUpdateResend d s) := by
  simp [execKettleUpdateResend]

theorem execDeadlockWindowExpiry_start (c : CoreId) (s : State) : s.KeepsStart (execDeadlockWindowExpiry c s) := by
  unfold execDeadlockWindowExpiry
  dsimp only
  split <;> simp

/-! ### The commands of `Machine/Vector` -/

theorem execVop_start (c : CoreId) (s : State) : s.KeepsStart (execVop c s) := by simp [execVop]
theorem execVld_start (c : CoreId) (s : State) : s.KeepsStart (execVld c s) := by simp [execVld]
theorem execVst_start (c : CoreId) (s : State) : s.KeepsStart (execVst c s) := by simp [execVst]
theorem execVget_start (c : CoreId) (s : State) : s.KeepsStart (execVget c s) := by simp [execVget]
theorem execVput_start (c : CoreId) (s : State) : s.KeepsStart (execVput c s) := by simp [execVput]
theorem execTcvt_start (c : CoreId) (s : State) : s.KeepsStart (execTcvt c s) := by simp [execTcvt]
theorem execTred_start (c : CoreId) (s : State) : s.KeepsStart (execTred c s) := by simp [execTred]
theorem execRmrg_start (c : CoreId) (s : State) : s.KeepsStart (execRmrg c s) := by simp [execRmrg]
theorem execScvt_start (c : CoreId) (s : State) : s.KeepsStart (execScvt c s) := by simp [execScvt]
theorem execRadd_start (c : CoreId) (s : State) : s.KeepsStart (execRadd c s) := by simp [execRadd]
theorem execSmax_start (c : CoreId) (s : State) : s.KeepsStart (execSmax c s) := by simp [execSmax]
theorem execFly_start (c : CoreId) (s : State) : s.KeepsStart (execFly c s) := by simp [execFly]

/-! ### The commands of `Machine/Engines` -/

theorem execEngineIssue_start (c : CoreId) (e : Engine) (s : State) : s.KeepsStart (execEngineIssue c e s) := by
  unfold execEngineIssue
  split
  · simp
  · split
    · simp
    · split <;> simp

theorem execInstructionComplete_start (c : CoreId) (e : Engine) (s : State) :
    s.KeepsStart (execInstructionComplete c e s) := by
  unfold execInstructionComplete
  dsimp only
  rw [State.keepsStart_next]
  split
  · simp
  · cases he : (s.catchUp c e).completeOldest c e with
    | none => simp
    | some t => simpa using State.completeOldest_start he

theorem execRegionOverflow_start (c : CoreId) (s : State) : s.KeepsStart (execRegionOverflow c s) := by
  unfold execRegionOverflow
  dsimp only
  split <;> simp

theorem execRetryRestart_start (c : CoreId) (s : State) : s.KeepsStart (execRetryRestart c s) := by
  unfold execRetryRestart
  dsimp only
  split
  · simp
  · split <;> simp

/-! ### The commands of `Machine/Rings` -/

theorem execRingNoop_start (b : BasinId) (r : RingId) (s : State) : s.KeepsStart (execRingNoop b r s) := by
  unfold execRingNoop
  split
  · simp
  · simp [State.nextOf_pkg ‹_›]

theorem execRingEntryMalformed_start (b : BasinId) (r : RingId) (s : State) :
    s.KeepsStart (execRingEntryMalformed b r s) := by
  unfold execRingEntryMalformed
  dsimp only
  split
  · simp
  · split <;> simp

/-! ### The commands of `Machine/Context` -/

theorem execContextStart_start (b : BasinId) (r : RingId) (s : State) : s.KeepsStart (execContextStart b r s) := by
  unfold execContextStart
  dsimp only
  split
  · simp
  · split
    · simp [State.nextOf_pkg ‹_›]
    · split
      · simp
      · split <;> simp [State.nextOf_pkg ‹_›]

theorem execContextLoaded_start (c : CoreId) (s : State) : s.KeepsStart (execContextLoaded c s) := by
  unfold execContextLoaded
  dsimp only
  split
  · simp
  · split
    · simp
    · split
      · simp
      · split <;> simp

theorem execContextDrained_start (c : CoreId) (s : State) : s.KeepsStart (execContextDrained c s) := by
  unfold execContextDrained
  dsimp only
  split
  · simp
  · split <;> simp

theorem execRingBarge_start (b : BasinId) (r : RingId) (s : State) : s.KeepsStart (execRingBarge b r s) := by
  unfold execRingBarge
  dsimp only
  split
  · simp
  · split
    · simp [State.nextOf_pkg ‹_›]
    · split
      · simp [State.nextOf_pkg ‹_›]
      · split <;> simp [State.nextOf_pkg ‹_›]

/-! ### The commands of `Machine/Mailbox` -/

theorem execTopologyQuery_start (b : BasinId) (s : State) : s.KeepsStart (execTopologyQuery b s) := by
  simp [execTopologyQuery]

theorem execSetStep_start (b : BasinId) (s : State) : s.KeepsStart (execSetStep b s) := by simp [execSetStep]

theorem execTranslationRoot_start (b : BasinId) (s : State) : s.KeepsStart (execTranslationRoot b s) := by
  simp [execTranslationRoot]

theorem execTranslationFlush_start (b : BasinId) (s : State) : s.KeepsStart (execTranslationFlush b s) := by
  refine (State.keepsStart_next _ _).mpr (State.command_start_of fun _ t ht => ?_)
  split <;> simp [ht]

theorem execSemaphoreSignal_start (b : BasinId) (s : State) : s.KeepsStart (execSemaphoreSignal b s) := by
  simp [execSemaphoreSignal]

theorem execAbort_start (b : BasinId) (s : State) : s.KeepsStart (execAbort b s) := by simp [execAbort]

theorem execContextFault_start (c : CoreId) (s : State) : s.KeepsStart (execContextFault c s) := by
  unfold execContextFault
  dsimp only
  split
  · simp
  · split <;> simp

theorem execRingSetup_start (b : BasinId) (s : State) : s.KeepsStart (execRingSetup b s) := by simp [execRingSetup]
theorem execFlowRing_start (b : BasinId) (s : State) : s.KeepsStart (execFlowRing b s) := by simp [execFlowRing]

theorem execResetContext_start (b : BasinId) (s : State) : s.KeepsStart (execResetContext b s) := by
  simp [execResetContext]

theorem execResetEngine_start (b : BasinId) (s : State) : s.KeepsStart (execResetEngine b s) := by
  simp [execResetEngine]

theorem execResetBasin_start (b : BasinId) (s : State) : s.KeepsStart (execResetBasin b s) := by
  simp [execResetBasin]

theorem execUnknownCommand_start (b : BasinId) (s : State) : s.KeepsStart (execUnknownCommand b s) := by
  simp [execUnknownCommand]

theorem execMboxOverrun_start (b : BasinId) (s : State) : s.KeepsStart (execMboxOverrun b s) := by
  simp [execMboxOverrun]

/-! ### The commands of `Machine/Start` -/

theorem execPcieConfigBeforeReady_start (g : SegId) (s : State) : s.KeepsStart (execPcieConfigBeforeReady g s) := by
  simp [execPcieConfigBeforeReady]

/-! ### The commands of `Machine/Clock` -/

theorem execReferenceQualified_start (d : DieId) (ref : Fin 2) (s : State) :
    s.KeepsStart (execReferenceQualified d ref s) := by simp [execReferenceQualified]

theorem execReferenceDisqualified_start (d : DieId) (ref : Fin 2) (s : State) :
    s.KeepsStart (execReferenceDisqualified d ref s) := by simp [execReferenceDisqualified]

theorem execPllRelock_start (d : DieId) (s : State) : s.KeepsStart (execPllRelock d s) := by simp [execPllRelock]

theorem execRevertToPrimary_start (d : DieId) (s : State) : s.KeepsStart (execRevertToPrimary d s) := by
  simp [execRevertToPrimary]

theorem execRootPllLossOfLock_start (d : DieId) (s : State) : s.KeepsStart (execRootPllLossOfLock d s) := by
  simp [execRootPllLossOfLock]

theorem execMgmtStartCondition_start (swapped : Bool) (s : State) :
    s.KeepsStart (execMgmtStartCondition swapped s) := by simp [execMgmtStartCondition]

theorem execMgmtLinesShorted_start (s : State) : s.KeepsStart (execMgmtLinesShorted s) := by
  simp [execMgmtLinesShorted]

theorem execMgmtLinesCleared_start (s : State) : s.KeepsStart (execMgmtLinesCleared s) := by
  simp [execMgmtLinesCleared]

theorem execStepChangeComplete_start (x : ComplexId) (s : State) : s.KeepsStart (execStepChangeComplete x s) := by
  unfold execStepChangeComplete
  dsimp only
  split <;> simp

theorem execVfreqWrite_start (h : HartId) (p : Priv) (v : W64) (s : State) :
    s.KeepsStart (execVfreqWrite h p v s) := by
  unfold execVfreqWrite
  dsimp only
  split
  · simp
  · split <;> simp

theorem execErrHwaddrWrite_start (h : HartId) (p : Priv) (v : W64) (s : State) :
    s.KeepsStart (execErrHwaddrWrite h p v s) := by
  unfold execErrHwaddrWrite
  dsimp only
  split
  · simp
  · split <;> simp

/-! ### The commands of `Machine/Sluice` -/

theorem execSluiceStep_start (b : BasinId) (r : RingId) (s : State) : s.KeepsStart (execSluiceStep b r s) := by
  unfold execSluiceStep
  split
  · simp
  · split
    · simp [State.nextOf_pkg ‹_›]
    · split <;> simp [State.nextOf_pkg ‹_›]

theorem execBucketReady_start (b : BasinId) (d : CDieId) (step : W32) (entry : Nat) (s : State) :
    s.KeepsStart (execBucketReady b d step entry s) := by
  unfold execBucketReady
  split
  · simp
  · split <;> simp

theorem execContributionReceived_start (b : BasinId) (d : CDieId) (m : SluiceMsg) (s : State) :
    s.KeepsStart (execContributionReceived b d m s) := by simp [execContributionReceived]

theorem execQuarantineMarker_start (b : BasinId) (d : CDieId) (m : SluiceMsg) (s : State) :
    s.KeepsStart (execQuarantineMarker b d m s) := by simp [execQuarantineMarker]

theorem execAdmissionComplete_start (k : SliceKey) (s : State) : s.KeepsStart (execAdmissionComplete k s) := by
  unfold execAdmissionComplete
  split
  · simp
  · split <;> simp

theorem execGateDeadline_start (k : SliceKey) (s : State) : s.KeepsStart (execGateDeadline k s) := by
  unfold execGateDeadline
  split <;> simp

theorem execCollationRoom_start (b : BasinId) (d : CDieId) (s : State) : s.KeepsStart (execCollationRoom b d s) := by
  simp [execCollationRoom]

theorem execNormPartial_start (b : BasinId) (step : W32) (member : W16) (q : W64) (s : State) :
    s.KeepsStart (execNormPartial b step member q s) := by simp [execNormPartial]

theorem execNormTotal_start (b : BasinId) (step : W32) (q : W64) (s : State) :
    s.KeepsStart (execNormTotal b step q s) := by simp [execNormTotal]

theorem execNormWaitExpiry_start (k : SliceKey) (s : State) : s.KeepsStart (execNormWaitExpiry k s) := by
  unfold execNormWaitExpiry
  dsimp only
  split <;> simp

theorem execUpdateComplete_start (k : SliceKey) (s : State) : s.KeepsStart (execUpdateComplete k s) := by
  unfold execUpdateComplete
  split
  · split <;> simp
  · simp

theorem execParametersReceived_start (b : BasinId) (d : CDieId) (m : SluiceMsg) (s : State) :
    s.KeepsStart (execParametersReceived b d m s) := by simp [execParametersReceived]

theorem execMomentMirror_start (b : BasinId) (d : CDieId) (m : SluiceMsg) (s : State) :
    s.KeepsStart (execMomentMirror b d m s) := by simp [execMomentMirror]

theorem execMirrorAck_start (k : SliceKey) (s : State) : s.KeepsStart (execMirrorAck k s) := by
  simp [execMirrorAck]

theorem execBroadcastWaitExpiry_start (b : BasinId) (d : CDieId) (step : W32) (entry : Nat) (s : State) :
    s.KeepsStart (execBroadcastWaitExpiry b d step entry s) := by
  unfold execBroadcastWaitExpiry
  dsimp only
  split
  · simp
  · split
    · split
      · simp
      · split
        · split <;> simp
        · simp
    · simp

theorem execRefetchRequest_start (b : BasinId) (d : CDieId) (m : SluiceMsg) (s : State) :
    s.KeepsStart (execRefetchRequest b d m s) := by simp [execRefetchRequest]

theorem execRefetchData_start (b : BasinId) (d : CDieId) (m : SluiceMsg) (s : State) :
    s.KeepsStart (execRefetchData b d m s) := by simp [execRefetchData]

/-! ### The commands of `Machine/Quire` -/

theorem execStageBegin_start (b : BasinId) (s : State) : s.KeepsStart (execStageBegin b s) := by
  refine (State.keepsStart_next _ _).mpr (State.command_start _ _ _ _ _ _ fun _ t => ?_)
  split <;> simp

theorem execStageData_start (b : BasinId) (s : State) : s.KeepsStart (execStageData b s) := by simp [execStageData]
theorem execStageEnd_start (b : BasinId) (s : State) : s.KeepsStart (execStageEnd b s) := by simp [execStageEnd]
theorem execValidate_start (b : BasinId) (s : State) : s.KeepsStart (execValidate b s) := by simp [execValidate]
theorem execTurn_start (b : BasinId) (s : State) : s.KeepsStart (execTurn b s) := by simp [execTurn]

theorem execTurnAtReset_start (b : BasinId) (s : State) : s.KeepsStart (execTurnAtReset b s) := by
  simp [execTurnAtReset]

theorem execQuireQuery_start (b : BasinId) (s : State) : s.KeepsStart (execQuireQuery b s) := by
  simp [execQuireQuery]

theorem execTurnPrepare_start (d : DieId) (s : State) : s.KeepsStart (execTurnPrepare d s) := by
  unfold execTurnPrepare
  dsimp only
  split <;> simp

theorem execTurnVote_start (d : DieId) (s : State) : s.KeepsStart (execTurnVote d s) := by
  unfold execTurnVote
  dsimp only
  split
  · simp
  · split <;> simp

theorem execTurnVoteDeadline_start (s : State) : s.KeepsStart (execTurnVoteDeadline s) := by
  unfold execTurnVoteDeadline
  dsimp only
  split <;> simp

theorem execTurnDecision_start (d : DieId) (s : State) : s.KeepsStart (execTurnDecision d s) := by
  unfold execTurnDecision
  dsimp only
  split
  · simp
  · split
    · simp
    · split <;> simp

theorem execTurnSwap_start (s : State) : s.KeepsStart (execTurnSwap s) := by
  unfold execTurnSwap
  dsimp only
  split <;> simp

theorem execTurnAck_start (d : DieId) (s : State) : s.KeepsStart (execTurnAck d s) := by
  unfold execTurnAck
  dsimp only
  split <;> simp

theorem execSelectorWriteComplete_start (s : State) : s.KeepsStart (execSelectorWriteComplete s) := by
  unfold execSelectorWriteComplete
  dsimp only
  split <;> simp

theorem execTurnRetry_start (s : State) : s.KeepsStart (execTurnRetry s) := by
  unfold execTurnRetry
  dsimp only
  split <;> simp

theorem execTurnDecisionQueryTimeout_start (d : DieId) (s : State) :
    s.KeepsStart (execTurnDecisionQueryTimeout d s) := by
  unfold execTurnDecisionQueryTimeout
  split <;> simp

theorem execPldmRequestUpdate_start (s : State) : s.KeepsStart (execPldmRequestUpdate s) := by
  unfold execPldmRequestUpdate
  dsimp only
  split
  · simp
  · split
    · split
      · simp
      · split <;> simp
    · split
      · simp
      · split
        · simp
        · split <;> simp

theorem execPldmFirmwareData_start (offset : W32) (data : Bytes) (last : Bool) (s : State) :
    s.KeepsStart (execPldmFirmwareData offset data last s) := by simp [execPldmFirmwareData]

/-! ### The commands of `Machine/Towpath` -/

theorem execTrainingAttempt_start (p : PortId) (shorted : Byte) (s : State) :
    s.KeepsStart (execTrainingAttempt p shorted s) := by simp [execTrainingAttempt]

theorem execPortTrained_start (p : PortId) (o : TrainOutcome) (s : State) :
    s.KeepsStart (execPortTrained p o s) := by
  unfold execPortTrained
  dsimp only
  split
  · simp
  · split <;> simp

theorem execPortLoss_start (p : PortId) (lost : Byte) (s : State) : s.KeepsStart (execPortLoss p lost s) := by
  simp [execPortLoss]

theorem execFastRetrainComplete_start (p : PortId) (good : Byte) (ok : Bool) (s : State) :
    s.KeepsStart (execFastRetrainComplete p good ok s) := by
  unfold execFastRetrainComplete
  dsimp only
  split
  · simp
  · split <;> simp

theorem execProbationPassed_start (p : PortId) (s : State) : s.KeepsStart (execProbationPassed p s) := by
  simp [execProbationPassed]

theorem execProbationTimeout_start (p : PortId) (s : State) : s.KeepsStart (execProbationTimeout p s) := by
  simp [execProbationTimeout]

theorem execDataFrame_start (p : PortId) (raw : Bytes) (s : State) : s.KeepsStart (execDataFrame p raw s) := by
  simp [execDataFrame]

theorem execAckCreditFrame_start (p : PortId) (header payload : Bytes) (s : State) :
    s.KeepsStart (execAckCreditFrame p header payload s) := by simp [execAckCreditFrame]

theorem execNakFrame_start (p : PortId) (raw : Bytes) (s : State) : s.KeepsStart (execNakFrame p raw s) := by
  simp [execNakFrame]

theorem execUncorrectableFrame_start (p : PortId) (s : State) : s.KeepsStart (execUncorrectableFrame p s) := by
  simp [execUncorrectableFrame]

theorem execNakResendTimer_start (p : PortId) (s : State) : s.KeepsStart (execNakResendTimer p s) := by
  simp [execNakResendTimer]

theorem execCreditReturnTimer_start (p : PortId) (s : State) : s.KeepsStart (execCreditReturnTimer p s) := by
  simp [execCreditReturnTimer]

theorem execReservedFrameKind_start (p : PortId) (raw : Bytes) (s : State) :
    s.KeepsStart (execReservedFrameKind p raw s) := by simp [execReservedFrameKind]

theorem execResumeQuery_start (p : PortId) (head crc payload : Bytes) (s : State) :
    s.KeepsStart (execResumeQuery p head crc payload s) := by simp [execResumeQuery]

theorem execResumeAnswer_start (p : PortId) (head crc payload : Bytes) (s : State) :
    s.KeepsStart (execResumeAnswer p head crc payload s) := by simp [execResumeAnswer]

theorem execTowpathSend_start (b : BasinId) (r : RingId) (s : State) : s.KeepsStart (execTowpathSend b r s) := by
  unfold execTowpathSend
  dsimp only
  split
  · simp
  · split <;> simp [State.nextOf_pkg ‹_›]

theorem execSlowWaterHoldEnd_start (b : BasinId) (s : State) : s.KeepsStart (execSlowWaterHoldEnd b s) := by
  simp [execSlowWaterHoldEnd]

theorem execPortQuiesce_start (b : BasinId) (s : State) : s.KeepsStart (execPortQuiesce b s) := by
  simp [execPortQuiesce]

theorem execEthernetDatagram_start (p : PortId) (raw : Bytes) (s : State) :
    s.KeepsStart (execEthernetDatagram p raw s) := by
  unfold execEthernetDatagram
  split
  · simp
  · split
    · simp
    · split <;> simp

theorem execArpRequest_start (p : PortId) (target : Bytes) (s : State) :
    s.KeepsStart (execArpRequest p target s) := by
  simp [execArpRequest]

theorem execNeighborSolicitation_start (p : PortId) (target : Bytes) (s : State) :
    s.KeepsStart (execNeighborSolicitation p target s) := by simp [execNeighborSolicitation]

theorem execPauseFrame_start (p : PortId) (priorities : Byte) (s : State) :
    s.KeepsStart (execPauseFrame p priorities s) := by simp [execPauseFrame]

theorem execFlowAckTimer_start (p : PortId) (flow : FlowId) (s : State) :
    s.KeepsStart (execFlowAckTimer p flow s) := by
  unfold execFlowAckTimer
  split <;> simp

theorem execFlowNakRepeat_start (p : PortId) (flow : FlowId) (s : State) :
    s.KeepsStart (execFlowNakRepeat p flow s) := by
  unfold execFlowNakRepeat
  split <;> simp

theorem execFlowGapTimeout_start (p : PortId) (flow : FlowId) (s : State) :
    s.KeepsStart (execFlowGapTimeout p flow s) := by
  unfold execFlowGapTimeout
  dsimp only
  split <;> simp

theorem execTimeRequestTimer_start (d : CDieId) (s : State) : s.KeepsStart (execTimeRequestTimer d s) := by
  unfold execTimeRequestTimer
  dsimp only
  split
  · simp
  · split <;> simp

theorem execTimeRequest_start (p : PortId) (raw : Bytes) (s : State) : s.KeepsStart (execTimeRequest p raw s) := by
  simp [execTimeRequest]

theorem execTimeResponse_start (p : PortId) (head crc payload : Bytes) (s : State) :
    s.KeepsStart (execTimeResponse p head crc payload s) := by simp [execTimeResponse]

/-! ### The commands of `Machine/Gov` -/

theorem execHourlyTrim_start (s : State) : s.KeepsStart (execHourlyTrim s) := by simp [execHourlyTrim]

theorem execLockCycleBoundary_start (m : LockMeas) (s : State) : s.KeepsStart (execLockCycleBoundary m s) := by
  unfold execLockCycleBoundary
  extract_lets watts cyc s1 s2 s3 p s4 s5 ks s6 s7 s8
  have h3 : s3.pkg = s.pkg := by simp [s3, s2, s1]
  have h5 : s.SameStart s5 := by
    refine State.SameStart.trans (t := s4) (by simp [s4, p, h3]) (State.forEach_start _ _ fun t d => ?_)
    split <;> simp
  clear_value s5
  rw [State.keepsStart_next]
  split
  · exact h5
  · simp [s8, s7, s6, h5]

theorem execGovernorEvaluation_start (temps : List (Option Nat)) (s : State) :
    s.KeepsStart (execGovernorEvaluation temps s) := by
  unfold execGovernorEvaluation
  extract_lets p w c s1 src s2 t scales s3 s4 s5 s6 s7
  rw [State.keepsStart_next]
  split
  · exact ⟨rfl, rfl⟩
  · have h2 : s.SameStart s2 := by simp [s2, src, s1]
    have h4 : s4.pkg = s3.pkg := State.forEach_pkg _ _ fun t k => by split <;> simp
    have h7 : s.SameStart s7 := by simpa [s7, s6, s5, h4, s3] using h2
    clear_value s7
    exact (h7.trans (s7.floorCounts_start ..)).trans (State.overTempCheck_start _)

theorem State.SameStart.trip {s t : State} (h : s.SameStart t) (d temp : Nat) (l : List Bool) :
    s.SameStart (t.setPkg { t.pkg with thermTrip := true, tripDie := d, tripTemp := temp, domains := l }) := h

theorem State.SameStart.emptyRings {s t : State} (h : s.SameStart t) : s.SameStart { t with ringBarges := [] } := h

theorem execThermalTrip_start (d : DieId) (s : State) : s.KeepsStart (execThermalTrip d s) := by
  unfold execThermalTrip
  extract_lets f p s1 s2 s3 s4 s5 s6
  rw [State.keepsStart_next]
  split
  · exact ⟨rfl, rfl⟩
  · have hf : s.SameStart f.2 := by simp [f]
    have h1 : s.SameStart s1 := hf.trip ..
    have h2 : s2.pkg = s1.pkg := State.forEach_pkg _ _ fun _ _ => rfl
    have h3 : s3.pkg = s2.pkg := State.forEach_pkg _ _ fun _ _ => rfl
    have h4 : s4.pkg = s3.pkg := State.forEach_pkg _ _ fun _ _ => rfl
    have h5 : s5.pkg = s4.pkg := State.forEach_pkg _ _ fun _ _ => rfl
    have h6 : s6.pkg = s5.pkg := State.forEach_pkg _ _ fun _ _ => rfl
    clear_value s6 s5 s4 s3 s2 s1
    have h : s.SameStart s6 := h1.of_pkg (h6.trans (h5.trans (h4.trans (h3.trans h2))))
    exact h.emptyRings.trans (State.raise_start ..)

theorem execPowerMonitorFail_start (rail : Fin 39) (s : State) : s.KeepsStart (execPowerMonitorFail rail s) := by
  simp [execPowerMonitorFail]

theorem execPldmSetCap_start (watts : Nat) (s : State) : s.KeepsStart (execPldmSetCap watts s) := by
  simp [execPldmSetCap]

theorem execPldmSensorRead_start (q : PldmSensor) (s : State) : s.KeepsStart (execPldmSensorRead q s) := by
  simp [execPldmSensorRead]

/-! ### The commands of `Machine/Regs` -/

theorem execLoReadLatch_start (path : AccessPath) (addr : BitVec 52) (s : State) :
    s.KeepsStart (execLoReadLatch path addr s) := by
  unfold execLoReadLatch
  dsimp only
  split
  · simp
  · split
    · simp
    · split
      · simp
      · split
        · simp
        · split
          · simp [State.read32_pkg ‹_›]
          · simp

theorem execRingDoorbell_start (b : BasinId) (r : RingId) (prod : W32) (s : State) :
    s.KeepsStart (execRingDoorbell b r prod s) := by simp [execRingDoorbell]

theorem execRegisterWrite_start (path : AccessPath) (addr : BitVec 52) (width : Nat) (v : W64) (s : State) :
    s.KeepsStart (execRegisterWrite path addr width v s) := by simp [execRegisterWrite]

theorem execBsnIrqFwd_start (b : BasinId) (v : W32) (s : State) : s.KeepsStart (execBsnIrqFwd b v s) := by
  simp [execBsnIrqFwd]

theorem execChkPop_start (path : AccessPath) (u : CheckId) (s : State) : s.KeepsStart (execChkPop path u s) := by
  simp [execChkPop]

theorem execBsnChkPop_start (b : BasinId) (v : W32) (s : State) : s.KeepsStart (execBsnChkPop b v s) := by
  simp [execBsnChkPop]

theorem execMctpControlAccess_start (write : Bool) (addr : BitVec 52) (v : W32) (s : State) :
    s.KeepsStart (execMctpControlAccess write addr v s) := by
  unfold execMctpControlAccess
  dsimp only
  split
  · simp
  · split
    · simp
    · split
      · simp
      · split
        · simp
        · split
          · simp [State.read32_pkg ‹_›]
          · simp

/-! ### The commands of `Machine/Hosts` -/

theorem execHostRead_start (b : BasinId) (addr : W64) (len : Nat) (s : State) :
    s.KeepsStart (execHostRead b addr len s) := by
  unfold execHostRead
  dsimp only
  split
  · simp
  · split
    · simp
    · split
      · simp
      · simp
      · split <;> simp

theorem execHostWrite_start (b : BasinId) (addr : W64) (data : Bytes) (s : State) :
    s.KeepsStart (execHostWrite b addr data s) := by
  unfold execHostWrite
  dsimp only
  split
  · simp
  · split
    · simp
    · split <;> simp

theorem execDeviceMemoryRequest_start (g : SegId) (write : Bool) (addr : W64) (len : Nat) (data : Bytes)
    (s : State) :
    s.KeepsStart (execDeviceMemoryRequest g write addr len data s) := by
  unfold execDeviceMemoryRequest
  dsimp only
  split
  · simp
  · split
    · simp
    · split
      · simp
      · split <;> simp

theorem execDeviceIrqFwd_start (g : SegId) (v : W32) (s : State) : s.KeepsStart (execDeviceIrqFwd g v s) := by
  unfold execDeviceIrqFwd
  split <;> simp

theorem execEndpointLinkDown_start (g : SegId) (s : State) : s.KeepsStart (execEndpointLinkDown g s) := by
  simp [execEndpointLinkDown]

theorem execPerstNAssert_start (g : SegId) (s : State) : s.KeepsStart (execPerstNAssert g s) := by
  simp [execPerstNAssert]

theorem execPerstNRelease_start (g : SegId) (s : State) : s.KeepsStart (execPerstNRelease g s) := by
  simp [execPerstNRelease]

theorem execSegmentLinkUp_start (g : SegId) (s : State) : s.KeepsStart (execSegmentLinkUp g s) := by
  simp [execSegmentLinkUp]

theorem execPcieConfigRequest_start (g : SegId) (q : CfgReq) (s : State) :
    s.KeepsStart (execPcieConfigRequest g q s) := by
  unfold execPcieConfigRequest
  dsimp only
  split
  · simp
  · split
    · simp
    · split
      · simp
      · split <;> simp

theorem execBasinOpenComplete_start (b : BasinId) (s : State) : s.KeepsStart (execBasinOpenComplete b s) := by
  simp [execBasinOpenComplete]

/-! ### The commands of `Machine/Keeper` -/

theorem execKeeperLockstepMismatch_start (d : DieId) (s : State) : s.KeepsStart (execKeeperLockstepMismatch d s) := by
  simp [execKeeperLockstepMismatch]

theorem execKeeperWatchdogExpiry_start (d : DieId) (s : State) : s.KeepsStart (execKeeperWatchdogExpiry d s) := by
  simp [execKeeperWatchdogExpiry]

theorem execHeartbeatSend_start (s : State) : s.KeepsStart (execHeartbeatSend s) := by simp [execHeartbeatSend]

theorem execHeartbeatLoss_start (s : State) : s.KeepsStart (execHeartbeatLoss s) := by
  unfold execHeartbeatLoss
  dsimp only
  split <;> simp

theorem State.SameStart.askCycle {s t : State} (h : s.SameStart t) :
    s.SameStart (t.setPkg { t.pkg with cycleReq := true }) := h

theorem execProcessorKeeperSilence_start (d : CDieId) (s : State) :
    s.KeepsStart (execProcessorKeeperSilence d s) := by
  rw [execProcessorKeeperSilence, State.keepsStart_next]
  split
  · exact s.holdDomains_start.askCycle.trans (State.raise_start ..)
  · exact ⟨rfl, rfl⟩

theorem execJtagInstruction_start (ir : JtagIr) (s : State) : s.KeepsStart (execJtagInstruction ir s) := by
  simp [execJtagInstruction]

theorem execDdrBlockZeroed_start (block : Nat) (s : State) : s.KeepsStart (execDdrBlockZeroed block s) := by
  simp [execDdrBlockZeroed]

theorem execCxlZeroFillComplete_start (range : Fin 64) (s : State) :
    s.KeepsStart (execCxlZeroFillComplete range s) := by simp [execCxlZeroFillComplete]

/-! ### The commands of `Machine/Stitch` -/

theorem execCapabilityRecord_start (l : LinkId) (fromSecond : Bool) (record : Bytes) (s : State) :
    s.KeepsStart (execCapabilityRecord l fromSecond record s) := by
  unfold execCapabilityRecord
  dsimp only
  split
  · simp
  · split
    · simp
    · split <;> simp

theorem execWidthEcho_start (l : LinkId) (first second : BitVec 16) (s : State) :
    s.KeepsStart (execWidthEcho l first second s) := by
  unfold execWidthEcho
  dsimp only
  split
  · simp
  · split
    · simp
    · split <;> simp

theorem execStitchRead_start (d : DieId) (h : StitchHdr) (s : State) : s.KeepsStart (execStitchRead d h s) := by
  simp [execStitchRead]

theorem execStitchWrite_start (d : DieId) (h : StitchHdr) (enables : W64) (data : Bytes) (s : State) :
    s.KeepsStart (execStitchWrite d h enables data s) := by simp [execStitchWrite]

theorem execStitchCompletion_start (d : DieId) (h : StitchHdr) (data : Bytes) (s : State) :
    s.KeepsStart (execStitchCompletion d h data s) := by
  unfold execStitchCompletion
  dsimp only
  split
  · simp
  · split
    · simp
    · split <;> simp

theorem execStitchReservedType_start (l : LinkId) (type : Byte) (s : State) :
    s.KeepsStart (execStitchReservedType l type s) := by simp [execStitchReservedType]

theorem execSnoopRequest_start (d home : DieId) (line : BitVec 52) (kind : SnoopKind) (s : State) :
    s.KeepsStart (execSnoopRequest d home line kind s) := by
  unfold execSnoopRequest
  dsimp only
  split
  · simp
  · split <;> simp

theorem execSnoopResponse_start (home : DieId) (line : BitVec 52) (dirty : Bool) (data : Bytes) (s : State) :
    s.KeepsStart (execSnoopResponse home line dirty data s) := by simp [execSnoopResponse]

theorem execIsolationNotice_start (d lost : DieId) (_reason : Fin 3) (s : State) :
    s.KeepsStart (execIsolationNotice d lost _reason s) := by simp [execIsolationNotice]

theorem execFlitLossTimeout_start (l : LinkId) (lostSecond : Bool) (s : State) :
    s.KeepsStart (execFlitLossTimeout l lostSecond s) := by simp [execFlitLossTimeout]

theorem execLaneFault_start (l : LinkId) (module : Fin 16) (cause : LaneFaultCause) (s : State) :
    s.KeepsStart (execLaneFault l module cause s) := by
  unfold execLaneFault
  dsimp only
  split
  · simp
  · split <;> simp

theorem execStitchRetrainDone_start (l : LinkId) (repaired : Bool) (first second : BitVec 16) (s : State) :
    s.KeepsStart (execStitchRetrainDone l repaired first second s) := by
  unfold execStitchRetrainDone
  dsimp only
  split
  · simp
  · split
    · simp
    · split <;> simp

theorem execRouteDrainComplete_start (y t : DieId) (s : State) : s.KeepsStart (execRouteDrainComplete y t s) := by
  simp [execRouteDrainComplete]

/-! ### The commands of `Machine/Recovery` -/

theorem execHangSample_start (d : DieId) (s : State) : s.KeepsStart (execHangSample d s) := by
  simp [execHangSample]

theorem execRecoveryDecision_start (e : ErrEvent) (s : State) : s.KeepsStart (execRecoveryDecision e s) := by
  simp [execRecoveryDecision]

theorem execEndpaperStored_start (n : Nat) (s : State) : s.KeepsStart (execEndpaperStored n s) := by
  unfold execEndpaperStored
  dsimp only
  split <;> simp

theorem execResetComplete_start (n : Nat) (s : State) : s.KeepsStart (execResetComplete n s) := by
  unfold execResetComplete
  dsimp only
  split
  · simp
  · split
    · simp
    · split <;> simp

theorem execResetTimeout_start (n : Nat) (s : State) : s.KeepsStart (execResetTimeout n s) := by
  unfold execResetTimeout
  dsimp only
  split <;> simp

theorem execReadmission_start (n : Nat) (s : State) : s.KeepsStart (execReadmission n s) := by
  unfold execReadmission
  dsimp only
  split
  · simp
  · split
    · simp
    · split
      · simp
      · simp
      · split
        · simp
        · split <;> simp

theorem execPackageResetRequest_start (s : State) : s.KeepsStart (execPackageResetRequest s) := by
  simp [execPackageResetRequest]

theorem execEndpaperSetErase_start (s : State) : s.KeepsStart (execEndpaperSetErase s) := by
  simp [execEndpaperSetErase]

theorem State.SameStart.holdCycle {s t : State} (h : s.SameStart t) :
    s.SameStart ((t.setPkg { t.pkg with cycleHeld := true }).alert 5 true) := h

theorem execPowerCycleRequest_start (s : State) : s.KeepsStart (execPowerCycleRequest s) := by
  rw [execPowerCycleRequest, State.keepsStart_next]
  split
  · exact ⟨rfl, rfl⟩
  · split
    · exact ⟨rfl, rfl⟩
    · have h := s.holdDomains_start.of_pkg (State.emit_pkg _ (.pldmEvent 0x1006))
      dsimp only
      split
      · exact h.holdCycle
      · exact h.askCycle

/-! ### The commands of `Machine/Watch` -/

theorem execStepSummaryClose_start (b : BasinId) (s : State) : s.KeepsStart (execStepSummaryClose b s) := by
  unfold execStepSummaryClose
  dsimp only
  split <;> simp

theorem execCheckIntervalEnd_start (u : CheckId) (s : State) : s.KeepsStart (execCheckIntervalEnd u s) := by
  unfold execCheckIntervalEnd
  dsimp only
  split <;> simp

theorem execCheckIntervalReport_start (u : CheckId) (interval : W16) (crc : W64) (s : State) :
    s.KeepsStart (execCheckIntervalReport u interval crc s) := by
  unfold execCheckIntervalReport
  dsimp only
  split
  · split <;> simp
  · split
    · simp
    · split <;> simp

theorem execCheckPartnerMissing_start (u : CheckId) (s : State) : s.KeepsStart (execCheckPartnerMissing u s) := by
  unfold execCheckPartnerMissing
  dsimp only
  split <;> split <;> simp

/-! ### The commands of `Machine/Seq` -/

theorem execNop_start (c : CoreId) (s : State) : s.KeepsStart (execNop c s) := by simp [execNop]
theorem execLi_start (c : CoreId) (s : State) : s.KeepsStart (execLi c s) := by simp [execLi]

theorem execLih_start (c : CoreId) (s : State) : s.KeepsStart (execLih c s) := by
  rw [execLih, State.keepsStart_next]
  refine State.seqRun_start _ _ _ _ _ _ fun k w => ?_
  generalize Core.issued _ = k'
  exact ⟨rfl, rfl⟩

theorem execLd_start (c : CoreId) (s : State) : s.KeepsStart (execLd c s) := by
  rw [execLd, State.keepsStart_next]
  refine State.seqRun_start _ _ _ _ _ _ fun k w => ?_
  split
  · simp
  · generalize Core.issued _ = k'
    exact ⟨rfl, rfl⟩

theorem execSt_start (c : CoreId) (s : State) : s.KeepsStart (execSt c s) := by
  rw [execSt, State.keepsStart_next]
  refine State.seqRun_start _ _ _ _ _ _ fun k w => ?_
  split
  · simp
  · rw [State.SameStart, State.setCore_pkg, State.allocWrite_pkg]
    exact ⟨rfl, rfl⟩

theorem execRdsr_start (c : CoreId) (s : State) : s.KeepsStart (execRdsr c s) := by
  rw [execRdsr, State.keepsStart_next]
  refine State.seqRun_start _ _ _ _ _ _ fun k w => ?_
  split <;> simp

theorem execJmp_start (c : CoreId) (s : State) : s.KeepsStart (execJmp c s) := by simp [execJmp]
theorem execJmpr_start (c : CoreId) (s : State) : s.KeepsStart (execJmpr c s) := by simp [execJmpr]
theorem execLoop_start (c : CoreId) (s : State) : s.KeepsStart (execLoop c s) := by simp [execLoop]
theorem execLoopi_start (c : CoreId) (s : State) : s.KeepsStart (execLoopi c s) := by simp [execLoopi]

theorem execBrk_start (c : CoreId) (s : State) : s.KeepsStart (execBrk c s) := by
  rw [execBrk, State.keepsStart_next]
  refine State.seqRun_start _ _ _ _ _ _ fun k w => ?_
  extract_lets n
  split
  · simp
  · extract_lets rest
    split <;> simp

theorem execQbar_start (c : CoreId) (s : State) : s.KeepsStart (execQbar c s) := by
  rw [execQbar, State.keepsStart_next]
  refine State.seqRun_start _ _ _ _ _ _ fun k w => ?_
  dsimp only
  split
  · simp
  · split <;> simp

theorem execPhase_start (c : CoreId) (s : State) : s.KeepsStart (execPhase c s) := by
  rw [execPhase, State.keepsStart_next]
  refine State.seqRun_start _ _ _ _ _ _ fun k w => ?_
  split <;> simp

theorem execRtry_start (c : CoreId) (s : State) : s.KeepsStart (execRtry c s) := by
  rw [execRtry, State.keepsStart_next]
  refine State.seqRun_start _ _ _ _ _ _ fun k w => ?_
  extract_lets t
  split <;> simp

theorem execDraw_start (c : CoreId) (s : State) : s.KeepsStart (execDraw c s) := by
  rw [execDraw, State.keepsStart_next]
  refine State.seqRun_start _ _ _ _ _ _ fun k w => ?_
  dsimp only
  split
  · simp
  · split <;> simp

theorem execHalt_start (c : CoreId) (s : State) : s.KeepsStart (execHalt c s) := by
  rw [execHalt, State.keepsStart_next]
  refine State.seqRun_start _ _ _ _ _ _ fun k w => ?_
  split <;> simp

theorem execPhaseMarkTaken_start (c : CoreId) (s : State) : s.KeepsStart (execPhaseMarkTaken c s) := by
  simp [execPhaseMarkTaken]

theorem execUndefinedOpcode_start (c : CoreId) (s : State) : s.KeepsStart (execUndefinedOpcode c s) := by
  rw [execUndefinedOpcode, State.keepsStart_next]
  split
  · simp
  · simp
  · split <;> simp

/-! ### The start begun again (R86, R87) -/

/-- A start is under way: PKG_READY is deasserted and the row of R87 that asserts it has not run (R86, R87). -/
def State.Unready (s : State) : Prop := s.pkg.pkgReady = false ∧ s.pkg.phase ≠ .ready

theorem State.Unready.sameStart {s t : State} (hs : s.Unready) (h : s.SameStart t) : t.Unready := by
  rwa [State.Unready, h.1, h.2]

@[simp] theorem State.stopAll_pkg (s : State) (keepHistory : Bool) :
    (s.stopAll keepHistory).pkg = s.pkg.stopped keepHistory :=
  State.forEach_pkg _ _ fun _ _ => rfl

@[simp] theorem Pkg.stopped_pkgReady (p : Pkg) (keepHistory : Bool) : (p.stopped keepHistory).pkgReady = false := rfl

theorem State.adoptQuire_unready (s : State) (slot : Nat) (v : ValidateOut) (h : s.pkg.pkgReady = false) :
    (s.adoptQuire slot v).Unready := by
  unfold State.adoptQuire
  extract_lets t top src s1 prim s2 s3 both s4
  have h1 : s1.Unready := ⟨h, nofun⟩
  have h2 : s2.pkg = s1.pkg := State.forEach_pkg _ _ fun _ _ => rfl
  have h3 : s3.pkg = s2.pkg := State.forEach_pkg _ _ fun _ _ => State.sendVcore_pkg ..
  have h4 : s3.SameStart s4 := by
    simp only [s4]
    split <;> simp
  have h13 : s1.SameStart s3 := State.SameStart.of_pkg ⟨rfl, rfl⟩ (h3.trans h2)
  exact h1.sameStart ((h13.trans h4).trans (State.alert_start ..))

theorem State.selectSlot_unready (s : State) (h : s.pkg.pkgReady = false) : s.selectSlot.Unready := by
  unfold State.selectSlot
  extract_lets sel src s1 order first v1 v2 s2
  have h1 : s1.pkg.pkgReady = false := h
  have h2 : s2.Unready := s1.adoptQuire_unready first v1 h1
  split
  · split
    · exact h2.sameStart (State.writeSelector_start ..)
    · exact h2
  · split
    · exact (s1.adoptQuire_unready (1 - first) v2 h1).sameStart (State.raise_start ..)
    · exact ⟨h1, nofun⟩

theorem State.readFlash_unready (s : State) (h : s.pkg.pkgReady = false) : s.readFlash.Unready := by
  unfold State.readFlash
  split
  · exact State.selectSlot_unready _ h
  · exact State.selectSlot_unready _ h

theorem State.boot_unready (s : State) (h : s.pkg.pkgReady = false) : s.boot.Unready := by
  unfold State.boot
  extract_lets src s1 s2
  have h2 : s2.pkg.pkgReady = false := (congrArg Pkg.pkgReady s1.lockPlls_pkg).trans h
  split
  · exact ⟨h2, nofun⟩
  · split
    · exact ⟨h2, nofun⟩
    · split
      · exact ⟨h2, nofun⟩
      · exact s2.readFlash_unready h2

theorem State.restart_unready (s : State) : s.restart.Unready := by
  unfold State.restart
  refine State.boot_unready _ ?_
  rw [State.stopAll_pkg, Pkg.stopped_pkgReady]

theorem State.transition_unready (s : State) (a : Bytes) : (s.transition a).Unready :=
  State.restart_unready _

/-! ### The rows of the start do nothing once it is done (R87) -/

section
variable {s : State} (h : s.pkg.phase = .ready)
include h

theorem execPowerOnStart_of_ready (env : StartEnv) : execPowerOnStart env s = .next s := by
  simp [execPowerOnStart, h]

theorem execKeeperFirmwareLoaded_of_ready (failed : BitVec 6) : execKeeperFirmwareLoaded failed s = .next s := by
  simp [execKeeperFirmwareLoaded, h]

theorem execStitchStartTrained_of_ready (failed : BitVec 6) (timebase : W64) :
    execStitchStartTrained failed timebase s = .next s := by
  simp [execStitchStartTrained, h]

theorem execHbmTrainingComplete_of_ready (failed : BitVec 12) : execHbmTrainingComplete failed s = .next s := by
  simp [execHbmTrainingComplete, h]

theorem execClusterSelfTest_of_ready (failed : List (BitVec 36)) (shorted : List Byte) :
    execClusterSelfTest failed shorted s = .next s := by
  simp [execClusterSelfTest, h]

theorem execDdrTrainingComplete_of_ready (failed : BitVec 16) (dimmGib : List Nat) :
    execDdrTrainingComplete failed dimmGib s = .next s := by
  simp [execDdrTrainingComplete, h]

theorem execPkgReady_of_ready (cxlGib : List Nat) : execPkgReady cxlGib s = .next s := by
  simp [execPkgReady, h]

theorem execReferenceRetry_of_ready (ref0 ref1 : Bool) : execReferenceRetry ref0 ref1 s = .next s := by
  simp [execReferenceRetry, h]

/-- Firmware and a quire activated over PLDM move the start on in the row `noSlot` alone (R77). -/
theorem execPldmActivateFirmware_start_of_ready (selfContained : Bool) :
    s.KeepsStart (execPldmActivateFirmware selfContained s) := by
  rw [execPldmActivateFirmware, State.keepsStart_next]
  split
  · exact ⟨rfl, rfl⟩
  · rw [if_neg (by simp [h]), if_neg (by simp [h])]
    split
    · exact ⟨rfl, rfl⟩
    · extract_lets src t
      have ht : s.SameStart t := ⟨rfl, rfl⟩
      clear_value t
      split
      · exact ht.trans (t.requestTurn_start ..)
      · split
        · simp [ht]
        · simp [ht]

end

/-! ### The stops of R86 and the package resets (R94, R99) -/

theorem execPwrGoodFall_pkgReady {d : DieId} {s t : State} (h : execPwrGoodFall d s = .next t) :
    t.pkg.pkgReady = false := by
  cases h
  exact congrArg Pkg.pkgReady (s.stopAll_pkg false)

theorem execResetNLow_pkgReady {s t : State} (h : execResetNLow s = .next t) : t.pkg.pkgReady = false := by
  cases h
  exact congrArg Pkg.pkgReady (s.stopAll_pkg true)

/-- A transition of the life cycle that is refused leaves the start as it is; one that is taken begins it again (R99). -/
theorem execLifeCycle_start_or_unready {b : BasinId} {s t : State} (h : execLifeCycle b s = .next t) :
    s.SameStart t ∨ t.Unready := by
  cases h
  refine State.command_of (P := fun t => s.SameStart t ∨ t.Unready) (fun _ ht => .inl ht) fun a t ht => ?_
  dsimp only
  split
  · exact .inl (State.SameStart.of_pkg ⟨rfl, rfl⟩ ((State.replyRefused_pkg ..).trans ht))
  · exact .inr (State.transition_unready ..)

/-- The end of the copy to flash begins the start again where the recovery resets the package (R459, R466). -/
theorem execEndpaperFlashCopyDone_start_or_unready {ok : Bool} {s t : State}
    (h : execEndpaperFlashCopyDone ok s = .next t) : s.SameStart t ∨ t.Unready := by
  unfold execEndpaperFlashCopyDone at h
  cases h
  split
  · exact .inl ⟨rfl, rfl⟩
  · split
    · exact .inl ⟨rfl, rfl⟩
    · extract_lets e t1 src t2 kept u1 u2
      have h1 : s.SameStart t1 := by
        simp only [t1]
        split <;> simp
      split
      · exact .inl (h1.trans ⟨rfl, rfl⟩)
      · have h2 : u1.SameStart u2 := by
          simp only [u2]
          split <;> simp
        exact .inr ((t2.restart_unready.sameStart h2).sameStart ⟨rfl, rfl⟩)

/-! ### PKG_READY over one command (R89) -/

/-- Once the start is done, a command that neither stops the package nor resets it leaves the start as it is. -/
theorem exec_start_of_ready {c : Instr} {s : State} (h : s.pkg.phase = .ready) (hs : ¬ Stops c)
    (hr : ¬ ResetsPackage c) : s.KeepsStart (exec c s) := by
  cases c with
  | powerOnStart env => exact .of_eq (execPowerOnStart_of_ready h env)
  | pwrGoodFall d => exact absurd (.inl ⟨d, rfl⟩) hs
  | keeperFirmwareLoaded failed => exact .of_eq (execKeeperFirmwareLoaded_of_ready h failed)
  | stitchStartTrained failed timebase => exact .of_eq (execStitchStartTrained_of_ready h failed timebase)
  | hbmTrainingComplete failed => exact .of_eq (execHbmTrainingComplete_of_ready h failed)
  | clusterSelfTest failed shorted => exact .of_eq (execClusterSelfTest_of_ready h failed shorted)
  | ddrTrainingComplete failed dimmGib => exact .of_eq (execDdrTrainingComplete_of_ready h failed dimmGib)
  | pkgReady cxlGib => exact .of_eq (execPkgReady_of_ready h cxlGib)
  | pcieConfigBeforeReady _ => exact execPcieConfigBeforeReady_start _ s
  | referenceQualified _ _ => exact execReferenceQualified_start _ _ s
  | referenceDisqualified _ _ => exact execReferenceDisqualified_start _ _ s
  | pllRelock _ => exact execPllRelock_start _ s
  | revertToPrimary _ => exact execRevertToPrimary_start _ s
  | referenceRetry ref0 ref1 => exact .of_eq (execReferenceRetry_of_ready h ref0 ref1)
  | rootPllLossOfLock _ => exact execRootPllLossOfLock_start _ s
  | mgmtStartCondition _ => exact execMgmtStartCondition_start _ s
  | vfreqWrite _ _ _ => exact execVfreqWrite_start _ _ _ s
  | stepChangeComplete _ => exact execStepChangeComplete_start _ s
  | loReadLatch _ _ => exact execLoReadLatch_start _ _ s
  | timeRequestTimer _ => exact execTimeRequestTimer_start _ s
  | timeRequest _ _ => exact execTimeRequest_start _ _ s
  | timeResponse _ _ _ _ => exact execTimeResponse_start _ _ _ _ s
  | stageBegin _ => exact execStageBegin_start _ s
  | stageData _ => exact execStageData_start _ s
  | stageEnd _ => exact execStageEnd_start _ s
  | validate _ => exact execValidate_start _ s
  | turn _ => exact execTurn_start _ s
  | turnAtReset _ => exact execTurnAtReset_start _ s
  | quireQuery _ => exact execQuireQuery_start _ s
  | turnPrepare _ => exact execTurnPrepare_start _ s
  | turnVote _ => exact execTurnVote_start _ s
  | turnDecision _ => exact execTurnDecision_start _ s
  | turnAck _ => exact execTurnAck_start _ s
  | turnDecisionQueryTimeout _ => exact execTurnDecisionQueryTimeout_start _ s
  | pldmFirmwareData _ _ _ => exact execPldmFirmwareData_start _ _ _ s
  | pldmActivateFirmware selfContained => exact execPldmActivateFirmware_start_of_ready h selfContained
  | keeperLockstepMismatch _ => exact execKeeperLockstepMismatch_start _ s
  | keeperWatchdogExpiry _ => exact execKeeperWatchdogExpiry_start _ s
  | processorKeeperSilence _ => exact execProcessorKeeperSilence_start _ s
  | lifeCycle b => exact absurd (.inr ⟨b, rfl⟩) hr
  | jtagInstruction _ => exact execJtagInstruction_start _ s
  | ddrBlockZeroed _ => exact execDdrBlockZeroed_start _ s
  | cxlZeroFillComplete _ => exact execCxlZeroFillComplete_start _ s
  | contextStart _ _ => exact execContextStart_start _ _ s
  | contextLoaded _ => exact execContextLoaded_start _ s
  | nop _ => exact execNop_start _ s
  | add _ => exact .of_sameStart (State.aluReg_start ..)
  | sub _ => exact .of_sameStart (State.aluReg_start ..)
  | and _ => exact .of_sameStart (State.aluReg_start ..)
  | or _ => exact .of_sameStart (State.aluReg_start ..)
  | xor _ => exact .of_sameStart (State.aluReg_start ..)
  | sll _ => exact .of_sameStart (State.aluReg_start ..)
  | srl _ => exact .of_sameStart (State.aluReg_start ..)
  | sra _ => exact .of_sameStart (State.aluReg_start ..)
  | mul _ => exact .of_sameStart (State.aluReg_start ..)
  | mulhu _ => exact .of_sameStart (State.aluReg_start ..)
  | slt _ => exact .of_sameStart (State.aluReg_start ..)
  | sltu _ => exact .of_sameStart (State.aluReg_start ..)
  | minu _ => exact .of_sameStart (State.aluReg_start ..)
  | maxu _ => exact .of_sameStart (State.aluReg_start ..)
  | addi _ => exact .of_sameStart (State.aluImm_start ..)
  | andi _ => exact .of_sameStart (State.aluImm_start ..)
  | ori _ => exact .of_sameStart (State.aluImm_start ..)
  | xori _ => exact .of_sameStart (State.aluImm_start ..)
  | slli _ => exact .of_sameStart (State.shiftImm_start ..)
  | srli _ => exact .of_sameStart (State.shiftImm_start ..)
  | srai _ => exact .of_sameStart (State.shiftImm_start ..)
  | li _ => exact execLi_start _ s
  | lih _ => exact execLih_start _ s
  | ld _ => exact execLd_start _ s
  | st _ => exact execSt_start _ s
  | rdsr _ => exact execRdsr_start _ s
  | jmp _ => exact execJmp_start _ s
  | beq _ => exact .of_sameStart (State.condBranch_start ..)
  | bne _ => exact .of_sameStart (State.condBranch_start ..)
  | blt _ => exact .of_sameStart (State.condBranch_start ..)
  | bge _ => exact .of_sameStart (State.condBranch_start ..)
  | bltu _ => exact .of_sameStart (State.condBranch_start ..)
  | bgeu _ => exact .of_sameStart (State.condBranch_start ..)
  | jmpr _ => exact execJmpr_start _ s
  | loop _ => exact execLoop_start _ s
  | loopi _ => exact execLoopi_start _ s
  | brk _ => exact execBrk_start _ s
  | qbar _ => exact execQbar_start _ s
  | phase _ => exact execPhase_start _ s
  | rtry _ => exact execRtry_start _ s
  | draw _ => exact execDraw_start _ s
  | halt _ => exact execHalt_start _ s
  | engineIssue _ _ => exact execEngineIssue_start _ _ s
  | instructionComplete _ _ => exact execInstructionComplete_start _ _ s
  | phaseMarkTaken _ => exact execPhaseMarkTaken_start _ s
  | regionOverflow _ => exact execRegionOverflow_start _ s
  | retryRestart _ => exact execRetryRestart_start _ s
  | contextDrained _ => exact execContextDrained_start _ s
  | contextFault _ => exact execContextFault_start _ s
  | mma _ => exact execMma_start _ s
  | tout _ => exact execTout_start _ s
  | tin _ => exact execTin_start _ s
  | tzero _ => exact execTzero_start _ s
  | pwin _ => exact execPwin_start _ s
  | vop _ => exact execVop_start _ s
  | vld _ => exact execVld_start _ s
  | vst _ => exact execVst_start _ s
  | vget _ => exact execVget_start _ s
  | vput _ => exact execVput_start _ s
  | tcvt _ => exact execTcvt_start _ s
  | tred _ => exact execTred_start _ s
  | rmrg _ => exact execRmrg_start _ s
  | scvt _ => exact execScvt_start _ s
  | radd _ => exact execRadd_start _ s
  | smax _ => exact execSmax_start _ s
  | fly _ => exact execFly_start _ s
  | brg _ => exact execBrg_start _ s
  | blin _ => exact execBlin_start _ s
  | bargeComplete _ => exact execBargeComplete_start _ s
  | bargeFail _ => exact execBargeFail_start _ s
  | poisonLoadTrap _ _ _ => exact execPoisonLoadTrap_start _ _ _ s
  | patrolScrub _ _ => exact execPatrolScrub_start _ _ s
  | swait _ => exact execSwait_start _ s
  | swaitSatisfied _ => exact execSwaitSatisfied_start _ s
  | ssig _ => exact execSsig_start _ s
  | sset _ => exact execSset_start _ s
  | srsig _ => exact execSrsig_start _ s
  | remoteSignalArrival _ => exact execRemoteSignalArrival_start _ s
  | srsigAck _ => exact execSrsigAck_start _ s
  | kbar _ => exact execKbar_start _ s
  | kwait _ => exact execKwait_start _ s
  | kjoin _ => exact execKjoin_start _ s
  | kleave _ => exact execKleave_start _ s
  | kettleRelease _ => exact execKettleRelease_start _ s
  | kettleUpdate _ _ _ _ => exact execKettleUpdate_start _ _ _ _ s
  | kettleUpdateResend _ => exact execKettleUpdateResend_start _ s
  | deadlockWindowExpiry _ => exact execDeadlockWindowExpiry_start _ s
  | sluiceStep _ _ => exact execSluiceStep_start _ _ s
  | bucketReady _ _ _ _ => exact execBucketReady_start _ _ _ _ s
  | contributionReceived _ _ _ => exact execContributionReceived_start _ _ _ s
  | quarantineMarker _ _ _ => exact execQuarantineMarker_start _ _ _ s
  | admissionComplete _ => exact execAdmissionComplete_start _ s
  | gateDeadline _ => exact execGateDeadline_start _ s
  | collationRoom _ _ => exact execCollationRoom_start _ _ s
  | normPartial _ _ _ _ => exact execNormPartial_start _ _ _ _ s
  | normTotal _ _ _ => exact execNormTotal_start _ _ _ s
  | normWaitExpiry _ => exact execNormWaitExpiry_start _ s
  | updateComplete _ => exact execUpdateComplete_start _ s
  | parametersReceived _ _ _ => exact execParametersReceived_start _ _ _ s
  | momentMirror _ _ _ => exact execMomentMirror_start _ _ _ s
  | mirrorAck _ => exact execMirrorAck_start _ s
  | broadcastWaitExpiry _ _ _ _ => exact execBroadcastWaitExpiry_start _ _ _ _ s
  | refetchRequest _ _ _ => exact execRefetchRequest_start _ _ _ s
  | refetchData _ _ _ => exact execRefetchData_start _ _ _ s
  | trainingAttempt _ _ => exact execTrainingAttempt_start _ _ s
  | portTrained _ _ => exact execPortTrained_start _ _ s
  | portLoss _ _ => exact execPortLoss_start _ _ s
  | fastRetrainComplete _ _ _ => exact execFastRetrainComplete_start _ _ _ s
  | probationPassed _ => exact execProbationPassed_start _ s
  | probationTimeout _ => exact execProbationTimeout_start _ s
  | dataFrame _ _ => exact execDataFrame_start _ _ s
  | ackCreditFrame _ _ _ => exact execAckCreditFrame_start _ _ _ s
  | nakFrame _ _ => exact execNakFrame_start _ _ s
  | uncorrectableFrame _ => exact execUncorrectableFrame_start _ s
  | nakResendTimer _ => exact execNakResendTimer_start _ s
  | creditReturnTimer _ => exact execCreditReturnTimer_start _ s
  | resumeQuery _ _ _ _ => exact execResumeQuery_start _ _ _ _ s
  | resumeAnswer _ _ _ _ => exact execResumeAnswer_start _ _ _ _ s
  | towpathSend _ _ => exact execTowpathSend_start _ _ s
  | ethernetDatagram _ _ => exact execEthernetDatagram_start _ _ s
  | arpRequest _ _ => exact execArpRequest_start _ _ s
  | neighborSolicitation _ _ => exact execNeighborSolicitation_start _ _ s
  | pauseFrame _ _ => exact execPauseFrame_start _ _ s
  | flowAckTimer _ _ => exact execFlowAckTimer_start _ _ s
  | flowNakRepeat _ _ => exact execFlowNakRepeat_start _ _ s
  | flowGapTimeout _ _ => exact execFlowGapTimeout_start _ _ s
  | slowWaterHoldEnd _ => exact execSlowWaterHoldEnd_start _ s
  | portQuiesce _ => exact execPortQuiesce_start _ s
  | capabilityRecord _ _ _ => exact execCapabilityRecord_start _ _ _ s
  | widthEcho _ _ _ => exact execWidthEcho_start _ _ _ s
  | stitchRead _ _ => exact execStitchRead_start _ _ s
  | stitchWrite _ _ _ _ => exact execStitchWrite_start _ _ _ _ s
  | stitchCompletion _ _ _ => exact execStitchCompletion_start _ _ _ s
  | snoopRequest _ _ _ _ => exact execSnoopRequest_start _ _ _ _ s
  | snoopResponse _ _ _ _ => exact execSnoopResponse_start _ _ _ _ s
  | isolationNotice d lost reason => exact execIsolationNotice_start d lost reason s
  | flitLossTimeout _ _ => exact execFlitLossTimeout_start _ _ s
  | laneFault _ _ _ => exact execLaneFault_start _ _ _ s
  | stitchRetrainDone _ _ _ _ => exact execStitchRetrainDone_start _ _ _ _ s
  | routeDrainComplete _ _ => exact execRouteDrainComplete_start _ _ s
  | topologyQuery _ => exact execTopologyQuery_start _ s
  | setStep _ => exact execSetStep_start _ s
  | translationRoot _ => exact execTranslationRoot_start _ s
  | translationFlush _ => exact execTranslationFlush_start _ s
  | semaphoreSignal _ => exact execSemaphoreSignal_start _ s
  | abort _ => exact execAbort_start _ s
  | ringSetup _ => exact execRingSetup_start _ s
  | flowRing _ => exact execFlowRing_start _ s
  | resetContext _ => exact execResetContext_start _ s
  | resetEngine _ => exact execResetEngine_start _ s
  | resetBasin _ => exact execResetBasin_start _ s
  | unknownCommand _ => exact execUnknownCommand_start _ s
  | mboxOverrun _ => exact execMboxOverrun_start _ s
  | ringDoorbell _ _ _ => exact execRingDoorbell_start _ _ _ s
  | ringNoop _ _ => exact execRingNoop_start _ _ s
  | ringBarge _ _ => exact execRingBarge_start _ _ s
  | ringEntryMalformed _ _ => exact execRingEntryMalformed_start _ _ s
  | registerWrite _ _ _ _ => exact execRegisterWrite_start _ _ _ _ s
  | bsnIrqFwd _ _ => exact execBsnIrqFwd_start _ _ s
  | deviceIrqFwd _ _ => exact execDeviceIrqFwd_start _ _ s
  | chkPop _ _ => exact execChkPop_start _ _ s
  | bsnChkPop _ _ => exact execBsnChkPop_start _ _ s
  | mctpControlAccess _ _ _ => exact execMctpControlAccess_start _ _ _ s
  | hostRead _ _ _ => exact execHostRead_start _ _ _ s
  | hostWrite _ _ _ => exact execHostWrite_start _ _ _ s
  | deviceMemoryRequest _ _ _ _ _ => exact execDeviceMemoryRequest_start _ _ _ _ _ s
  | endpointLinkDown _ => exact execEndpointLinkDown_start _ s
  | perstNAssert _ => exact execPerstNAssert_start _ s
  | lockCycleBoundary _ => exact execLockCycleBoundary_start _ s
  | governorEvaluation _ => exact execGovernorEvaluation_start _ s
  | thermalTrip _ => exact execThermalTrip_start _ s
  | powerMonitorFail _ => exact execPowerMonitorFail_start _ s
  | pldmSetCap _ => exact execPldmSetCap_start _ s
  | pldmSensorRead _ => exact execPldmSensorRead_start _ s
  | hangSample _ => exact execHangSample_start _ s
  | recoveryDecision _ => exact execRecoveryDecision_start _ s
  | endpaperStored _ => exact execEndpaperStored_start _ s
  | resetComplete _ => exact execResetComplete_start _ s
  | resetTimeout _ => exact execResetTimeout_start _ s
  | readmission _ => exact execReadmission_start _ s
  | endpaperFlashCopyDone ok => exact absurd (.inl ⟨ok, rfl⟩) hr
  | stepSummaryClose _ => exact execStepSummaryClose_start _ s
  | checkIntervalEnd _ => exact execCheckIntervalEnd_start _ s
  | checkIntervalReport _ _ _ => exact execCheckIntervalReport_start _ _ _ s
  | checkPartnerMissing _ => exact execCheckPartnerMissing_start _ s
  | undefinedOpcode _ => exact execUndefinedOpcode_start _ s
  | basinOpenComplete _ => exact execBasinOpenComplete_start _ s
  | perstNRelease _ => exact execPerstNRelease_start _ s
  | segmentLinkUp _ => exact execSegmentLinkUp_start _ s
  | errHwaddrWrite _ _ _ => exact execErrHwaddrWrite_start _ _ _ s
  | pcieConfigRequest _ _ => exact execPcieConfigRequest_start _ _ s
  | stitchReservedType _ _ => exact execStitchReservedType_start _ _ s
  | reservedFrameKind _ _ => exact execReservedFrameKind_start _ _ s
  | resetNLow => exact absurd (.inr rfl) hs
  | mgmtLinesShorted => exact execMgmtLinesShorted_start s
  | turnVoteDeadline => exact execTurnVoteDeadline_start s
  | turnSwap => exact execTurnSwap_start s
  | selectorWriteComplete => exact execSelectorWriteComplete_start s
  | turnRetry => exact execTurnRetry_start s
  | pldmRequestUpdate => exact execPldmRequestUpdate_start s
  | heartbeatSend => exact execHeartbeatSend_start s
  | heartbeatLoss => exact execHeartbeatLoss_start s
  | hourlyTrim => exact execHourlyTrim_start s
  | packageResetRequest => exact execPackageResetRequest_start s
  | endpaperSetErase => exact execEndpaperSetErase_start s
  | powerCycleRequest => exact execPowerCycleRequest_start s
  | mgmtLinesCleared => exact execMgmtLinesCleared_start s

theorem exec_pkgReady_of_stops {c : Instr} {s t : State} (hc : Stops c) (h : exec c s = .next t) :
    t.pkg.pkgReady = false := by
  obtain ⟨d, rfl⟩ | rfl := hc
  · exact execPwrGoodFall_pkgReady h
  · exact execResetNLow_pkgReady h

theorem exec_start_or_unready_of_resetsPackage {c : Instr} {s t : State} (hc : ResetsPackage c)
    (h : exec c s = .next t) : s.SameStart t ∨ t.Unready := by
  obtain ⟨ok, rfl⟩ | ⟨b, rfl⟩ := hc
  · exact execEndpaperFlashCopyDone_start_or_unready h
  · exact execLifeCycle_start_or_unready h

/-- Settles O8: every command but the stops and the package resets leaves the start and PKG_READY as they are once the
start is done; a stop clears PKG_READY, and a package reset either changes neither of the two or begins the start again,
with PKG_READY low and the phase not `ready`. -/
theorem pkgReadyStays : Obligations.PkgReadyStays := by
  intro c s t hinv hready hexec
  have hphase : s.pkg.phase = .ready := hinv hready
  refine ⟨fun hs hr => ?_, fun hs => exec_pkgReady_of_stops hs hexec, fun hr => ?_⟩
  · exact (exec_start_of_ready hphase hs hr t hexec).2.trans hready
  · obtain ⟨hp, hk⟩ | ⟨hk, hp⟩ := exec_start_or_unready_of_resetsPackage hr hexec
    · simp [hp, hk, hphase, hready]
    · simp [hk, hp]

end Sys2Proof.Machine
end

section
/-!
The instructions that write an address register (R106, R118, R119, R122). Each row, when it is next and sound, sets rd to
some value and goes on; with a0 as rd the write is no change, so only the sequencer's place and count differ.
-/
namespace Sys2Proof.Machine

open Sys2Proof.Claims

/-! ### Writes to a0, and a core after an issued instruction -/

@[simp] theorem Core.areg_zero (k : Core) : k.areg 0 = 0 := rfl

@[simp] theorem Core.setAreg_zero (k : Core) (v : W64) : k.setAreg 0 v = k := rfl

@[simp] theorem Core.issued_ctx (k : Core) : k.issued.ctx = k.ctx := by
  obtain ⟨p, l, r, x, h⟩ := k.issued_shape
  rw [h]

@[simp] theorem Core.issued_fault (k : Core) : k.issued.fault = k.fault := by
  obtain ⟨p, l, r, x, h⟩ := k.issued_shape
  rw [h]

theorem Core.goesOn_issued (k : Core) : GoesOn k k.issued := by
  intro hregion hloops
  rw [Core.issued_plain hregion hloops]
  exact ⟨rfl, rfl, hregion⟩

theorem Core.onlySequencer_issued (k : Core) : OnlySequencer k k.issued := by
  obtain ⟨p, l, r, x, h⟩ := k.issued_shape
  rw [OnlySequencer, h]

/-! ### Each row that writes a register -/

/-- A sequencer instruction that is next, with no field its own check refuses, runs its body. -/
theorem State.seqRun_of_next {s : State} {c op used : Nat} {w : W64} {bad : W64 → Bool} {body : Core → W64 → State}
    (hn : Next s c w 0 op used) (hb : bad w = false) : s.seqRun c op used bad body = body (s.core c) w :=
  State.seqRun_run hn.fetch hn.queue hn.op hn.clean hb

/-- The instruction of a row of `writers`, next and sound, sets the register of its rd field to some value and goes on. -/
def SetsRd (c : CoreId) (s : State) (w : W64) (e : Instr × Nat × Nat) : Prop :=
  Next s c w 0 e.2.1 e.2.2 → Sound s c w e.2.1 →
    ∃ v, exec e.1 s = .next (s.setCore c ((s.core c).setAreg (wA w) v).issued)

section
variable {c : CoreId} {s : State} {w : W64} {i : Instr} {op : Nat}

theorem aluReg_setsRd {f : W64 → W64 → W64} (hi : exec i s = .next (s.aluReg c op f)) :
    SetsRd c s w (i, op, maskA) := fun hn _ =>
  ⟨_, hi.trans (congrArg _ (State.seqRun_of_next hn rfl))⟩

theorem aluImm_setsRd {f : W64 → W64 → W64} (hi : exec i s = .next (s.aluImm c op f)) :
    SetsRd c s w (i, op, maskB) := fun hn _ =>
  ⟨_, hi.trans (congrArg _ (State.seqRun_of_next hn rfl))⟩

theorem shiftImm_setsRd {f : W64 → Nat → W64} (hop : op = 0x14 ∨ op = 0x15 ∨ op = 0x16)
    (hi : exec i s = .next (s.shiftImm c op f)) : SetsRd c s w (i, op, maskB) := by
  intro hn ⟨hshift, _, _⟩
  have himm : wImm32 w ≤ 63 := hshift hop
  exact ⟨_, hi.trans (congrArg _ (State.seqRun_of_next hn (by simpa using himm)))⟩

theorem li_setsRd : SetsRd c s w (.li c, 0x18, maskC) := fun hn _ =>
  ⟨_, congrArg _ (State.seqRun_of_next hn rfl)⟩

theorem lih_setsRd : SetsRd c s w (.lih c, 0x19, fieldMask 63 49 ||| fieldMask 15 0) := fun hn _ =>
  ⟨_, congrArg _ (State.seqRun_of_next hn rfl)⟩

/-- An aligned word inside the allocation is a legal offset of LD and ST (R119, R113). -/
theorem offsetBad_eq_false {k : Core} (halign : memOffset k w % 8 = 0)
    (hin : memOffset k w + 8 ≤ k.bankCount * 0x8000) : offsetBad k w = false := by
  have hlt : memOffset k w < k.bankCount * 0x8000 := by omega
  simp [offsetBad, Core.inAlloc, Core.allocSize, halign, hin, hlt]

theorem ld_setsRd : SetsRd c s w (.ld c, 0x1A, maskB) := by
  intro hn ⟨_, hld, _⟩
  obtain ⟨halign, hin⟩ := hld rfl
  have hoff : offsetBad (s.core c) w = false := offsetBad_eq_false halign hin
  exact ⟨_, congrArg _ ((State.seqRun_of_next hn rfl).trans (if_neg (by simp [hoff])))⟩

theorem rdsr_setsRd : SetsRd c s w (.rdsr c, 0x1C, fieldMask 63 49 ||| fieldMask 43 12) := by
  intro hn ⟨_, _, hrdsr⟩
  have hidx : ¬ 11 < wImm32 w := Nat.not_lt.mpr (hrdsr rfl)
  exact ⟨_, congrArg _ ((State.seqRun_of_next hn rfl).trans (if_neg hidx))⟩

end

theorem writers_setsRd (c : CoreId) (s : State) (w : W64) : ∀ e ∈ writers c, SetsRd c s w e := by
  simp only [writers, List.forall_mem_append, List.forall_mem_cons]
  refine ⟨⟨⟨?add, ?sub, ?and, ?or, ?xor, ?sll, ?srl, ?sra, ?mul, ?mulhu, List.forall_mem_nil _⟩,
    ?slt, ?sltu, ?minu, ?maxu, ?addi, ?andi, ?ori, ?xori, ?slli, ?srli, List.forall_mem_nil _⟩,
    ?srai, li_setsRd, lih_setsRd, ld_setsRd, rdsr_setsRd, List.forall_mem_nil _⟩
  case add | sub | and | or | xor | sll | srl | sra | mul | mulhu | slt | sltu | minu | maxu => exact aluReg_setsRd rfl
  case addi | andi | ori | xori => exact aluImm_setsRd rfl
  case slli | srli | srai => exact shiftImm_setsRd (by decide) rfl

/-! ### The statement -/

/-- Settles O28: every row that writes a register, when next and sound, is a write to rd followed by going on; with rd = a0 the
write is discarded, and what is left is the core with the instruction issued. -/
theorem zeroRegister : Obligations.ZeroRegister := by
  refine ⟨fun c s => Core.areg_zero _, fun c s w e he hn hs hrd => ?_⟩
  obtain ⟨v, hexec⟩ := writers_setsRd c s w e he hn hs
  rw [hrd, Core.setAreg_zero] at hexec
  have hctx : (s.core c).issued.ctx = .running := (Core.issued_ctx _).trans (State.fetch_running hn.fetch)
  exact ⟨(s.core c).issued, hexec, Core.issued_aregs _, hctx, Core.issued_fault _, Core.goesOn_issued _,
    Core.onlySequencer_issued _⟩

end Sys2Proof.Machine
end

section
/-!
TZERO from dispatch to completion (R117, R123, R124, R202). The sequencer refuses a mask with a reserved bit and queues any
other; at its completion a walk over the named tallies changes the elements of their registers and nothing else.
-/
namespace Sys2Proof.Machine

open Sys2Proof.Claims

/-! ### Bits of an instruction word -/

theorem bitOf_eq_testBit (v i : Nat) : bitOf v i = v.testBit i := by
  rw [bitOf, Nat.testBit_eq_decide_div_mod_eq, Nat.shiftRight_eq_div_pow]
  rfl

/-- A field of zero has no bit set. -/
theorem bitOf_of_bitsOf_eq_zero {v hi lo i : Nat} (h : bitsOf v hi lo = 0) (hlo : lo ≤ i) (hhi : i ≤ hi) :
    bitOf v i = false := by
  have hbit : (bitsOf v hi lo).testBit (i - lo) = v.testBit i := by
    simp only [bitsOf, Nat.testBit_mod_two_pow, Nat.testBit_shiftRight, show i - lo < hi + 1 - lo by omega,
      show lo + (i - lo) = i by omega, decide_true, Bool.true_and]
  rw [bitOf_eq_testBit, ← hbit, h, Nat.zero_testBit]

/-- What a word may not use, when it uses all bits from `lo` on: the bits below. -/
theorem allBits_xor_fieldMask {lo : Nat} (h : lo ≤ 64) : (2 ^ 64 - 1) ^^^ fieldMask 63 lo = 2 ^ lo - 1 := by
  refine Nat.eq_of_testBit_eq fun i => ?_
  simp only [fieldMask, Nat.testBit_xor, Nat.testBit_shiftLeft, Nat.testBit_two_pow_sub_one]
  by_cases hi : i < lo
  · simp only [hi, show i < 64 by omega, show ¬ lo ≤ i by omega, decide_true, decide_false, Bool.false_and,
      Bool.bne_false]
  · have hsame : i - lo < 63 + 1 - lo ↔ i < 64 := by omega
    simp only [hi, hsame, show lo ≤ i by omega, decide_true, decide_false, Bool.true_and, bne_self_eq_false]

/-- A word that uses the bits from `n + 1` on strays exactly when its field [n:0] is not zero (R118). -/
theorem strayBits_fieldMask (w : W64) {n : Nat} (h : n < 64) :
    strayBits w (fieldMask 63 (n + 1)) = (bitsOf w.toNat n 0 != 0) := by
  rw [strayBits, allBits_xor_fieldMask h, Nat.and_two_pow_sub_one_eq_mod]
  rfl

/-! ### The four queues -/

@[simp] theorem Q4.get_set {α : Type} (q : Q4 α) (e : Engine) (v : α) : (q.set e v).get e = v := by
  cases e <;> rfl

/-! ### A fault at decode or dispatch (R147, R149) -/

/-- At most core c differs between s and t, and it stands at the same index of its program. -/
def SameIndex (c : Nat) (s t : State) : Prop := OtherCores c s t ∧ (t.core c).pc = (s.core c).pc

theorem SameIndex.refl (c : Nat) (s : State) : SameIndex c s s := ⟨fun _ _ => rfl, rfl⟩

theorem SameIndex.trans {c : Nat} {s t u : State} (h : SameIndex c s t) (h' : SameIndex c t u) : SameIndex c s u :=
  ⟨fun j hj => (h'.1 j hj).trans (h.1 j hj), h'.2.trans h.2⟩

/-- Setting core c in a state with the same cores, at the same index. -/
theorem sameIndex_setCore {c : Nat} {s t : State} {k : Core} (hcores : t.cores = s.cores) (hpc : k.pc = (s.core c).pc) :
    SameIndex c s (t.setCore c k) := by
  refine ⟨fun j hj => ?_, by rw [State.setCore_self, hpc]⟩
  rw [State.setCore_get, if_neg hj, State.core, hcores, ← State.core]

theorem State.noteStall_sameIndex (s : State) (c : Nat) : SameIndex c s (s.noteStall c) := by
  unfold State.noteStall
  dsimp only
  split
  · split
    · exact sameIndex_setCore rfl rfl
    · exact .refl c s
  · split
    · exact .refl c s
    · exact sameIndex_setCore rfl rfl

@[simp] theorem State.endWait_cores (s : State) (k : Nat) (since : Option Nat) : (s.endWait k since).cores = s.cores := by
  cases since <;> rfl

theorem State.endWaits_sameIndex (s : State) (c : Nat) : SameIndex c s (s.endWaits c) := by
  unfold State.endWaits
  dsimp only
  have hwaits : (s.forEach (engines.flatMap (s.core c).flight.get) fun s f => s.endWait (c / 8) f.waitSince).cores =
      s.cores := State.forEach_same State.cores _ s fun t f _ => t.endWait_cores _ _
  refine .trans ?_ (State.noteStall_sameIndex _ c)
  exact sameIndex_setCore ((State.endWait_cores _ _ _).trans hwaits) rfl

theorem State.depart_sameIndex (s : State) (c : Nat) (short : Bool) : SameIndex c s (s.depart c short) := by
  unfold State.depart
  dsimp only
  refine sameIndex_setCore (State.forEach_same State.cores _ s fun t e _ => ?_) rfl
  split <;> rfl

theorem State.enterFault_sameMemory (s : State) (c code index : Nat) : SameMemory s (s.enterFault c code index) := by
  obtain ⟨k, l, g, p, h⟩ := s.enterFault_shape c code index
  exact State.byte_congr (by rw [h])

/-- A command that ends in a precise fault of the instruction next faults its context with that detail (R147, R149). -/
theorem faults_of_precise {i : Instr} {c : Nat} {s : State} {w : W64} {d : Nat} (hfetch : s.fetch c = .word w)
    (hexec : exec i s = .next (s.precise c d)) : Faults i c s (0x100 + d) := by
  obtain ⟨hothers, hpc⟩ : SameIndex c s ((s.endWaits c).depart c true) :=
    (s.endWaits_sameIndex c).trans ((s.endWaits c).depart_sameIndex c true)
  have hmem : SameMemory s (s.precise c d) := s.enterFault_sameMemory c _ _
  refine ⟨_, hexec, ?_⟩
  rw [State.precise, State.enterFault_running s _ c _ _ (State.fetch_running hfetch) rfl] at hmem ⊢
  rw [State.raise_core, State.setCluster_core, State.setCore_self]
  refine ⟨rfl, rfl, hpc, fun j hj => ?_, hmem⟩
  rw [State.raise_core, State.setCluster_core, State.setCore_get, if_neg hj, hothers j hj]

/-! ### Dispatch to an engine (R117, R123) -/

/-- The core with an instruction at the tail of an engine's queue and counted there. -/
def Core.enqueue (k : Core) (e : Engine) (q : QInstr) : Core :=
  { k with queue := k.queue.set e (k.queue.get e ++ [q])
           dispatched := k.dispatched.set e (k.dispatched.get e + 1)
           window := q.window }

section
variable {c op : Nat} {s : State} {w : W64} {e : Engine} {check : Core → W64 → Option Nat} {regs : W64 → List Nat}
  {window : Core → W64 → Option Window}

/-- An instruction that its engine has room for and whose checks pass is queued, and the sequencer goes on. -/
theorem State.engineDispatch_legal (hfetch : s.fetch c = .word w) (hqueue : wQueue w = engineQueue e) (hop : wOp w = op)
    (hroom : ((s.core c).queue.get e).length < 16) (hcheck : check (s.core c) w = none) :
    s.engineDispatch c e op check regs window = s.setCore c (((s.core c).enqueue e
      ⟨w, (regs w).map (s.core c).areg, (s.core c).pc, (s.core c).region.map (fun r => r.rung),
        (s.core c).dispatched.get e, window (s.core c) w⟩).after (s.core c).pc) := by
  unfold State.engineDispatch
  rw [hfetch]
  dsimp only
  rw [if_neg (not_or.mpr ⟨not_not_intro hqueue, not_not_intro hop⟩), if_neg (Nat.not_le.mpr hroom), hcheck]
  rfl

/-- An instruction that its engine has room for and that fails a check faults with the check's detail. -/
theorem State.engineDispatch_illegal {d : Nat} (hfetch : s.fetch c = .word w) (hqueue : wQueue w = engineQueue e)
    (hop : wOp w = op) (hroom : ((s.core c).queue.get e).length < 16) (hcheck : check (s.core c) w = some d) :
    s.engineDispatch c e op check regs window = s.precise c d := by
  unfold State.engineDispatch
  rw [hfetch]
  dsimp only
  rw [if_neg (not_or.mpr ⟨not_not_intro hqueue, not_not_intro hop⟩), if_neg (Nat.not_le.mpr hroom), hcheck]

end

/-! ### TZERO at its dispatch (R202) -/

/-- The check of TZERO: a set bit among [37:0] fails with detail 0x03. -/
theorem tzeroCheck_eq (w : W64) :
    firstFailure [(strayBits w (fieldMask 63 38), 0x03)] = if bitsOf w.toNat 37 0 = 0 then none else some 0x03 := by
  rw [strayBits_fieldMask w (n := 37) (by decide)]
  by_cases h : bitsOf w.toNat 37 0 = 0
  · rw [if_pos h, h]
    rfl
  · rw [if_neg h, firstFailure, if_pos (bne_iff_ne.mpr h)]

theorem tzero_faults {c : CoreId} {s : State} {w : W64} (hfetch : s.fetch c = .word w) (hqueue : wQueue w = 1)
    (hop : wOp w = 4) (hroom : (s.core c).queue.press.length < 16) (hmask : bitsOf w.toNat 37 0 ≠ 0) :
    Faults (.tzero c) c s 0x103 :=
  faults_of_precise (d := 0x03) hfetch (congrArg _ (State.engineDispatch_illegal (e := .press) hfetch hqueue hop hroom
    ((tzeroCheck_eq w).trans (if_neg hmask))))

theorem tzero_queues {c : CoreId} {s : State} {w : W64} (hfetch : s.fetch c = .word w) (hqueue : wQueue w = 1)
    (hop : wOp w = 4) (hroom : (s.core c).queue.press.length < 16) (hmask : bitsOf w.toNat 37 0 = 0) :
    exec (.tzero c) s = .next (s.setCore c (((s.core c).enqueue .press
      ⟨w, [], (s.core c).pc, (s.core c).region.map (fun r => r.rung), (s.core c).dispatched.press,
        (s.core c).window⟩).after (s.core c).pc)) :=
  congrArg _ (State.engineDispatch_legal (e := .press) hfetch hqueue hop hroom ((tzeroCheck_eq w).trans (if_pos hmask)))

/-! ### The elements of a tile -/

@[simp] theorem Core.setTile_tile (k : Core) (t e i j : Nat) (v : W32) :
    (k.setTile t e v).tile i j = if i * 1024 + j = t * 1024 + e then v else k.tile i j := nget_nset _ _ _ _ _

theorem Core.setTileFrom_shape (k : Core) (t e : Nat) (vs : List W32) :
    ∃ ts, k.setTileFrom t e vs = { k with tiles := ts } := by
  induction vs generalizing k e with
  | nil => exact ⟨k.tiles, rfl⟩
  | cons v vs ih =>
    obtain ⟨ts, h⟩ := ih (k.setTile t e v) (e + 1)
    exact ⟨ts, h⟩

/-- The elements of a tile after a run of them has been written: those of the run are the written ones, all others stay. -/
theorem Core.setTileFrom_tile (k : Core) (t e i j : Nat) (vs : List W32) (hj : j < 1024) (hrun : e + vs.length ≤ 1024) :
    (k.setTileFrom t e vs).tile i j = if i = t ∧ e ≤ j then vs.getD (j - e) (k.tile i j) else k.tile i j := by
  induction vs generalizing k e with
  | nil => rw [Core.setTileFrom, List.getD_nil, ite_self]
  | cons v vs ih =>
    rw [List.length_cons] at hrun
    rw [Core.setTileFrom, ih _ _ (by omega), Core.setTile_tile]
    have hplace : i * 1024 + j = t * 1024 + e ↔ i = t ∧ j = e := by omega
    simp only [hplace]
    by_cases hin : i = t ∧ e ≤ j
    · rcases Nat.eq_or_lt_of_le hin.2 with rfl | hgt
      · rw [if_neg (c := i = t ∧ e + 1 ≤ e) (by omega), if_pos ⟨hin.1, rfl⟩, if_pos hin, Nat.sub_self,
          List.getD_cons_zero]
      · rw [if_pos ⟨hin.1, hgt⟩, if_neg (c := i = t ∧ j = e) (by omega), if_pos hin,
          show j - e = j - (e + 1) + 1 by omega, List.getD_cons_succ]
    · rw [if_neg (c := i = t ∧ e + 1 ≤ j) (by omega), if_neg (c := i = t ∧ j = e) (by omega), if_neg hin]

/-- Writing the first n elements of a tile with zero zeroes those and no other tile's. -/
theorem Core.setTileFrom_zero_tile (k : Core) (t i j : Nat) {n : Nat} (hn : n ≤ 1024) (hj : j < n) :
    (k.setTileFrom t 0 (List.replicate n 0)).tile i j = if i = t then 0 else k.tile i j := by
  rw [Core.setTileFrom_tile k t 0 i j _ (by omega) (by rw [List.length_replicate]; omega)]
  simp only [List.getD_eq_getElem?_getD, List.getElem?_replicate, Nat.sub_zero, hj, Nat.zero_le, and_true, if_true,
    Option.getD_some]

/-! ### The walk over the named tallies (R202) -/

/-- Of the cores and the memory, nothing but tiles of core c differs between s and t. -/
structure OnlyTiles (c : Nat) (s t : State) : Prop where
  others : OtherCores c s t
  mem : t.mem = s.mem
  core : ∃ ts, t.core c = { s.core c with tiles := ts }

theorem OnlyTiles.refl (c : Nat) (s : State) : OnlyTiles c s s := ⟨fun _ _ => rfl, rfl, _, rfl⟩

theorem OnlyTiles.setCore {c : Nat} {s t : State} {k : Core} (h : OnlyTiles c s t)
    (hk : ∃ ts, k = { t.core c with tiles := ts }) : OnlyTiles c s (t.setCore c k) := by
  obtain ⟨ts, hcore⟩ := h.core
  obtain ⟨ts', rfl⟩ := hk
  refine ⟨fun j hj => ?_, h.mem, ts', by rw [State.setCore_self, hcore]⟩
  rw [State.setCore_get, if_neg hj, h.others j hj]

/-- The step of TZERO's walk for one tally. -/
def State.zeroTally (c : Nat) (s : State) (i : Nat) : State :=
  s.setCore c ((s.core c).setTileFrom i 0 (List.replicate 1024 0))

theorem State.zeroTallies_onlyTiles (c : Nat) (s : State) (l : List Nat) : OnlyTiles c s (s.forEach l (State.zeroTally c)) :=
  State.forEach_keeps l (.refl c s) fun t i _ h => h.setCore ((t.core c).setTileFrom_shape i 0 _)

/-- A tally of the walk ends at zero, wherever in the walk it stands; the others keep their elements. -/
theorem State.zeroTallies_tile (c : Nat) (s : State) (l : List Nat) (i j : Nat) (hj : j < 1024) :
    ((s.forEach l (State.zeroTally c)).core c).tile i j = if i ∈ l then 0 else (s.core c).tile i j := by
  induction l generalizing s with
  | nil => rw [State.forEach_nil, if_neg List.not_mem_nil]
  | cons a l ih =>
    rw [State.forEach_cons, ih, State.zeroTally, State.setCore_self, Core.setTileFrom_zero_tile _ _ _ _ (Nat.le_refl _) hj]
    by_cases hia : i = a
    · rw [if_pos hia, ite_self, if_pos (List.mem_cons.mpr (.inl hia))]
    · simp only [List.mem_cons, hia, false_or, if_false]

/-- The tallies that a mask names, in the order in which TZERO zeroes them. -/
def namedTallies (w : W64) : List Nat := (List.range 16).filter (fun i => bitOf w.toNat (38 + i))

theorem mem_namedTallies {w : W64} {i : Nat} (hi : i < 16) : i ∈ namedTallies w ↔ bitOf w.toNat (38 + i) = true := by
  rw [namedTallies, List.mem_filter, List.mem_range]
  exact and_iff_right hi

theorem namedTallies_of_mask_zero {w : W64} (h : bitsOf w.toNat 53 38 = 0) : namedTallies w = [] := by
  refine List.filter_eq_nil_iff.mpr fun i hi => ?_
  rw [bitOf_of_bitsOf_eq_zero h (by omega) (by have := List.mem_range.mp hi; omega)]
  exact Bool.false_ne_true

theorem State.finishPress_tzero (s : State) (c : Nat) {f : InFlight} (hop : wOp f.q.word = 4) :
    s.finishPress c f = s.forEach (namedTallies f.q.word) (State.zeroTally c) := by
  rw [State.finishPress, hop]
  rfl

/-! ### An instruction that completes (R124) -/

theorem Core.closeRegion_shape (k : Core) :
    ∃ p l r x, k.closeRegion = { k with pc := p, loops := l, region := r, rungLast := x } := by
  unfold Core.closeRegion
  dsimp only
  split
  · split
    · exact ⟨_, _, _, _, rfl⟩
    · exact ⟨k.pc, k.loops, k.region, k.rungLast, rfl⟩
  · exact ⟨k.pc, k.loops, k.region, k.rungLast, rfl⟩

/-- What the completion of an engine's oldest instruction leaves of its core: the instruction is out of flight and counted,
and at most the sequencer's place, its waits and its barriers differ besides. -/
theorem State.completeHead_core (s : State) (c : Nat) (e : Engine) :
    ∃ p l r x b q, (s.completeHead c e).core c = { s.core c with
      flight := (s.core c).flight.set e (((s.core c).flight.get e).drop 1)
      completed := (s.core c).completed.set e ((s.core c).completed.get e + 1)
      retired := (s.core c).retired.set e (satCount ((s.core c).retired.get e + 1))
      pc := p, loops := l, region := r, rungLast := x, barriers := b, seqWait := q } := by
  rw [State.completeHead, State.setCore_self]
  obtain ⟨p, l, r, x, h⟩ := Core.closeRegion_shape (Core.releaseBarriers { s.core c with
    flight := (s.core c).flight.set e (((s.core c).flight.get e).drop 1)
    completed := (s.core c).completed.set e ((s.core c).completed.get e + 1)
    retired := (s.core c).retired.set e (satCount ((s.core c).retired.get e + 1)) })
  exact ⟨p, l, r, x, _, _, h⟩

theorem State.completeHead_others (s : State) (c : Nat) (e : Engine) : OtherCores c s (s.completeHead c e) :=
  fun _ hj => (State.setCore_get _ _ _ _).trans (if_neg hj)

/-- An oldest instruction whose effect was on tiles alone is retired when it completes. -/
theorem OnlyTiles.retired {c : Nat} {s t : State} {e : Engine} {f : InFlight} {fs : List InFlight} (h : OnlyTiles c s t)
    (hhead : (s.core c).flight.get e = f :: fs) : Retired s (t.completeHead c e) c e fs := by
  obtain ⟨ts, hcore⟩ := h.core
  obtain ⟨p, l, r, x, b, q, hdone⟩ := t.completeHead_core c e
  rw [hcore] at hdone
  refine ⟨?flight, ?completed, ?retired, by rw [hdone], by rw [hdone],
    fun j hj => (t.completeHead_others c e j hj).trans (h.others j hj)⟩
  all_goals rw [hdone, Q4.get_set]
  case flight => rw [hhead, List.drop_one, List.tail_cons]

@[simp] theorem State.completeHead_tiles (s : State) (c : Nat) (e : Engine) :
    ((s.completeHead c e).core c).tiles = (s.core c).tiles := by
  obtain ⟨p, l, r, x, b, q, h⟩ := s.completeHead_core c e
  rw [h]

@[simp] theorem State.completeHead_vregs (s : State) (c : Nat) (e : Engine) :
    ((s.completeHead c e).core c).vregs = (s.core c).vregs := by
  obtain ⟨p, l, r, x, b, q, h⟩ := s.completeHead_core c e
  rw [h]

@[simp] theorem State.completeHead_tile (s : State) (c : Nat) (e : Engine) (i j : Nat) :
    ((s.completeHead c e).core c).tile i j = (s.core c).tile i j := by
  rw [Core.tile, State.completeHead_tiles, ← Core.tile]

/-- INSTRUCTION_COMPLETE on a press whose oldest instruction has paid: it takes its effect and leaves. -/
theorem exec_instructionComplete_press {c : CoreId} {s₀ s : State} {f : InFlight} {fs : List InFlight}
    (h : Oldest s₀ s c .press f fs) :
    exec (.instructionComplete c .press) s₀ = .next ((s.finishPress c f).completeHead c .press) := by
  have holdest : s.completeOldest c .press = some ((s.finishPress c f).completeHead c .press) := by
    rw [State.completeOldest, h.head]
    exact if_neg (not_not_intro h.paid)
  change execInstructionComplete c .press s₀ = _
  rw [execInstructionComplete, if_neg (by rw [h.live, h.clocked]; decide), ← h.caught]
  dsimp only
  rw [holdest, Option.getD_some]

/-! ### The statement -/

theorem tzero_completes {c : CoreId} {s₀ s : State} {f : InFlight} {fs : List InFlight} (h : Oldest s₀ s c .press f fs)
    (hop : wOp f.q.word = 4) : After (.instructionComplete c .press) s₀ fun t =>
      Retired s t c .press fs ∧ SameMemory s t ∧ (t.core c).vregs = (s.core c).vregs ∧
      (∀ i < 16, ∀ e < 1024, (t.core c).tile i e = if bitOf f.q.word.toNat (38 + i) then 0 else (s.core c).tile i e) ∧
      (bitsOf f.q.word.toNat 53 38 = 0 → (t.core c).tiles = (s.core c).tiles) := by
  refine ⟨_, exec_instructionComplete_press h, ?_⟩
  rw [State.finishPress_tzero s c hop]
  have honly := State.zeroTallies_onlyTiles c s (namedTallies f.q.word)
  refine ⟨honly.retired h.head, State.byte_congr honly.mem, ?vregs, fun i hi e he => ?tile, fun hmask => ?noMask⟩
  case vregs =>
    obtain ⟨ts, hcore⟩ := honly.core
    rw [State.completeHead_vregs, hcore]
  case tile =>
    rw [State.completeHead_tile, State.zeroTallies_tile c s _ i e he]
    simp only [mem_namedTallies hi]
  case noMask => rw [State.completeHead_tiles, namedTallies_of_mask_zero hmask, State.forEach_nil]

/-- Settles O29: a mask with a reserved bit fails TZERO's one check, any other is queued as it is; at the completion the walk
over the named tallies writes their elements with zero, and a mask of zero names none. -/
theorem tallyZero : Obligations.TallyZero := by
  refine ⟨fun c s w hfetch hqueue hop hroom => ⟨tzero_faults hfetch hqueue hop hroom, fun hmask => ?_⟩,
    fun c s₀ s f fs h hop => tzero_completes h hop⟩
  refine ⟨_, (s.core c).window, tzero_queues hfetch hqueue hop hroom hmask, ?_⟩
  obtain ⟨p, l, r, x, hafter⟩ := Core.after_shape ((s.core c).enqueue .press ⟨w, [], (s.core c).pc,
    (s.core c).region.map (fun r => r.rung), (s.core c).dispatched.press, (s.core c).window⟩) (s.core c).pc
  rw [hafter]
  exact ⟨rfl, rfl, rfl⟩

end Sys2Proof.Machine
end
